-- ==== Sys2Proof/Word.lean ====
section
/-!
DEFINITION. The word types of the ZT2 module and the plainest splitting of a value into bytes (00 "Notation":
all multi-byte values are little-endian).
-/

namespace Sys2Proof

abbrev Byte := BitVec 8
/-- A register, address or data word of 64 bits (00 R9). -/
abbrev Word := BitVec 64
/-- A 16-bit status code (00 R12). -/
abbrev Code := BitVec 16
/-- A lap-extended ring sequence (14 R430). -/
abbrev Seq := BitVec 32

/-- The `n` low bytes of `v`, least significant first. -/
def leBytes : Nat → Nat → List Byte
  | 0, _ => []
  | n + 1, v => BitVec.ofNat 8 v :: leBytes n (v / 256)

/-- The value of bytes stored least significant first. -/
def leNat : List Byte → Nat
  | [] => 0
  | b :: bs => b.toNat + 256 * leNat bs

/-- Bits [lo + width - 1 : lo] of `v`. -/
def bitsOf (v lo width : Nat) : Nat := v / 2 ^ lo % 2 ^ width

/-- Bit `i` of `v`. -/
def bitOf (v i : Nat) : Bool := v / 2 ^ i % 2 == 1

end Sys2Proof
end

