-- ==== Sys2Proof/Syntax.lean ====
section
/-!
DEFINITION. The commands of the module: one constructor per row of spec/opcode_table.json, in the table's order.
The table gives no bits; operands select the agent (engine `e`, stream `q`, queue or mailbox `k`, operation `id`,
packet `k` of the delivered packets) or carry what the environment decides (a stored value, a measured figure).
-/

namespace Sys2Proof

/-- A consumer of a sealed ring (14 R435, R436). -/
inductive Consumer where
  | engineQueue (e q : Nat)
  | collectiveQueue (k : Nat)
  | mailbox (k : Nat)
  deriving DecidableEq, Repr

/-- A Virfen packet (12 R369): header fields and payload. -/
structure Packet where
  dest : Nat
  cls : Nat
  op : Nat
  src : Nat
  length : Nat
  psn : BitVec 32
  causal : BitVec 32
  addr : Nat
  tag : Nat
  status : Code
  path : Nat
  /-- the reserved bits of the header, all of them as one number -/
  reserved : Nat
  /-- the CRC-32 in the packet is right (12 R369) -/
  crcOk : Bool
  payload : List Byte
  deriving DecidableEq, Repr

/-- An Ethernet frame on P14 or P15 (12 R365). -/
structure EthFrame where
  ipv6 : Bool
  fragment : Bool
  tags : Nat
  udpPort : Nat
  bytes : Nat
  /-- the payload of the UDP datagram -/
  payload : List Byte
  deriving DecidableEq, Repr

/-- The figures of a log record that its source supplies (17 R511); the funnel adds the marks. -/
structure LogSource where
  cls : Nat
  code : Code
  domain : Nat
  unit : BitVec 16
  causeIn : BitVec 32
  detail : List Byte
  deriving DecidableEq, Repr

/-- What a cache does with a line that it is granted, or that it holds in M or E (11 R338): a store, or, in a cluster cache, a
core's AMO of 12 R375, LR or SC. -/
inductive LineOp where
  | store (bytes : List Byte)
  | amo (aop width : Nat) (operand compare : Word)
  | loadReserved (width : Nat)
  | storeConditional (bytes : List Byte)
  deriving DecidableEq, Repr

/-- Who consumes a byte with a parity or read error (11 R331, R332). -/
inductive ErrConsumer where
  /-- operation `id` of engine `e`; `progress` is how far it had come (rows, tokens or elements) -/
  | engineOp (e id progress : Nat)
  /-- a tile element that operation `id` of engine `e` reads (05 R126) -/
  | tileElem (e id row col : Nat)
  /-- an element of tile `tile` that the context save of engine `e` reads (05 R126) -/
  | savedElem (e tile row col : Nat)
  /-- a sequencer read for stream `q` of engine `e`: ring, header, image or completion -/
  | stream (e q : Nat)
  /-- the update controller at its pre-check -/
  | preCheck
  /-- an update unit in step 5 of 09 R266 -/
  | updateUnit (u : Nat)
  /-- the page copier on the piece it reads -/
  | copier
  /-- the collective logic of queue `k` -/
  | collective (k : Nat)
  /-- a host core of cluster `n` -/
  | core (n : Nat)
  /-- the remote requester whose packet is the `k`-th delivered one -/
  | remote (k : Nat)
  /-- a dirty line with a parity error that leaves the cache of `agent` -/
  | dirtyLine (agent : Nat)
  deriving DecidableEq, Repr

/-- A SIGNAL on its way (07 R199): an operation of this module, or a delivered packet. -/
inductive SignalSource where
  | engineOp (e id : Nat)
  | packet (k : Nat)
  deriving DecidableEq, Repr

/-- What a firmware processor leaves in its crash dump (14 R455). -/
structure DumpData where
  panicCode : BitVec 32
  csrs : List Word
  xregs : List Word
  trace : List Byte
  logTail : List Byte
  data : List Byte
  deriving DecidableEq, Repr

/-- A weight load goes on (04 R104, R105): the engine, and how many rows it has read by now. -/
structure LoadSteps where
  engine : Nat
  rows : Nat
  deriving DecidableEq, Repr

/-- An entry reaches a feeder (04 R112, R119): the planes that have entered by now, and the handshakes that found an empty
queue. -/
structure FeederSteps where
  planes : Nat
  waited : Nat
  deriving DecidableEq, Repr

/-- The end of a snoop lap (11 R330, R340): an address of its line, and how often the link ECC of a fill was retried. -/
structure LapEnd where
  addr : Nat
  eccRetries : Nat
  deriving DecidableEq, Repr

/-- A ring message with a parity error (11 R334): its number, and the stop that found the error. -/
structure RingMessage where
  number : Nat
  stop : Nat
  deriving DecidableEq, Repr

/-- The commands, in the order of spec/opcode_table.json. -/
inductive Instr where
  -- engine queues and descriptors (07, 14)
  | doorbell (e q : Nat) (v : Word)
  | sealReread (c : Consumer)
  | run (e q : Nat)
  | setGen (e q : Nat)
  | setGenApply (e : Nat)
  | ctxSave (e q entered : Nat)
  | ctxSaveComplete (e : Nat)
  | ctxRestore (e q : Nat)
  | resume (e q : Nat)
  | unknownDescriptor (e q : Nat)
  -- sequencer control (07 R188)
  | nop (e q : Nat)
  | endRun (e q : Nat)
  | endComplete (e q : Nat)
  | setd (e q : Nat)
  | addd (e q : Nat)
  | branch (e q : Nat)
  | tileWait (e q : Nat)
  -- array (04)
  | wload (e q : Nat)
  | wloadStart (e : LoadSteps)
  | wloadComplete (e : Nat)
  | array (e q : Nat)
  | arrayStart (e : Nat)
  | feederEntryArrival (e : Nat) (waited : FeederSteps)
  | arrayComplete (e : Nat)
  -- inset path, tiles, element unit (05, 06)
  | inset (e q : Nat)
  | insetStart (e : Nat)
  | insetComplete (e waited : Nat)
  | preload (e q : Nat)
  | preloadComplete (e : Nat)
  | drain (e q : Nat)
  | drainComplete (e : Nat)
  | eu (e q : Nat)
  | smaxUpdate (e q : Nat)
  | smaxFinal (e q : Nat)
  | euComplete (e waited : Nat)
  -- memory and synchronisation instructions (07 R194 to R204)
  | bulkLoad (e q : Nat)
  | bulkStore (e q : Nat)
  | bulkLoadComplete (e id : Nat)
  | bulkStoreComplete (e id : Nat)
  | atomic (e q : Nat)
  | atomicComplete (e id : Nat)
  | fence (e q : Nat)
  | signal (e q : Nat)
  | signalArrival (src : SignalSource)
  | wait (e q : Nat)
  | waitTimeout (e id : Nat)
  | reduce (e q : Nat)
  | reduceComplete (e id : Nat)
  -- engine faults, resets and registers
  | memoryParityError (c : ErrConsumer) (addr : Nat) (readError : Bool)
  | engineSelfPark (e : Nat)
  | singleEngineReset (e : Nat) (v : Word)
  | singleEngineResetDone (e : Nat)
  | qcfgWrite (e q : Nat) (v : Word)
  | streamFaultClear (e q : Nat) (v : Word)
  | trapRearm (e : Nat) (v : Word)
  | xlateInval (e : Nat) (v : Word)
  | xlateInvalDone (e : Nat)
  | registerWrite (offset width : Nat) (v : Word)
  -- legends (08)
  | legendMerge (e id : Nat)
  | useClose (entry : Nat)
  -- update (09)
  | go (v : Word)
  | updAbort (v : Word)
  | cleanFlag (group member : Nat) (step : Word) (clean : Bool)
  | voteOutcome (step : Word) (outcome : Nat)
  | voteTimeout
  | updateUnitsDone
  -- coherence (11)
  | readShared (agent addr : Nat)
  | readUnique (agent addr : Nat) (op : LineOp)
  | upgrade (agent addr : Nat) (op : LineOp)
  | writeBack (agent addr : Nat)
  | readOnce (addr len : Nat) (eccRetries : Nat)
  | writeAtHome (addr : Nat) (bytes : List Byte)
  | atomicAtHome (addr aop width : Nat) (operand compare : Word)
  | snoop (agent addr : Nat)
  | snoopLapComplete (addr : LapEnd)
  | writeBackAck (agent tag : Nat)
  | evictClean (agent addr : Nat)
  | ringParityFailure (message : RingMessage)
  -- remote operations and transport (12)
  | remoteRead (k : Nat)
  | remoteWrite (k : Nat)
  | remoteAtomic (k : Nat)
  | controlPacket (k : Nat)
  | collectivePacket (k : Nat)
  | packetResponse (k : Nat)
  | packetForward (port : Nat) (bytes : List Byte)
  | packetAck (src cls : Nat) (psn : BitVec 32) (probe : Bool) (port : Nat)
  | ackTimer (src cls : Nat)
  | retransmitTimeout (dest cls : Nat) (psn : BitVec 32)
  | flitCrcFailure (port flit : Nat)
  | retrainComplete (port : Nat)
  | retrainTimeout (port : Nat)
  | ethFrame (port : Nat) (f : EthFrame)
  | fabricReferenceLost
  | fabricReferenceRestored
  -- collectives (12)
  | cqDoorbell (k : Nat) (v : Word)
  | allReduce (k : Nat)
  | collectiveReduce (k : Nat)
  | reduceScatter (k : Nat)
  | broadcast (k : Nat)
  | allGather (k : Nat)
  | barrier (k : Nat)
  | collectiveUnknownType (k : Nat)
  | collectiveComplete (k : Nat)
  | collectiveTimeout (k : Nat)
  | collectiveAbort (group : Nat) (collSeq : BitVec 32)
  | groupControl (group epoch : Nat) (changeSeq : BitVec 32) (addr : Nat) (members : List Nat) (index : Nat)
  -- copier (13)
  | copierSnapshot (v : Word)
  | epochOpened
  | firstTouch (piece : Nat)
  | pieceCopied (piece : Nat)
  | epochCommit
  | copierAbort (v : Word)
  | copierRestore (v : Word)
  | restoreComplete
  | copierRefill (v : Word)
  | refillComplete
  | verifyGo (v : Word)
  | ledgerLoss (v : Word)
  | verifyFailClear (v : Word)
  -- mailboxes (14)
  | mbDoorbell (k : Nat) (v : Word)
  | mailboxUnknownOpcode (k : Nat)
  | getVersions (k : Nat)
  | resetRequest (k : Nat)
  | setPowerState (k : Nat)
  | setPowerCap (k : Nat)
  | setModuleNumber (k : Nat)
  | loadRoutes (k : Nat)
  | loadEthTable (k : Nat)
  | setGazBase (k : Nat)
  | setCq (k : Nat)
  | cqClearStop (k : Nat)
  | setNextSeq (k : Nat)
  | groupChange (k : Nat)
  | loadInjection (k : Nat)
  | setTransport (k : Nat)
  | portStatus (k : Nat)
  | portReset (k : Nat)
  | quarantineRead (k : Nat)
  | quarantineClear (k : Nat)
  | dirRead (k : Nat)
  | retireEngine (k : Nat)
  | rasCounts (k : Nat)
  | mbOpen (k : Nat)
  | mbClose (k : Nat)
  | setTensorTable (k : Nat)
  | setXlate (k : Nat)
  | telemetry (k : Nat)
  | dumpClear (k : Nat)
  | setLogRing (k : Nat)
  | fwStageBegin (k : Nat)
  | eraseComplete
  | fwStageWrite (k : Nat)
  | fwStageVerify (k : Nat)
  | fwActivate (k : Nat)
  | fwCancel (k : Nat)
  | configStage (k : Nat)
  | deferredActivation
  -- firmware processors (14)
  | watchdogExpiry (n : Nat) (sixth : Bool) (d : DumpData)
  | firmwarePanic (n : Nat) (sixth exception : Bool) (d : DumpData)
  | privateSramParity (n : Nat) (sixth : Bool) (d : DumpData)
  | fwRestartComplete (n : Nat)
  | trialConfirm
  -- resets and power (15)
  | coldPowerOn (volts presentLow : Bool)
  | moduleWarmReset
  | engineComplexReset
  | hostLinkFailure (link : Nat)
  | hostLinkRetrained (link : Nat)
  | hostLinkTimeout (link : Nat)
  | inputSample (power volts : Nat)
  | peakOvercurrent
  | sustainedOvercurrent
  | capStep
  | overcurrentPark
  | overcurrentParkRelease
  | capRaise
  | tempSample (temps : List Nat)
  | thermalRelease
  | underVoltage (volts : Nat)
  | overVoltage (volts : Nat)
  | railWindowTrip (rail mv : Nat)
  | referenceLost
  | referenceRestored
  | railRequest (mv : Nat)
  | presentNRelease (volts : Nat)
  -- sideband and management port (19)
  | resetN
  | spiRecovery
  | spiRecoveryEnd
  | wakeTimer
  | readReg (offset : Nat)
  | wake
  | i2cUnknownCommand (b : Byte)
  | wakeFrame (toOurMac : Bool) (etherType : Nat) (payload : List Byte)
  -- attestation (16)
  | getVersion
  | getCapabilities
  | negotiateAlgorithms (ecdsaP384 sha384 : Bool)
  | getDigests
  | getCertificate (slot offset len : Nat)
  | challenge (slot : Nat) (transcript : List Byte) (windowPassed : Bool)
  | getMeasurements (index : Nat) (transcript : List Byte) (windowPassed : Bool)
  -- logs (17)
  | logRecord (r : LogSource)
  | alarm (r : LogSource) (dests : List Nat)
  | alarmSend (windowPassed : Bool)
  | logRingWrite (cls : Nat)
  -- the rows added at the table's end
  | engineComplexReady
  | probePacket (dest cls port : Nat)
  | creditReturn (port cls credits flits : Nat)
  | debugInstruction (ir : Nat)
  deriving DecidableEq, Repr

end Sys2Proof
end

