-- ==== Sys2Proof/Config.lean ====
section
/-!
DEFINITION. What one implementation fixes and the spec leaves open: the free values (no body, so that no proof can
see a value of one), and the external algorithms that the spec names by their own standards.
-/

namespace Sys2Proof

/-- A free A48 code: a tile element after an array or inset fault (04 R122, 06 R154). -/
opaque Config.freeTileElem : Nat → BitVec 48

/-- A free choice between the old and the new value of one 64-byte word (07 R195, 09 R270, 12 R394). -/
opaque Config.freeKeepsOld : Nat → Nat → Bool

/-- Whether a context save or restore is refused while a tile is held: 05 R128 refuses it, and 05 R144 interrupts the
operations that run (log 98). -/
opaque Config.contextNeedsFreeTiles : Bool

/-- Cycles of clock domain `d` that pass in one idle step (17 R512). -/
opaque Config.freeTicks : Nat → Nat → BitVec 64

/-- Sequencer steps that pass in one idle step (07 R200, 10 R285). -/
opaque Config.freeSteps : Nat → BitVec 64

/-- Rail `n` as measured in mV at an input sample (15 R481). -/
opaque Config.freeRailMv : Nat → Nat → BitVec 16

/-- The FP32 result of a function of 06 R159 where the evaluation below did not settle its rounding. -/
opaque Config.freeFunction : Nat → Nat → Nat

/-- The result of an operation after a value that the spec does not state (number `k` of the model's list). -/
opaque Config.freeWord : Nat → BitVec 64

/-- The words after a partial write-back of a bad dirty line (11 R332 "good bytes"): whether byte `i` is good. -/
opaque Config.freeByteGood : Nat → Nat → Bool

/-- SHA-384 of a byte string (16 R494; its own standard). -/
opaque Config.sha384 : List Byte → List Byte

/-- The digest of the configuration record in use when no copy verifies (16 R498): the defaults are no record. -/
opaque Config.defaultRecordDigest : List Byte

/-- HMAC-SHA-384 with a key (16 R494, R498). -/
opaque Config.hmacSha384 : List Byte → List Byte → List Byte

/-- ECDSA P-384 verification: public key, message, signature (16 R496, R497). -/
opaque Config.ecdsaVerifies : List Byte → List Byte → List Byte → Bool

/-- HSS/LMS verification: public key, message, signature (16 R496, R497). -/
opaque Config.hssVerifies : List Byte → List Byte → List Byte → Bool

/-- The vendor ECDSA key in the ROM of FW0 (16 R495). -/
opaque Config.vendorEcdsaKey : List Byte

/-- The vendor HSS key in the ROM of FW0 (16 R495). -/
opaque Config.vendorHssKey : List Byte

/-- The corrected PUF response, from the helper data; none where it cannot be corrected (16 R494). -/
opaque Config.pufSecret : List Byte → Option (List Byte)

/-- Whether the DeviceID derived from the secret is the one of the certificate (16 R494). -/
opaque Config.deviceIdMatches : List Byte → List Byte → Bool

/-- An ECDSA signature of a key derived from a secret (16 R505). -/
opaque Config.ecdsaSign : List Byte → List Byte → List Byte

/-- The HSS signature with index N of the device LMS key (16 R502, R505). -/
opaque Config.hssSign : List Byte → Nat → List Byte → List Byte

/-- Version of the ROM of FW0 (16 R505). -/
opaque Config.romVersion : BitVec 64

/-- A certificate of slot 0 (vendor root, DeviceID, Alias) from the device secrets (16 R505). -/
opaque Config.certificateChain : List Byte → List Byte

end Sys2Proof
end

