-- ==== Sys2Proof/Machine/Operands.lean ====
section
/-!
DEFINITION. The operand forms of the module: the tensor number formats of 02 (codes, layout, values), exact
arithmetic on their values, rounding, conversion and range handling, and the stochastic rounding generator.
-/

namespace Sys2Proof.Machine

/-- The formats of 02 R40. -/
inductive Fmt where
  | fp32 | bf16 | fp16 | e5m2 | e4m3 | e3m2 | e2m3 | e2m1 | int4 | int2 | ternary | binary | a48 | w12 | e8m0
  deriving DecidableEq, Repr

/-- 02 R40: codes 0x0F to 0x1F are reserved. -/
def fmtOfCode : Nat → Option Fmt
  | 0x00 => some .fp32
  | 0x01 => some .bf16
  | 0x02 => some .fp16
  | 0x03 => some .e5m2
  | 0x04 => some .e4m3
  | 0x05 => some .e3m2
  | 0x06 => some .e2m3
  | 0x07 => some .e2m1
  | 0x08 => some .int4
  | 0x09 => some .int2
  | 0x0A => some .ternary
  | 0x0B => some .binary
  | 0x0C => some .a48
  | 0x0D => some .w12
  | 0x0E => some .e8m0
  | _ => none

def fmtCode : Fmt → Nat
  | .fp32 => 0x00
  | .bf16 => 0x01
  | .fp16 => 0x02
  | .e5m2 => 0x03
  | .e4m3 => 0x04
  | .e3m2 => 0x05
  | .e2m3 => 0x06
  | .e2m1 => 0x07
  | .int4 => 0x08
  | .int2 => 0x09
  | .ternary => 0x0A
  | .binary => 0x0B
  | .a48 => 0x0C
  | .w12 => 0x0D
  | .e8m0 => 0x0E

/-- Bits of one element in memory (02 R40, R42); W12 is FP32 in memory (02 R49). -/
def memBits : Fmt → Nat
  | .fp32 => 32
  | .bf16 => 16
  | .fp16 => 16
  | .e5m2 => 8
  | .e4m3 => 8
  | .e3m2 => 6
  | .e2m3 => 6
  | .e2m1 => 4
  | .int4 => 4
  | .int2 => 2
  | .ternary => 2
  | .binary => 1
  | .a48 => 48
  | .w12 => 32
  | .e8m0 => 8

/-- 02 R40 column "Multiply input": FP32 multiplies only through W12. -/
def multiplyOk : Fmt → Bool
  | .fp32 => false
  | .a48 => false
  | .e8m0 => false
  | _ => true

/-- 02 R40 column "Storage and output". -/
def storageOk : Fmt → Bool
  | .w12 => false
  | .e8m0 => false
  | _ => true

/-- Exponent bits, bias and fraction bits of a floating-point format (02 R43). -/
def fpParams : Fmt → Option (Nat × Nat × Nat)
  | .e2m1 => some (2, 1, 1)
  | .e2m3 => some (2, 1, 3)
  | .e3m2 => some (3, 3, 2)
  | .e4m3 => some (4, 7, 3)
  | .e5m2 => some (5, 15, 2)
  | .fp16 => some (5, 15, 10)
  | .bf16 => some (8, 127, 7)
  | .w12 => some (8, 127, 11)
  | .fp32 => some (8, 127, 23)
  | .a48 => some (10, 511, 37)
  | _ => none

/-- An exact value: NaN, an infinity, or a signed rational `num / den` (zero keeps its sign). -/
inductive Val where
  | nan
  | inf (neg : Bool)
  | fin (neg : Bool) (num den : Nat)
  deriving DecidableEq, Repr

/-- `n × 2^k` as a fraction. -/
def scaled (n : Nat) (k : Int) : Nat × Nat :=
  if k ≥ 0 then (n * 2 ^ k.toNat, 1) else (n, 2 ^ (-k).toNat)

def finScaled (neg : Bool) (n : Nat) (k : Int) : Val :=
  let p := scaled n k
  .fin neg p.1 p.2

def posZero : Val := .fin false 0 1
def negZero : Val := .fin true 0 1
def oneVal : Val := .fin false 1 1

/-- 02 R44: whether the format has infinities (exponent field all ones, fraction zero). -/
def hasInf : Fmt → Bool
  | .e5m2 => true
  | .fp16 => true
  | .bf16 => true
  | .w12 => true
  | .fp32 => true
  | .a48 => true
  | _ => false

/-- The value of a floating-point code (02 R43 to R45). -/
def fpDecode (f : Fmt) (eb bias fb code : Nat) : Val :=
  let neg := bitOf code (eb + fb)
  let e := bitsOf code fb eb
  let m := bitsOf code 0 fb
  if hasInf f && e == 2 ^ eb - 1 then
    if m == 0 then .inf neg else .nan
  else if f == .e4m3 && e == 15 && m == 7 then .nan
  else if e == 0 then finScaled neg m (1 - (bias : Int) - fb)
  else finScaled neg (2 ^ fb + m) ((e : Int) - bias - fb)

/-- A two's-complement code of `w` bits. -/
def intDecode (w code : Nat) : Val :=
  let c := code % 2 ^ w
  if c < 2 ^ (w - 1) then .fin false c 1 else .fin true (2 ^ w - c) 1

/-- The value of an element code (02 R43 to R48, R51); the ternary code 0b10 takes the value 0. -/
def decodeVal (f : Fmt) (code : Nat) : Val :=
  match f with
  | .int4 => intDecode 4 code
  | .int2 => intDecode 2 code
  | .ternary => if code % 4 == 1 then oneVal else if code % 4 == 3 then .fin true 1 1 else posZero
  | .binary => if code % 2 == 1 then oneVal else .fin true 1 1
  | .e8m0 => if code % 256 == 255 then .nan else finScaled false 1 ((code % 256 : Nat) - (127 : Int))
  | f =>
    match fpParams f with
    | some (eb, bias, fb) => fpDecode f eb bias fb code
    | none => .nan

/-- 02 R48: the ternary code that counts as non-finite in its legend. -/
def invalidTernary (f : Fmt) (code : Nat) : Bool := f == .ternary && code % 4 == 2

def isNan : Val → Bool
  | .nan => true
  | _ => false

def isInf : Val → Bool
  | .inf _ => true
  | _ => false

def isZero : Val → Bool
  | .fin _ n _ => n == 0
  | _ => false

def isNeg : Val → Bool
  | .nan => false
  | .inf s => s
  | .fin s _ _ => s

def negVal : Val → Val
  | .nan => .nan
  | .inf s => .inf (!s)
  | .fin s n d => .fin (!s) n d

def absVal : Val → Val
  | .nan => .nan
  | .inf _ => .inf false
  | .fin _ n d => .fin false n d

/-- The exact product; infinity times zero is NaN (02 R60, 03 R78). -/
def mulVal (a b : Val) : Val :=
  match a, b with
  | .nan, _ => .nan
  | _, .nan => .nan
  | .inf s, .inf t => .inf (s != t)
  | .inf s, .fin t n _ => if n == 0 then .nan else .inf (s != t)
  | .fin s n _, .inf t => if n == 0 then .nan else .inf (s != t)
  | .fin s n d, .fin t m e => .fin (s != t) (n * m) (d * e)

/-- The exact sum, with the zero and infinity rules of 03 R80. -/
def addVal (a b : Val) : Val :=
  match a, b with
  | .nan, _ => .nan
  | _, .nan => .nan
  | .inf s, .inf t => if s == t then .inf s else .nan
  | .inf s, .fin .. => .inf s
  | .fin .., .inf t => .inf t
  | .fin s n d, .fin t m e =>
    if n == 0 && m == 0 then .fin (s && t) 0 1
    else
      let x := n * e
      let y := m * d
      if s == t then .fin s (x + y) (d * e)
      else if x == y then posZero
      else if x > y then .fin s (x - y) (d * e)
      else .fin t (y - x) (d * e)

def subVal (a b : Val) : Val := addVal a (negVal b)

/-- The exact quotient (09 R254 DIV; 06 R160 RECIP). -/
def divVal (a b : Val) : Val :=
  match a, b with
  | .nan, _ => .nan
  | _, .nan => .nan
  | .inf _, .inf _ => .nan
  | .inf s, .fin t _ _ => .inf (s != t)
  | .fin s _ _, .inf t => .fin (s != t) 0 1
  | .fin s n d, .fin t m e =>
    if m == 0 then (if n == 0 then .nan else .inf (s != t)) else .fin (s != t) (n * e) (d * m)

def scaleVal (a : Val) (k : Int) : Val :=
  match a with
  | .fin s n d =>
    let p := scaled n k
    .fin s p.1 (d * p.2)
  | v => v

/-- 02 R52: the order of two values; none where one is NaN. -/
def cmpVal (a b : Val) : Option Ordering :=
  match a, b with
  | .nan, _ => none
  | _, .nan => none
  | .inf s, .inf t => some (if s == t then .eq else if s then .lt else .gt)
  | .inf s, .fin .. => some (if s then .lt else .gt)
  | .fin .., .inf t => some (if t then .gt else .lt)
  | .fin s n d, .fin t m e =>
    if n == 0 && m == 0 then some .eq
    else if n == 0 then some (if t then .gt else .lt)
    else if m == 0 then some (if s then .lt else .gt)
    else if s && !t then some .lt
    else if !s && t then some .gt
    else
      let c := compare (n * e) (m * d)
      some (if s then c.swap else c)

def eqVal (a b : Val) : Bool := cmpVal a b == some .eq
def ltVal (a b : Val) : Bool := cmpVal a b == some .lt
def leVal (a b : Val) : Bool := ltVal a b || eqVal a b

/-- 02 R53: maximum with NaN propagation, and +0 the larger of the zeros. -/
def maxVal (a b : Val) : Val :=
  match cmpVal a b with
  | none => .nan
  | some .lt => b
  | some .gt => a
  | some .eq => if isZero a then (if isNeg a && isNeg b then negZero else posZero) else a

/-- 02 R53: minimum with NaN propagation, and −0 the smaller of the zeros. -/
def minVal (a b : Val) : Val :=
  match cmpVal a b with
  | none => .nan
  | some .lt => a
  | some .gt => b
  | some .eq => if isZero a then (if isNeg a || isNeg b then negZero else posZero) else a

/-- floor(log2(n / d)) for n, d > 0. -/
def floorLog2 (n d : Nat) : Int :=
  let k : Int := (Nat.log2 n : Int) - Nat.log2 d
  let p := scaled d k
  if n * p.2 < p.1 then k - 1 else k

/-- floor(x / 2^k) of a signed value, toward −∞ (03 R77, R78). -/
def floorScaled (v : Val) (k : Int) : Int :=
  match v with
  | .fin s n d =>
    let p := scaled d k
    let q : Int := if s then -((n * p.2 : Nat) : Int) else ((n * p.2 : Nat) : Int)
    Int.fdiv q (p.1 : Int)
  | _ => 0

/-- The rounding modes of 02 R55, the draw given as its number of bits and its value (02 R63). -/
inductive RMode where
  | rne
  | sr (bits r : Nat)
  | rtz
  deriving DecidableEq, Repr

/-- The magnitude `n / d` rounded to a whole number of units (02 R55, R63). -/
def roundUnits (m : RMode) (n d : Nat) : Nat :=
  let q := n / d
  let r := n % d
  match m with
  | .rtz => q
  | .rne => if 2 * r > d || (2 * r == d && q % 2 == 1) then q + 1 else q
  | .sr bits x => if r * 2 ^ bits / d + x ≥ 2 ^ bits then q + 1 else q

/-- The magnitude code (exponent field and fraction) of `n / d` rounded with an unbounded exponent (02 R55). -/
def roundMagnitude (m : RMode) (bias fb n d : Nat) : Nat :=
  if n == 0 then 0
  else
    let emin : Int := 1 - (bias : Int)
    let e := max (floorLog2 n d) emin
    let p := scaled d (e - fb)
    let q := roundUnits m (n * p.2) p.1
    (e - emin).toNat * 2 ^ fb + q

/-- The magnitude code of the largest finite value (02 R43). -/
def maxFinite : Fmt → Nat
  | .e2m1 => 0x7
  | .e2m3 => 0x1F
  | .e3m2 => 0x1F
  | .e4m3 => 0x7E
  | .e5m2 => 0x7B
  | .fp16 => 0x7BFF
  | .bf16 => 0x7F7F
  | .w12 => 0x7F7FF
  | .fp32 => 0x7F7FFFFF
  | .a48 => 0x7FDFFFFFFFFF
  | .int4 => 7
  | .int2 => 1
  | .ternary => 1
  | .binary => 1
  | .e8m0 => 0xFE

/-- The canonical NaN, or the substitute where the format has none (02 R44, R57). -/
def nanCode : Fmt → Nat
  | .e4m3 => 0x7F
  | .e5m2 => 0x7F
  | .fp16 => 0x7E00
  | .bf16 => 0x7FC0
  | .w12 => 0x7FC00
  | .fp32 => 0x7FC00000
  | .a48 => 0x7FF000000000
  | .binary => 1
  | .e8m0 => 0xFF
  | _ => 0

/-- The magnitude code of infinity: one above the largest finite code where the format has infinities (02 R44). -/
def infCode (f : Fmt) : Nat := maxFinite f + 1

/-- The least value of an integer-like format, as a magnitude (02 R47, R57). -/
def minMagnitude : Fmt → Nat
  | .int4 => 8
  | .int2 => 2
  | _ => 1

def intWidth : Fmt → Nat
  | .int4 => 4
  | _ => 2

/-- The two's-complement code of a signed integer; ternary −1 is 0b11 (02 R47). -/
def intCode (f : Fmt) (neg : Bool) (m : Nat) : Nat :=
  if neg && m != 0 then 2 ^ intWidth f - m else m

/-- A converted element: its code, and whether a finite input overflowed (02 R57, R58). -/
structure Conv where
  code : Nat
  overflow : Bool
  deriving DecidableEq, Repr

def signedCode (bits : Nat) (neg : Bool) (mag : Nat) : Nat := if neg then 2 ^ (bits - 1) + mag else mag

/-- 02 R57 for a floating-point destination: the code for an infinite input. -/
def infResult (f : Fmt) : Nat := if hasInf f then infCode f else maxFinite f

/-- 02 R57: what a finite value that overflows becomes. -/
def overflowResult (f : Fmt) (m : RMode) (e5Ovf : Bool) : Nat :=
  match f with
  | .e5m2 => if e5Ovf && m != .rtz then infCode .e5m2 else maxFinite .e5m2
  | f => if hasInf f && m != .rtz then infCode f else maxFinite f

/-- Bits of the code itself (W12 is 20 bits wide). -/
def codeBits : Fmt → Nat
  | .w12 => 20
  | f => memBits f

/-- One conversion: round once, then the range rules (02 R54 to R59). -/
def convertTo (f : Fmt) (m : RMode) (e5Ovf : Bool) (v : Val) : Conv :=
  match f with
  | .binary => ⟨if isNan v then 1 else if isNeg v then 0 else 1, false⟩
  | .int4 | .int2 | .ternary =>
    match v with
    | .nan => ⟨0, false⟩
    | .inf s => ⟨intCode f s (if s then minMagnitude f else maxFinite f), false⟩
    | .fin s n d =>
      let q := roundUnits m n d
      let top := if s then minMagnitude f else maxFinite f
      if q > top then ⟨intCode f s top, true⟩ else ⟨intCode f s q, false⟩
  | f =>
    match fpParams f with
    | none => ⟨0, false⟩
    | some (_, bias, fb) =>
      match v with
      | .nan => ⟨nanCode f, false⟩
      | .inf s => ⟨signedCode (codeBits f) s (infResult f), false⟩
      | .fin s n d =>
        let c := roundMagnitude m bias fb n d
        if c > maxFinite f then ⟨signedCode (codeBits f) s (overflowResult f m e5Ovf), true⟩
        else ⟨signedCode (codeBits f) s c, false⟩

/-- Round-to-nearest-even to a format, as a value. -/
def rneVal (f : Fmt) (v : Val) : Val := decodeVal f (convertTo f .rne false v).code

/-- The A48 code by round-to-nearest-even. -/
def toA48 (v : Val) : Nat := (convertTo .a48 .rne false v).code

/-- The FP32 code by round-to-nearest-even. -/
def toFp32 (v : Val) : Nat := (convertTo .fp32 .rne false v).code

def a48Val (c : Nat) : Val := decodeVal .a48 c
def fp32Val (c : Nat) : Val := decodeVal .fp32 c

/-- Addition of two A48 codes, rounded to A48 (03 R80, R84). -/
def addA48 (x y : Nat) : Nat := toA48 (addVal (a48Val x) (a48Val y))

/-- The format a multiply operand presents: W12 is read as FP32 and rounded to W12 (02 R49). -/
def operandVal (f : Fmt) (code : Nat) : Val :=
  match f with
  | .w12 => rneVal .w12 (fp32Val code)
  | f => decodeVal f code

/-! ### Layout in memory (02 R42) -/

/-- Bytes of `n` packed elements. -/
def packedBytes (f : Fmt) (n : Nat) : Nat :=
  match f with
  | .e3m2 | .e2m3 => (n + 3) / 4 * 3
  | f => (n * memBits f + 7) / 8

/-- Row alignment: 6-bit tensors start on a 3-byte group, the others on a byte (02 R42). -/
def rowAlign : Fmt → Nat
  | .e3m2 => 3
  | .e2m3 => 3
  | _ => 1

/-- Element `i` of packed bytes read as one little-endian number. -/
def elemOf (f : Fmt) (packed i : Nat) : Nat := bitsOf packed (i * memBits f) (memBits f)

/-- The elements packed, as one little-endian number. -/
def packElems (f : Fmt) : List Nat → Nat
  | [] => 0
  | c :: cs => c % 2 ^ memBits f + 2 ^ memBits f * packElems f cs

/-! ### Conversion control (02 R56) -/

inductive RoundSel where
  | rne | sr | rtz
  deriving DecidableEq, Repr

structure ConvCtrl where
  dst : Fmt
  round : RoundSel
  randBits : Nat
  e5Ovf : Bool
  blockOut : Bool
  deriving DecidableEq, Repr

def roundSelOf : Nat → Option RoundSel
  | 0 => some .rne
  | 1 => some .sr
  | 2 => some .rtz
  | _ => none

/-- RAND_BITS (02 R56): 12, 8 or 16 bits. -/
def randBitsOf : Nat → Option Nat
  | 0 => some 12
  | 1 => some 8
  | 2 => some 16
  | _ => none

def blockFmt : Fmt → Bool
  | .e5m2 | .e4m3 | .e3m2 | .e2m3 | .e2m1 => true
  | _ => false

/-- CONV_CTRL read under 02 R56; none where it is refused. `blocksAllowed` is false in a carrier without block scales. -/
def convCtrlOf (w : Nat) (blocksAllowed : Bool) : Option ConvCtrl :=
  match fmtOfCode (bitsOf w 0 5), roundSelOf (bitsOf w 5 2), randBitsOf (bitsOf w 7 2) with
  | some f, some r, some b =>
    let block := bitOf w 10
    if bitsOf w 11 5 != 0 || !storageOk f || (block && (!blockFmt f || !blocksAllowed)) then none
    else some ⟨f, r, b, bitOf w 9, block⟩
  | _, _, _ => none

/-! ### The stochastic rounding generator (02 R64 to R67) -/

/-- `mix` of 02 R64. -/
def mix (s : Word) (t : BitVec 32) (c : Word) : Word :=
  let z := (s ^^^ (t.zeroExtend 64 * 0xD1B54A32D192ED03#64)) + (c + 1) * 0x9E3779B97F4A7C15#64
  let z := (z ^^^ (z >>> 30)) * 0xBF58476D1CE4E5B9#64
  let z := (z ^^^ (z >>> 27)) * 0x94D049BB133111EB#64
  z ^^^ (z >>> 31)

/-- 02 R65: SOURCE, UNIT and LANE. -/
def streamNumber (source unit lane : Nat) : BitVec 32 :=
  BitVec.ofNat 32 (source % 16 * 2 ^ 28 + unit % 4096 * 2 ^ 16 + lane % 65536)

/-- The top `bits` bits of the output for a counter (02 R64). -/
def drawBits (seed : Word) (stream : BitVec 32) (counter : Word) (bits : Nat) : Nat :=
  (mix seed stream counter).toNat / 2 ^ (64 - bits)

/-- The rounding mode of one element: SR takes its draw (02 R63), binary takes none (02 R59). -/
def modeOf (sel : RoundSel) (bits r : Nat) : RMode :=
  match sel with
  | .rne => .rne
  | .sr => .sr bits r
  | .rtz => .rtz

/-! ### Block scales of an output (02 R62) -/

/-- EMAX of 02 R62. -/
def blockEmax : Fmt → Int
  | .e2m1 => 2
  | .e2m3 => 2
  | .e3m2 => 4
  | .e4m3 => 8
  | .e5m2 => 15
  | _ => 0

def maxMagnitude : List Val → Val
  | [] => posZero
  | v :: vs =>
    let m := maxMagnitude vs
    if ltVal m (absVal v) then absVal v else m

/-- The scale code of a group of exact values (02 R62). -/
def blockScaleOf (f : Fmt) (vs : List Val) : Nat :=
  if vs.any (fun v => isNan v || isInf v) then 0xFF
  else
    match maxMagnitude vs with
    | .fin _ n d =>
      if n == 0 then 0x00
      else
        let x := max (-127) (min 127 (floorLog2 n d - blockEmax f))
        (x + 127).toNat
    | _ => 0xFF

/-- One element of a block-scaled output, for the group's scale code (02 R62). -/
def blockElem (f : Fmt) (scale : Nat) (m : RMode) (e5Ovf : Bool) (v : Val) : Conv :=
  if scale == 0xFF then ⟨nanCode f, false⟩
  else if scale == 0 && isZero v then ⟨signedCode (codeBits f) (isNeg v) 0, false⟩
  else convertTo f m e5Ovf (scaleVal v (127 - (scale : Int)))

end Sys2Proof.Machine
end

