-- ==== Sys2Proof/Machine/DatumOrder.lean ====
section
/-!
DEFINITION. The datum order (03): exact products, group sums in a window, rounding into A48, ascending accumulation
and the member tree.
-/

namespace Sys2Proof.Machine

/-- The window width of one format (03 R76). -/
def windowOf : Fmt → Nat
  | .e2m1 => 16
  | .e2m3 => 24
  | .e3m2 => 28
  | .e4m3 => 48
  | .e5m2 => 80
  | .int4 => 14
  | .int2 => 10
  | .ternary => 10
  | .binary => 8
  | _ => 64

def multiPass : Fmt → Bool
  | .bf16 | .fp16 | .w12 => true
  | _ => false

/-- The window width of a pair of formats (03 R76). -/
def pairWindow (a b : Fmt) : Nat :=
  if multiPass a || multiPass b then 64 else max (windowOf a) (windowOf b)

def exponentOf : Val → Option Int
  | .fin _ n d => if n == 0 then none else some (floorLog2 n d)
  | _ => none

def maxExponent : List Val → Option Int
  | [] => none
  | v :: vs =>
    match exponentOf v, maxExponent vs with
    | some e, some m => some (max e m)
    | some e, none => some e
    | none, m => m

def sumFloors (lsb : Int) : List Val → Int
  | [] => 0
  | v :: vs => floorScaled v lsb + sumFloors lsb vs

/-- `group_sum` of 03 R78 over the products of one group, at least one. -/
def groupSum (p : List Val) (w : Nat) : Val :=
  if p.any isNan then .nan
  else
    let pinf := p.any fun v => v == .inf false
    let ninf := p.any fun v => v == .inf true
    if pinf && ninf then .nan
    else if pinf then .inf false
    else if ninf then .inf true
    else
      match maxExponent p with
      | none => if p.all isNeg then negZero else posZero
      | some emax =>
        let lsb := emax - ((w : Int) - 7)
        let s := sumFloors lsb p
        if s == 0 then posZero else finScaled (s < 0) s.natAbs lsb

/-- Step 3 of 03 R75 (R79): block scale codes, none standing for an operand without block scales. -/
def groupA48 (sum : Val) (xa xb : Option Nat) : Nat :=
  if xa == some 0xFF || xb == some 0xFF then nanCode .a48
  else
    let k (x : Option Nat) : Int := match x with
      | none => 0
      | some c => (c : Int) - 127
    toA48 (scaleVal sum (k xa + k xb))

/-- Step 4 (03 R80). -/
def accumulate (init : Nat) : List Nat → Nat
  | [] => init
  | g :: gs => accumulate (addA48 init g) gs

/-- One pass over a level of the member tree: pairs are added, an odd last one passes up (03 R84). -/
def treeLevel (add : Nat → Nat → Nat) : List Nat → List Nat
  | x :: y :: rest => add x y :: treeLevel add rest
  | l => l

/-- The member tree of 03 R84 over the partials in member order; `fuel` levels (at least log2 of the members). -/
def memberTreeFuel (add : Nat → Nat → Nat) : Nat → List Nat → Nat
  | 0, l => l.headD 0
  | k + 1, l =>
    match l with
    | [] => 0
    | [x] => x
    | l => memberTreeFuel add k (treeLevel add l)

def memberTree (add : Nat → Nat → Nat) (l : List Nat) : Nat := memberTreeFuel add (Nat.log2 l.length + 1) l

/-- PARTIAL_FMT of 03 R87: 0 A48, 1 FP32, 2 BF16. -/
def partialFmt : Nat → Option Fmt
  | 0 => some .a48
  | 1 => some .fp32
  | 2 => some .bf16
  | _ => none

/-- A node of the tree under PARTIAL_FMT: codes of the partials format in and out (03 R84, R87). -/
def addPartial (f : Fmt) (x y : Nat) : Nat := (convertTo f .rne false (addVal (decodeVal f x) (decodeVal f y))).code

/-- Cuts a list into groups of `n` (fuel: the length). -/
def chunksFuel {α : Type} (n : Nat) : Nat → List α → List (List α)
  | 0, _ => []
  | _, [] => []
  | k + 1, l => l.take n :: chunksFuel n k (l.drop n)

def chunks {α : Type} (n : Nat) (l : List α) : List (List α) := chunksFuel n l.length l

/-- The A48 sum of terms that are not products: groups of 32, W = 64 (03 R74). -/
def datumSum (terms : List Val) : Nat :=
  accumulate 0 ((chunks 32 terms).map fun g => groupA48 (groupSum g 64) none none)

/-- One term of a dot product: the product with the row's shift, none for a disabled row (03 R73, 04 R106, R107). -/
structure Term where
  value : Val
  shift : Nat
  deriving DecidableEq, Repr

/-- The A48 value of one group: none when every row of the group is disabled (04 R107, R108). -/
def groupTerm (w : Nat) (ts : List (Option Term)) (xa xb : Option Nat) : Option Nat :=
  let en := ts.filterMap id
  if en.isEmpty then none
  else
    let s := (en.map (·.shift)).foldl max 0
    some (groupA48 (groupSum (en.map (·.value)) (w + s)) xa xb)

end Sys2Proof.Machine
end

