-- ==== Sys2Proof/Machine/Flags.lean ====
section
/-!
DEFINITION. What a conversion counts: the legend record's figures (08 R219 to R222) and the NaN figures that the
numeric trap and the update units watch.
-/

namespace Sys2Proof.Machine

/-- EMAX(F) of 08 R220. -/
def legendEmax : Fmt → Int
  | .e2m1 => 2
  | .e2m3 => 2
  | .int4 => 3
  | .e3m2 => 4
  | .e4m3 => 8
  | .e5m2 => 15
  | .fp16 => 15
  | .bf16 => 127
  | .fp32 => 127
  | .a48 => 511
  | .int2 => 1
  | _ => 0

/-- The exponent bin of a nonzero finite value (08 R220). -/
def legendBin (f : Fmt) (n d : Nat) : Nat :=
  let k := legendEmax f - floorLog2 n d
  if k ≤ 0 then 0 else if k ≥ 15 then 15 else k.toNat

/-- The counts of one conversion, before they are merged (08 R219, R222). -/
structure Counts where
  elements : Nat
  zeros : Nat
  sats : Nat
  nonfinite : Nat
  /-- largest finite exact magnitude after every scale, A48 code -/
  amax : Nat
  /-- largest finite exact magnitude before the output scale, A48 code (08 R218 AMAX_USE) -/
  amaxUse : Nat
  departure : Bool
  srUsed : Bool
  nanSeen : Bool
  dst : Nat
  bins : List Nat
  deriving DecidableEq, Repr

def emptyCounts (f : Fmt) : Counts :=
  ⟨0, 0, 0, 0, 0, 0, false, false, false, fmtCode f, List.replicate 16 0⟩

def bump (l : List Nat) (i : Nat) : List Nat := l.set i (l.getD i 0 + 1)

/-- Whether an output code is a zero of either sign; a binary destination never counts (08 R219). -/
def zeroOutput (f : Fmt) (code : Nat) : Bool :=
  match f with
  | .binary => false
  | f => isZero (decodeVal f code)

def finiteMag (v : Val) : Nat :=
  match v with
  | .fin _ n d => toA48 (.fin false n d)
  | _ => 0

/-- One converted element: `v` the exact value with every scale, `beforeOut` the value before the output scale,
`rounded` the value that is rounded (after a block division), `bad` a ternary 0b10 (08 R219, R220, R222, 02 R58). -/
def countElem (c : Counts) (f : Fmt) (v beforeOut rounded : Val) (bad sr : Bool) (r : Conv) : Counts :=
  { c with
    elements := c.elements + 1
    zeros := if zeroOutput f r.code then c.zeros + 1 else c.zeros
    sats := if r.overflow then c.sats + 1 else c.sats
    nonfinite := if isNan v || isInf v || bad then c.nonfinite + 1 else c.nonfinite
    amax := max c.amax (finiteMag v)
    amaxUse := max c.amaxUse (finiteMag beforeOut)
    srUsed := c.srUsed || sr
    nanSeen := c.nanSeen || isNan v
    bins :=
      match rounded with
      | .fin _ n d => if n == 0 then c.bins else bump c.bins (legendBin f n d)
      | _ => c.bins }

/-- Saturating addition of counters of `w` bits (08 R221). -/
def satAdd (w a b : Nat) : Nat := min (a + b) (2 ^ w - 1)

end Sys2Proof.Machine
end

