-- ==== Sys2Proof/Machine/EngineState.lean ====
section
/-!
DEFINITION. The state of one engine (04 to 08, 10, 11): streams, issued operations, array, tiles, generator, trap,
keep windows and translations. Plain data.
-/

namespace Sys2Proof.Machine

/-- The generator state of 02 R67, R68: `counters` lists the lanes whose counter differs from `base`. -/
structure GenState where
  seed : Word
  unit : BitVec 12
  base : Word
  counters : List (Nat × Word)
  deriving DecidableEq, Repr

/-- A sealed descriptor that a consumer has taken: its type and the 56 payload bytes (07 R173, 14 R431). -/
structure Desc where
  kind : Nat
  payload : List Byte
  seq : Seq
  deriving DecidableEq, Repr

/-- A weight set in a plane (04 R90, R101, R143): parameters, element codes by row, block scales by group, and the row
descriptors. -/
structure WeightSet where
  fmt : Fmt
  passes : Nat
  wAddr : Nat
  wStride : Nat
  kRows : Nat
  nCols : Nat
  wsAddr : Nat
  rdAddr : Nat
  rows : List (List Nat)
  scales : List (List Nat)
  descs : List Nat
  deriving DecidableEq, Repr

/-- What a conversion read at its issue (02 R67, 08 R224, R225, R229, R230). -/
structure ConvIssue where
  tensorId : Nat
  /-- the output scale, an FP32 code; none = 1 -/
  scale : Option Nat
  /-- with a channel map in use: whether each column is marked -/
  marks : Option (List Bool)
  /-- the generator as it stood at issue; `draws` when the operation reserved draws on it -/
  gen : GenState
  draws : Bool
  deriving DecidableEq, Repr

structure WloadP where
  fmt : Fmt
  passes : Nat
  wAddr : Nat
  wStride : Nat
  kRows : Nat
  nCols : Nat
  wsAddr : Nat
  rdAddr : Nat
  deriving DecidableEq, Repr

structure ArrayP where
  aFmt : Fmt
  aAddr : Nat
  aStride : Nat
  asAddr : Nat
  m : Nat
  kOff : Nat
  tile : Nat
  wset : Bool
  deriving DecidableEq, Repr

structure InsetP where
  aFmt : Fmt
  wFmt : Fmt
  m : Nat
  kLen : Nat
  nCols : Nat
  kOff : Nat
  tile : Nat
  row0 : Nat
  aAddr : Nat
  aStride : Nat
  wAddr : Nat
  wStride : Nat
  asAddr : Nat
  asStride : Nat
  wsAddr : Nat
  rdAddr : Nat
  deriving DecidableEq, Repr

structure PreloadP where
  tile : Nat
  row0 : Nat
  rows : Nat
  cols : Nat
  srcKind : Nat
  srcFmt : Fmt
  srcAddr : Nat
  srcStride : Nat
  tensorId : Nat
  deriving DecidableEq, Repr

structure DrainP where
  tile : Nat
  row0 : Nat
  rows : Nat
  cols : Nat
  clear : Bool
  handoff : Bool
  conv : ConvCtrl
  outAddr : Nat
  outStride : Nat
  tsAddr : Nat
  csAddr : Nat
  bsAddr : Nat
  tensorId : Nat
  deriving DecidableEq, Repr

/-- One operand of an element-unit operation (06 R156). -/
structure EuOperand where
  kind : Nat
  fmt : Fmt
  addr : Nat
  stride : Nat
  imm : Nat
  deriving DecidableEq, Repr

structure EuP where
  op : Nat
  prec : Nat
  rows : Nat
  cols : Nat
  aHandoff : Bool
  a : EuOperand
  b : EuOperand
  c : EuOperand
  conv : ConvCtrl
  outAddr : Nat
  outStride : Nat
  stateAddr : Nat
  tensorId : Nat
  deriving DecidableEq, Repr

/-- The settings of a keep window that a transfer read at its issue (10 R289, R311). -/
structure KeepUse where
  mode : Nat
  srcFmt : Nat
  randBits : Nat
  entry : Nat
  deriving DecidableEq, Repr

structure BulkP where
  load : Bool
  far : Nat
  farStride : Int
  near : Nat
  nearStride : Int
  rowBytes : Nat
  rows : Nat
  noAlloc : Bool
  background : Bool
  keep : Option KeepUse
  /-- the request packets have been sent (a remote far block) -/
  sent : Bool
  /-- request tags still unanswered -/
  waiting : List Nat
  /-- words that came back, by far address -/
  got : List (Nat × Byte)
  /-- the failing access of the lowest far address among the responses -/
  fail : Option (Code × Nat)
  deriving DecidableEq, Repr

structure AtomicP where
  dst : Nat
  addr : Nat
  src : Word
  cmp : Word
  aop : Nat
  sent : Bool
  /-- the response: its status and the old value -/
  answer : Option (Code × Word)
  deriving DecidableEq, Repr

structure SignalP where
  module : Nat
  engine : Nat
  counter : Nat
  inc : Nat
  sent : Bool
  /-- the status of the response -/
  answer : Option Code
  deriving DecidableEq, Repr

structure WaitP where
  counter : Nat
  threshold : Nat
  consume : Bool
  timeout : Word
  /-- sequencer steps that it has waited so far -/
  spent : Word
  deriving DecidableEq, Repr

structure ReduceP where
  member : Nat
  members : Nat
  table : List Nat
  srcAddr : Nat
  dstAddr : Nat
  elems : Nat
  partialFmt : Nat
  reduceId : Nat
  tensorId : Nat
  timeout : Word
  /-- the subtree value so far (codes of the partials format); none before the member's own partial is read -/
  value : Option (List Nat)
  /-- levels of the member tree already joined -/
  level : Nat
  deriving DecidableEq, Repr

/-- What an issued operation is, with the parameters it read at issue (07 R182). -/
inductive OpKind where
  | wload (p : WloadP) (set : Option WeightSet)
  /-- `claim` is the id of the claimed load, 0 once it fills the shadow plane; `acts` the captured tokens from `firstTok` on: element codes and block
  scale codes -/
  | array (p : ArrayP) (claim : Option Nat) (set : Option WeightSet) (acts : List (List Nat × List Nat)) (firstTok : Nat)
  | inset (p : InsetP)
  | preload (p : PreloadP)
  /-- `bound` is the id of the element-unit operation that takes the values -/
  | drain (p : DrainP) (bound : Option Nat)
  /-- `bound` the drain; `handed` the rows handed over; `closed` the drain is over; `fault` its code -/
  | eu (p : EuP) (bound : Option Nat) (handed : List (List Nat)) (closed : Bool) (fault : Option Code)
  | bulk (p : BulkP)
  | atomic (p : AtomicP)
  | signal (p : SignalP)
  | wait (p : WaitP)
  | reduce (p : ReduceP)
  | fence
  deriving DecidableEq, Repr

/-- How far an issued operation is: waiting at its unit, started, or run with its merges or its end outstanding. -/
inductive Phase where
  | issued | started | ran
  deriving DecidableEq, Repr

structure Op where
  id : Nat
  stream : Nat
  isn : Word
  pc : Word
  opcode : Nat
  release : Bool
  phase : Phase
  /-- TRAP_CTRL as it stood at issue (08 R236) -/
  trapEnable : Bool
  trapRecord : Bool
  /-- the instruction word (05 R143 ARRAY_RESUME) -/
  word : Nat
  /-- an array operation: bit planes that have entered cell (0, 0) since its first token here (04 R113, R118) -/
  planes : Nat
  conv : Option ConvIssue
  kind : OpKind
  deriving DecidableEq, Repr

/-- The fault record of a stream (07 R206, R212). -/
structure FaultRec where
  code : Code
  opcode : Nat
  later : Nat
  isn : Word
  pc : Word
  addr : Word
  tile : Nat
  row : Nat
  col : Nat
  detailValid : Bool
  tensorId : Nat
  deriving DecidableEq, Repr

def noFaultRec : FaultRec := ⟨0, 0, 0, 0, 0, 0, 0, 0, 0, false, 0⟩

structure Stream where
  log2 : Nat
  enable : Bool
  base : Nat
  nextSeq : Seq
  hint : Option Seq
  rereads : Nat
  unsealed : Bool
  /-- a sealed descriptor waits in the ring because the engine is stopped (07 R177) -/
  ringWaits : Bool
  fault : Bool
  /-- code of the recorded fault of the held descriptor, before step 4 of 07 R206 -/
  faulting : Option Code
  record : FaultRec
  desc : Option Desc
  /-- the held descriptor is a RUN that issues -/
  running : Bool
  endIssued : Bool
  pc : Word
  isn : Word
  progAddr : Word
  length : Nat
  complAddr : Word
  d : List Word
  /-- operation that must be complete before the stream issues again (acquire) -/
  acquire : Option Nat
  tileWait : List Nat
  tokenWait : Word
  runTokenWait : Word
  deriving DecidableEq, Repr

def resetStream : Stream :=
  ⟨0, false, 0, 0, none, 0, false, false, false, none, noFaultRec, none, false, false, 0, 0, 0, 0, 0,
   List.replicate 32 0, none, [], 0, 0⟩

/-- What holds a tile (05 R139). -/
inductive Holder where
  | none | array | inset | preload | drain | context
  deriving DecidableEq, Repr

/-- A tile: `elems` lists the elements that are not +0, by 512 m + j (05 R124). -/
structure Tile where
  elems : List (Nat × BitVec 48)
  holder : Holder
  stream : Nat
  /-- operations that hold it (a chain of array operations) -/
  count : Nat
  faulted : Bool
  deriving DecidableEq, Repr

def resetTile : Tile := ⟨[], .none, 0, 0, false⟩

/-- The numeric trap (08 R240 to R242). -/
structure TrapState where
  enable : Bool
  record : Bool
  fired : Bool
  count : BitVec 32
  stream : Nat
  source : Nat
  opcode : Nat
  tensorId : Nat
  where_ : Bool
  isn : Word
  pc : Word
  row : BitVec 32
  col : BitVec 32
  group : Nat
  groupValid : Bool
  deriving DecidableEq, Repr

def resetTrap : TrapState := ⟨true, false, false, 0, 0, 0, 0, 0, false, 0, 0, 0, 0, 0, false⟩

/-- Translation of one engine (11 R325, R358 to R361): kept entries are (page number of 2 MiB, entry). -/
structure XlateState where
  enable : Bool
  base : Nat
  pending : Bool
  kept : List (Nat × Word)
  parity : Nat
  read : Nat
  xlate : Nat
  deriving DecidableEq, Repr

def resetXlate : XlateState := ⟨false, 0, false, [], 0, 0, 0⟩

structure KeepWindow where
  base : Word
  size : Word
  ctrl : Word
  deriving DecidableEq, Repr

/-- Parity and ring faults per engine since module warm reset (14 RAS_COUNTS). -/
structure RasCounts where
  sram : Nat
  tile : Nat
  arrayWord : Nat
  ring : Nat
  deriving DecidableEq, Repr

/-- The array's planes and counters (04 R117 to R121). -/
structure ArrayUnit where
  active : Option WeightSet
  shadow : Option WeightSet
  steps : Word
  starved : Word
  activeUnits : Word
  /-- toggled cell-steps below one unit of 65,536 (the model's own) -/
  residue : Nat
  deriving DecidableEq, Repr

def resetArrayUnit : ArrayUnit := ⟨none, none, 0, 0, 0, 0⟩

/-- A context save or restore in progress (05 R144, R146). -/
structure CtxJob where
  stream : Nat
  addr : Nat
  /-- the interrupted array operation and the first token not yet entered -/
  resume : Option (Nat × Nat)
  deriving DecidableEq, Repr

structure Engine where
  streams : List Stream
  ops : List Op
  nextId : Nat
  stopped : Bool
  saving : Option CtxJob
  resetting : Bool
  /-- the stream whose SET_GEN waits (07 R176) -/
  genHold : Option Nat
  /-- the stream that the sequencer served last (07 R184) -/
  lastServed : Nat
  tokenSat : Bool
  gen : GenState
  tokens : List (BitVec 32)
  /-- ending notices of reductions: REDUCE_ID and code (07 R204) -/
  notices : List (Nat × Code)
  arr : ArrayUnit
  tiles : List Tile
  accConflicts : Word
  insetWaits : Word
  euWaits : Word
  ttLog2 : Nat
  ttBase : Nat
  trap : TrapState
  keep : List KeepWindow
  xl : XlateState
  selfParked : Bool
  ras : RasCounts
  deriving DecidableEq, Repr

def resetGen (e : Nat) : GenState := ⟨0, BitVec.ofNat 12 e, 0, []⟩

/-- Engine `e` after cold power-on (07 R176, R207 to R214; 05 R125; 15 R493). -/
def resetEngine (e : Nat) : Engine :=
  { streams := List.replicate 4 resetStream
    ops := []
    nextId := 1
    stopped := false
    saving := none
    resetting := false
    genHold := none
    lastServed := 3
    tokenSat := false
    gen := resetGen e
    tokens := List.replicate 64 0
    notices := []
    arr := resetArrayUnit
    tiles := [resetTile, resetTile]
    accConflicts := 0
    insetWaits := 0
    euWaits := 0
    ttLog2 := 0
    ttBase := 0
    trap := resetTrap
    keep := List.replicate 2 ⟨0, 0, 0⟩
    xl := resetXlate
    selfParked := false
    ras := ⟨0, 0, 0, 0⟩ }

end Sys2Proof.Machine
end

