-- ==== Sys2Proof/Machine/ModuleState.lean ====
section
/-!
DEFINITION. The state of the module outside its engines: caches and homes (11), update (09), copier (13), fabric and
collectives (12), firmware processors, mailboxes and flash (14), safety partition (15), identity (16), logs (17).
Plain data.
-/

namespace Sys2Proof.Machine

/-! ### Caches and homes (11) -/

/-- The states of a held line (11 R336); a line not listed is I. -/
inductive LineState where
  | m | o | e | s
  deriving DecidableEq, Repr

/-- A line held by a cache: `line` is its address over 128. -/
structure CacheLine where
  agent : Nat
  line : Nat
  st : LineState
  data : List Byte
  /-- the dirty data has a parity error (11 R332) -/
  bad : Bool
  /-- a core of the cluster holds an LR reservation on the line (11 R338) -/
  resv : Bool
  deriving DecidableEq, Repr

/-- A victim buffer entry (11 R341): `done` after the home has ordered its WRITE_BACK. -/
structure Victim where
  agent : Nat
  line : Nat
  tag : Nat
  data : List Byte
  bad : Bool
  crossed : Bool
  done : Bool
  deriving DecidableEq, Repr

inductive TxnKind where
  | readShared | readUnique | upgrade
  /-- READ_ONCE, WRITE_AT_HOME or ATOMIC_AT_HOME, as its command -/
  | uncached (i : Instr)
  deriving DecidableEq, Repr

def isUncached : TxnKind → Bool
  | .uncached _ => true
  | _ => false

/-- A transaction that a home has accepted; the oldest one of a line has its snoop lap under way (11 R335, R340). -/
structure Txn where
  kind : TxnKind
  agent : Nat
  line : Nat
  /-- what the requester does with the line, at which address -/
  addr : Nat
  op : LineOp
  /-- agents that have answered -/
  answered : List Nat
  /-- READ_UNIQUE and UPGRADE: data that a cache supplied as it went to I -/
  supplied : Option (List Byte)
  /-- the supplied data was bad: the requester faults with 0x0402 (11 R332) -/
  badSupply : Bool
  deriving DecidableEq, Repr

/-- A directory entry (11 R346, R349). -/
structure DirEntry where
  line : Nat
  st : LineState
  sharers : List Nat
  owner : Nat
  deriving DecidableEq, Repr

/-- A write that waits for the copy of its piece (11 R327, R328). -/
inductive HeldReq where
  /-- a command of the cores or caches, with its whole transaction -/
  | command (i : Instr)
  /-- bytes that another agent writes at the home -/
  | write (a : Nat) (bs : List Byte)
  /-- bytes that an engine writes through its edge cache -/
  | own (agent a : Nat) (bs : List Byte)
  /-- a step of another agent, which is taken again once the piece at `a` is copied: `who` names it -/
  | step (who : Nat × Nat × Nat) (a : Nat)
  deriving DecidableEq, Repr

structure Home where
  txns : List Txn
  /-- the request for which the next free tracker is reserved (11 R335) -/
  reserved : Option Nat
  /-- requests that wait on protected pieces, in the order they reached the home (11 R327) -/
  held : List HeldReq
  quarantine : List Nat
  overflow : Bool
  /-- least recently used first -/
  dir : List DirEntry
  deriving DecidableEq, Repr

structure Coherence where
  lines : List CacheLine
  victims : List Victim
  /-- write-backs counted per agent, modulo 4,096 -/
  wbCount : List Nat
  /-- tags recorded as crossed (11 R341) -/
  crossedTags : List Nat
  homes : List Home
  /-- messages that failed parity once and were resent (11 R334) -/
  resent : List Nat
  /-- link ECC retries (14 RAS_COUNTS) -/
  eccRetries : Nat
  /-- ring faults -/
  homeRing : Nat
  deriving DecidableEq, Repr

def resetHome : Home := ⟨[], none, [], [], false, []⟩

def resetCoherence : Coherence :=
  ⟨[], [], List.replicate 80 0, [], List.replicate 24 resetHome, [], 0, 0⟩

/-! ### Update (09) -/

structure UnitRegs where
  elems : Nat
  nanGroup : Nat
  nanValid : Bool
  nanCount : Nat
  nanElem : Nat
  deriving DecidableEq, Repr

/-- The step descriptor of 09 R264, as read. -/
structure StepDesc where
  step : Word
  checkAddr : Nat
  checkCount : Nat
  voteGroup : Nat
  groupFirst : Nat
  groupCount : Nat
  recAddr : Nat
  writeMode : Nat
  survey : Nat
  voteTimeout : Nat
  signal : Nat
  reserved : Nat
  deriving DecidableEq, Repr

/-- A stream slot of a parameter group (09 R247). -/
structure USlot where
  addr : Nat
  bsAddr : Nat
  fmt : Nat
  flags : Nat
  conv : Nat
  entry : Nat
  deriving DecidableEq, Repr

/-- A group entry (09 R246). -/
structure UGroup where
  ix : Nat
  flags : Nat
  layer : Nat
  elems : Nat
  steps : List Nat
  skips : Nat
  prog : Nat
  curves : List Nat
  hyper : List Nat
  slots : List USlot
  bankOffset : Nat
  reserved : Nat
  deriving DecidableEq, Repr

/-- A step that runs (09 R266). -/
structure UpdRun where
  desc : StepDesc
  bank : Nat
  /-- the valid groups of the range with their programs and curve values, read once at the start (09 R265) -/
  plan : List (UGroup × List Nat × List Val)
  clean : Bool
  firstDirty : Nat
  /-- this module's member index in the vote group, and the group's master -/
  index : Nat
  master : Nat
  deriving DecidableEq, Repr

/-- The master's count of flags for one step number (09 R267). -/
structure VoteBox where
  group : Nat
  step : Word
  /-- the members when the first flag came, by member index (12 R385) -/
  members : List Nat
  /-- members that have posted clean -/
  flags : List Nat
  deriving DecidableEq, Repr

structure Update where
  groupBase : Nat
  groupCount : Nat
  contourBase : Nat
  contourCount : Nat
  surveyBase : Nat
  surveyCount : Nat
  seed : Word
  stepDesc : Nat
  phase : Nat
  goRefused : Bool
  lastOutcome : Nat
  lastStatus : Code
  lastStep : Word
  /-- counters that are not 0, by 32 u + p -/
  counters : List (Nat × Word)
  units : List UnitRegs
  run : Option UpdRun
  boxes : List VoteBox
  /-- (group, step number) already decided by this master -/
  decided : List (Nat × Word)
  /-- outcomes that came before this member's own step voted: step number and outcome -/
  early : List (Word × Nat)
  /-- STEP_NUMBER of the last descriptor accepted (17 R511) -/
  accepted : Word
  deriving DecidableEq, Repr

def resetUnit : UnitRegs := ⟨0, 0, false, 0, 0⟩

def resetUpdate : Update :=
  { groupBase := 0
    groupCount := 0
    contourBase := 0
    contourCount := 0
    surveyBase := 0
    surveyCount := 0
    seed := 0
    stepDesc := 0
    phase := 0
    goRefused := false
    lastOutcome := 0
    lastStatus := 0
    lastStep := 0
    counters := []
    units := List.replicate 24 resetUnit
    run := none
    boxes := []
    decided := []
    early := []
    accepted := BitVec.allOnes 64 }

/-! ### Page copier (13) -/

/-- The copier descriptor of 13 R400. -/
structure CopierDesc where
  epoch : Word
  slot0 : Nat
  slot1 : Nat
  slotBytes : Nat
  stageAddr : Nat
  stagePieces : Nat
  listCount : Nat
  listAddr : Nat
  deriving DecidableEq, Repr

/-- An entry of a region list (13 R415). -/
structure RefillEntry where
  addr : Nat
  pieces : Nat
  sources : List Nat
  deriving DecidableEq, Repr

/-- A copier operation under way. `todo` are the piece numbers (address over 2 MiB) not yet copied, `staged` the pieces
in staging slots (piece, slot), `crcs` the finished directory entries. -/
structure CopierRun where
  desc : CopierDesc
  pieces : List Nat
  todo : List Nat
  staged : List (Nat × Nat)
  crcs : List (Nat × Nat)
  /-- the register image of 13 R402, captured or read back, sparse by offset -/
  image : List Host.Cell
  /-- engines whose generator state is still to be captured (13 R403) -/
  uncaptured : List Nat
  /-- held writes that have found no staging slot: how many of them per piece have been counted -/
  waited : List (Nat × Nat)
  /-- translation entries whose SP the epoch has still to clear: address, first piece, number of pieces -/
  spEntries : List (Nat × Nat × Nat)
  /-- a slot write was refused with this code (13 R409), and the atlas address it was for -/
  slotFail : Code
  slotFailAddr : Nat
  stepNumber : Word
  bank : Nat
  /-- what of the commit has been sent: 0 nothing, 1 the directory and the register image, 2 the record -/
  sent : Nat
  /-- the image slot: EPOCH mod 2, or the slot that a restore chose -/
  slot : Nat
  /-- restore: 0 the records, 1 the directory and the register image, 2 the pieces -/
  stage : Nat
  /-- bytes read so far, by their place, and the places of the parts that have not come -/
  buffer : List Host.Cell
  missing : List Nat
  /-- parts that could not be read: place, code, atlas address -/
  failed : List (Nat × Code × Nat)
  imageEpoch : Word
  regions : List RefillEntry
  /-- restore: place in the image and address of the pieces to write; refill: engine address and list entry -/
  work : List (Nat × Nat)
  /-- restore: IMAGE_CRC of the record chosen; refill: the module read from -/
  source : Nat
  failedSources : List Nat
  deriving DecidableEq, Repr

structure Copier where
  descAddr : Nat
  phase : Nat
  restoreBad : Bool
  verifyFail : Bool
  verifyResult : Nat
  lastStatus : Code
  epoch : Word
  done : Nat
  total : Nat
  errCode : Code
  errEntry : Nat
  errAddr : Word
  aside : Nat
  stageWaits : Nat
  verifyStep : Word
  verifyAddr : Nat
  ledgerStep : Word
  /-- slot s: step number and A48 loss -/
  ledger : List (Word × BitVec 48)
  run : Option CopierRun
  /-- pieces protected at the homes and not yet copied (11 R326) -/
  protectedSet : List Nat
  deriving DecidableEq, Repr

def resetCopier : Copier :=
  { descAddr := 0
    phase := 0
    restoreBad := false
    verifyFail := false
    verifyResult := 0
    lastStatus := 0
    epoch := 0
    done := 0
    total := 0
    errCode := 0
    errEntry := 0
    errAddr := 0
    aside := 0
    stageWaits := 0
    verifyStep := 0
    verifyAddr := 0
    ledgerStep := 0
    ledger := List.replicate 64 (BitVec.allOnes 64, 0)
    run := none
    protectedSet := [] }

/-! ### Fabric (12) -/

inductive PortState where
  | down | up | retraining | ethUp
  deriving DecidableEq, Repr

structure Port where
  st : PortState
  attempts : Nat
  /-- packets waiting for credits, per class, oldest first -/
  queues : List (List Packet)
  /-- flits sent and not acknowledged, oldest first: class of each -/
  held : List Nat
  /-- flits that failed their CRC once -/
  failed : List Nat
  credits : List Nat
  replays : Nat
  retrains : Nat
  c0Over : Nat
  c0Window : Nat
  discards : Nat
  /-- flits that each class may still send in its turn, and the turn: C1, C2 and C3 share a port (12 R367) -/
  deficit : List Nat
  turn : Nat
  deriving DecidableEq, Repr

/-- Who waits for a response (12 R374). -/
inductive Requester where
  | bulk (e id : Nat) (addr : Nat)
  | atomicOp (e id : Nat)
  /-- a host core -/
  | core
  | signalOp (e id : Nat)
  | copierWrite
  /-- a part of what the copier reads, by its place -/
  | copierRead (place : Nat)
  | collective (k : Nat)
  | vote
  | alarm
  | log
  | group (g member : Nat)
  deriving DecidableEq, Repr

structure HeldPacket where
  packet : Packet
  resends : Nat
  /-- the ports that it may take: PORT_MASK of its group, or all (12 R384) -/
  mask : Nat
  deriving DecidableEq, Repr

/-- Sender state of one destination and class (12 R370, R372). -/
structure Sender where
  dest : Nat
  cls : Nat
  nextPsn : BitVec 32
  held : List HeldPacket
  lastPort : Nat
  /-- ports out of this destination's spray -/
  left : List Nat
  /-- consecutive time-outs per port -/
  timeouts : List (Nat × Nat)
  unreachable : Bool
  deriving DecidableEq, Repr

/-- Receiver state of one source and class (12 R373). -/
structure Receiver where
  src : Nat
  cls : Nat
  expected : BitVec 32
  ahead : List Packet
  kept : List (BitVec 32 × Nat × Packet)
  /-- PSNs to acknowledge -/
  acks : List (BitVec 32)
  deriving DecidableEq, Repr

/-- An injection rule with its counters (12 R395, R396). -/
structure InjectionRule where
  action : Nat
  port : Nat
  ingress : Bool
  classes : Nat
  countMode : Bool
  prob : Nat
  count : Nat
  skip : Nat
  seed : Word
  hold : Nat
  matched : Nat
  affected : Nat
  /-- a reordered packet and the matching packets still to pass -/
  held : List (Packet × Nat)
  deriving DecidableEq, Repr

structure EthEntry where
  module : Nat
  ipv6 : List Byte
  mac : List Byte
  vlan : Nat
  deriving DecidableEq, Repr

/-- A membership change that this master runs (12 R385). -/
structure GroupChange where
  group : Nat
  mailbox : Nat
  waiting : List Nat
  deriving DecidableEq, Repr

structure Fabric where
  ports : List Port
  ethPorts : List Nat
  /-- entries that are not 0, per fabric die, by destination -/
  routes0 : List (Nat × BitVec 16)
  routes1 : List (Nat × BitVec 16)
  ethTable : List (Nat × EthEntry)
  senders : List Sender
  receivers : List Receiver
  rtoUs : Nat
  /-- delivered packets not yet performed -/
  inbox : List Packet
  requests : List (Nat × Requester)
  nextTag : Nat
  rules : List InjectionRule
  gazBase : Nat
  changes : List GroupChange
  referenceLost : Bool
  deriving DecidableEq, Repr

def resetPort : Port :=
  ⟨.down, 0, [[], [], [], []], [], [], [1024, 1024, 1024, 1024], 0, 0, 0, 0, 0, [0, 0, 0, 0], 0⟩

def resetFabric : Fabric :=
  { ports := List.replicate 16 resetPort
    ethPorts := []
    routes0 := []
    routes1 := []
    ethTable := []
    senders := []
    receivers := []
    rtoUs := 20
    inbox := []
    requests := []
    nextTag := 0
    rules := []
    gazBase := 0
    changes := []
    referenceLost := false }

/-- A running collective on this member (12 R387 to R393). -/
structure Coll where
  kind : Nat
  srcAddr : Nat
  dstAddr : Nat
  complAddr : Nat
  count : Nat
  group : Nat
  collSeq : BitVec 32
  convWord : Nat
  srcFmt : Nat
  partialCode : Nat
  tensorId : Nat
  signal : Nat
  tmoUs : Nat
  members : List Nat
  index : Nat
  portMask : Nat
  /-- the value of the subtree that this member has joined: partials, or the bytes gathered -/
  data : List Byte
  /-- levels already joined -/
  level : Nat
  /-- values of children that wait for their level: member index, status, data -/
  early : List (Nat × Code × List Byte)
  /-- parts of messages that have come: sender's index with its direction, offset in the message, bytes -/
  parts : List (Nat × Nat × List Byte)
  /-- ternary codes 0b10 that this member read from its SRC (02 R48) -/
  badRead : Nat
  /-- 0x0505 once a message of the subtree has differed -/
  code : Code
  sentUp : Bool
  /-- the root's answer, once known: status and bytes -/
  result : Option (Code × List Byte)
  /-- output scale of TENSOR_ID, an FP32 code (none = 1) -/
  scale : Option Nat
  deriving DecidableEq, Repr

structure CollQueue where
  enabled : Bool
  base : Nat
  log2 : Nat
  nextSeq : Seq
  hint : Option Seq
  rereads : Nat
  unsealed : Bool
  stopped : Bool
  stopCode : Code
  /-- the queue waits at a descriptor of a held group (14 R468) -/
  groupHeld : Bool
  desc : Option Desc
  cur : Option Coll
  deriving DecidableEq, Repr

def resetCollQueue : CollQueue := ⟨false, 0, 0, 0, none, 0, false, false, 0, false, none, none⟩

structure Collectives where
  queues : List CollQueue
  /-- groups whose collectives wait for SET_NEXT_SEQ (12 R394) -/
  heldGroups : List Nat
  /-- messages of collectives that this member has not started: their payloads -/
  waiting : List (List Byte)
  /-- collectives abandoned before this member started them: group and COLL_SEQ -/
  dead : List (Nat × BitVec 32)
  deriving DecidableEq, Repr

/-! ### Firmware, mailboxes and flash (14, 16) -/

structure Mailbox where
  isOpen : Bool
  priv : Bool
  cmdBase : Nat
  cmdLog2 : Nat
  cplBase : Nat
  cplLog2 : Nat
  cmdHead : Seq
  doneSeq : Seq
  cplNext : Seq
  hint : Option Seq
  rereads : Nat
  unsealed : Bool
  /-- the completion ring had no free slot when FW4 last looked (14 R444) -/
  full : Bool
  /-- the command taken and not yet completed -/
  cmd : Option Desc
  /-- its effect is under way; the completion comes with a later command (14 R446) -/
  busyLong : Bool
  closing : Bool
  deriving DecidableEq, Repr

def resetMailbox : Mailbox := ⟨false, false, 0, 0, 0, 0, 0, 0, 0, none, 0, false, false, none, false, false⟩

/-- A crash dump (14 R455). -/
structure CrashDump where
  valid : Bool
  reason : Nat
  dumpSeq : Nat
  lost : Nat
  imageVersion : Word
  domainCount : Word
  causal : BitVec 32
  inFlight : List Byte
  body : DumpData
  deriving DecidableEq, Repr

def emptyDump : DumpData := ⟨0, [], [], [], [], []⟩

structure FwProc where
  /-- 0 booting; 1 running; 2 restarting; 3 failed; 4 restarting for activation (14 R466) -/
  st : Nat
  lastReason : Nat
  /-- restarts since cold power-on; the register saturates -/
  restarts : Nat
  dump : CrashDump
  deriving DecidableEq, Repr

def resetFwProc : FwProc := ⟨0, 0, 0, ⟨false, 0, 0, 0, 0, 0, 0, [], emptyDump⟩⟩

/-- A bank-select record (14 R456). -/
structure BankRecord where
  /-- BS_MAGIC -/
  magic : Nat
  seq : Nat
  active : Nat
  trial : Bool
  prev : Nat
  actMailbox : Nat
  actTag : Word
  actSeq : Seq
  commit : Bool
  deriving DecidableEq, Repr

/-- The SPI flash (14 R456, 16 R500, R502). The bytes of a bank are listed by their complement, so that an erased byte,
0xFF, is not listed. -/
structure Flash where
  bank0 : List Host.Cell
  bank1 : List Host.Cell
  select0 : BankRecord
  select1 : BankRecord
  /-- copies of the configuration record, 8,896 bytes each, empty when erased -/
  config0 : List Byte
  config1 : List Byte
  /-- reservation record: block, DUMP_SEQ of FW0, commit -/
  reservation : Nat × Nat × Bool
  /-- write-once region: helper data and DeviceID certificate -/
  helper : List Byte
  certificate : List Byte
  /-- the replay-protected monotonic counter, and whether its reply authenticates -/
  counter : Nat
  counterOk : Bool
  deriving DecidableEq, Repr

def erasedRecord : BankRecord := ⟨0xFFFFFFFF, 0, 0, false, 0, 0xFF, 0, 0, false⟩

def resetFlash : Flash :=
  ⟨[], [], erasedRecord, erasedRecord, [], [], (0, 0, false), [], [], 0, true⟩

structure FwUpdate where
  stage : Nat
  deferred : Bool
  trial : Bool
  lastResult : Code
  stagedKib : Nat
  bundleBytes : Nat
  stagedVersion : Word
  stagedDigest : List Byte
  /-- mailbox whose FW_STAGE_BEGIN is under way -/
  waitingMailbox : Option Nat
  deriving DecidableEq, Repr

/-- The configuration record in use (16 R500). -/
structure CfgRecord where
  version : Word
  coherenceMode : Bool
  testMode : Bool
  debugEnable : Bool
  ethP14 : Bool
  ethP15 : Bool
  numberSet : Bool
  number : BitVec 17
  watchdogMs : Nat
  retireThreshold : Nat
  retired : List Nat
  inputLimits : Word
  tempTrips : Word
  digest : List Byte
  deriving DecidableEq, Repr

/-- The image of INPUT_LIMITS with the resets of 15 R480. -/
def defaultInputLimits : Word := 2300#64 ||| (2800#64 <<< 16) ||| (20#64 <<< 32) ||| (440#64 <<< 40) ||| (660#64 <<< 50)
/-- The image of TEMP_TRIPS with the resets of 15 R482. -/
def defaultTempTrips : Word := 110#64 ||| (100#64 <<< 8) ||| (120#64 <<< 16)

def defaultCfg : CfgRecord :=
  ⟨0, false, false, false, false, false, false, 0, 100, 4, [], defaultInputLimits, defaultTempTrips, []⟩

structure Firmware where
  mailboxes : List Mailbox
  procs : List FwProc
  update : FwUpdate
  flash : Flash
  powerCap : Nat
  /-- commands served since boot (14 TELEMETRY) -/
  served : Nat
  /-- CONTROL packets for FW2 held while it restarts (14 R428) -/
  heldControl : List Packet
  /-- a RESET_REQUEST's KIND and PROCESSOR that wait for the end of an engine-complex reset (15 R491) -/
  pendingResets : List (Nat × Nat)
  deriving DecidableEq, Repr

def resetFirmware : Firmware :=
  { mailboxes := List.replicate 16 resetMailbox
    procs := List.replicate 6 resetFwProc
    update := ⟨0, false, false, 0, 0, 0, 0, [], none⟩
    flash := resetFlash
    powerCap := 2300
    served := 0
    heldControl := []
    pendingResets := [] }

/-! ### Safety partition (15) -/

structure TripEntry where
  code : Code
  source : Nat
  value : Nat
  count : Word
  deriving DecidableEq, Repr

structure Rail where
  low : Nat
  high : Nat
  measured : Nat
  deriving DecidableEq, Repr

structure Safety where
  sustainedW : Nat
  peakW : Nat
  windowMs : Nat
  underV : Nat
  overV : Nat
  voltage : Nat
  power : Nat
  requestMv : Nat
  capMv : Nat
  measuredMv : Nat
  rails : List Rail
  parkC : Nat
  releaseC : Nat
  stopC : Nat
  temps : List Nat
  tripCount : Nat
  tripLog : List TripEntry
  lastCode : Code
  /-- over-current responses in force: peak, sustained -/
  ocPeak : Bool
  ocSustained : Bool
  ocParked : Bool
  thermalPark : Bool
  stopping : Bool
  refFail : Bool
  deriving DecidableEq, Repr

def resetRails : List Rail :=
  [⟨580, 770, 0⟩, ⟨700, 800, 0⟩, ⟨750, 850, 0⟩, ⟨700, 800, 0⟩, ⟨3135, 3465, 0⟩, ⟨1000, 1100, 0⟩, ⟨470, 530, 0⟩,
   ⟨1710, 1890, 0⟩]

def resetSafety : Safety :=
  { sustainedW := 2300
    peakW := 2800
    windowMs := 20
    underV := 440
    overV := 660
    voltage := 0
    power := 0
    requestMv := 650
    capMv := 750
    measuredMv := 0
    rails := resetRails
    parkC := 110
    releaseC := 100
    stopC := 120
    temps := List.replicate 9 0
    tripCount := 0
    tripLog := List.replicate 16 ⟨0, 0, 0, 0⟩
    lastCode := 0
    ocPeak := false
    ocSustained := false
    ocParked := false
    thermalPark := false
    stopping := false
    refFail := false }

/-! ### Identity and boot (16) -/

structure BundleId where
  version : Word
  digest : List Byte
  deriving DecidableEq, Repr

structure Security where
  bootBank : Nat
  fallback : Bool
  cfgSource : Nat
  debugOpen : Bool
  lmsReady : Bool
  bootCode : Code
  lmsBlock : Nat
  nextIndex : Nat
  /-- attestation responses signed in the present 10 s -/
  responses : Nat
  cdi : List Byte
  secret : List Byte
  booted : BundleId
  running : BundleId
  /-- SPDM: versions, capabilities and algorithms agreed -/
  spdm : Nat
  /-- boot has stopped (16 R498) -/
  stoppedBoot : Bool
  /-- the model's own: the boot that has not run yet is the one of a cold power-on -/
  coldWaits : Bool
  /-- the SPI contacts are connected to the flash (19 R544) -/
  spiOpen : Bool
  /-- the instruction register of the debug port selects the bypass register (16 R501) -/
  bypass : Bool
  debugIr : Nat
  deriving DecidableEq, Repr

def resetSecurity : Security :=
  { bootBank := 0
    fallback := false
    cfgSource := 2
    debugOpen := false
    lmsReady := false
    bootCode := 0
    lmsBlock := 0
    nextIndex := 0
    responses := 0
    cdi := []
    secret := []
    booted := ⟨0, []⟩
    running := ⟨0, []⟩
    spdm := 0
    stoppedBoot := false
    coldWaits := true
    spiOpen := false
    bypass := true
    debugIr := 3 }

/-! ### Logs (17) -/

/-- A stamped record (17 R511). -/
structure LogRec where
  domainCount : Word
  step : Word
  causal : BitVec 32
  causeIn : BitVec 32
  origin : BitVec 32
  code : Code
  cls : Nat
  flags : Nat
  unit : BitVec 16
  rep : Nat
  detail : List Byte
  deriving DecidableEq, Repr

structure QueueEntry where
  record : LogRec
  /-- a shared entry, or one of its class's reserved entries (17 R519) -/
  shared : Bool
  deriving DecidableEq, Repr

structure AlarmEntry where
  record : LogRec
  dests : List Nat
  deriving DecidableEq, Repr

structure LogRing where
  base : Nat
  log2 : Nat
  next : Seq
  deriving DecidableEq, Repr

structure Logs where
  queue : List QueueEntry
  alarmQueue : List AlarmEntry
  /-- alarm packets sent in the present 10 µs window -/
  alarmWindow : Nat
  alarmUnsent : Nat
  traceEnable : Nat
  alarmDest : List (Nat × Bool)
  fwdAddr : Nat
  fwdLog2 : Nat
  fwdEnable : Bool
  fwdClasses : Nat
  fwdFails : Nat
  fwdNext : Seq
  causal : BitVec 32
  /-- CAUSAL of the packet whose arrival is being acted on, 0 otherwise (17 R511) -/
  cause : BitVec 32
  /-- the last causal sequence number that each firmware processor emitted (14 R455) -/
  procCausal : List (BitVec 32)
  heads : List Seq
  drops : List Nat
  /-- drops since the last summary, and the first one's DOMAIN_COUNT -/
  unsummed : List (Nat × Word)
  rings : List (Option LogRing)
  domainCounts : List Word
  deriving DecidableEq, Repr

def resetLogs : Logs :=
  { queue := []
    alarmQueue := []
    alarmWindow := 0
    alarmUnsent := 0
    traceEnable := 0
    alarmDest := List.replicate 4 (0, false)
    fwdAddr := 0
    fwdLog2 := 0
    fwdEnable := false
    fwdClasses := 0
    fwdFails := 0
    fwdNext := 0
    causal := 0
    cause := 0
    procCausal := List.replicate 6 0
    heads := List.replicate 12 0
    drops := List.replicate 12 0
    unsummed := List.replicate 12 (0, 0)
    rings := List.replicate 12 none
    domainCounts := List.replicate 60 0 }

end Sys2Proof.Machine
end

