-- ==== Sys2Proof/Machine/State.lean ====
section
/-!
DEFINITION. The state of the module as a whole, its value right after reset (cold power-on, before the boot has
finished: 00 R9, 15 R493), and the reasons a step can stop.
-/

namespace Sys2Proof.Machine

inductive Variant where
  | a768 | a384
  deriving DecidableEq, Repr

/-- Identity and module state (01 R31 to R36). -/
structure Ident where
  variant : Variant
  serial : Word
  number : BitVec 17
  numberValid : Bool
  powerState : Nat
  flashBank : Nat
  complexReady : Bool
  /-- links HX0 and HX1 that are trained -/
  links : List Bool
  cfgRetired : List Nat
  cmdRetired : List Nat
  fwAlive : List Bool
  /-- power is applied; false is the Off state of 15 R483 -/
  powered : Bool
  /-- the boot of 16 R498 has run, or has stopped -/
  bootDone : Bool
  cfg : CfgRecord
  deriving DecidableEq, Repr

/-- What the module last answered on its outside ports. -/
structure Replies where
  /-- status and data of the last register or memory access of a core -/
  coreStatus : Code
  coreData : List Byte
  /-- the I²C result: status and register value (19 R543) -/
  i2cStatus : Code
  i2cData : Word
  /-- the SPDM response: request code answered, and its body (16 R505) -/
  spdmCode : Nat
  spdmBody : List Byte
  /-- the grant a coherent requester last received: agent, line, state, and a fault code (11 R338, R332) -/
  grant : Option (Nat × Nat × LineState)
  grantCode : Code
  deriving DecidableEq, Repr

def resetReplies : Replies := ⟨0, [], 0, 0, 0, [], none, 0⟩

/-- What FW4 last set for the whole module: the tensor table and the translation table (08 R215, 11 R322). -/
structure Tables where
  ttLog2 : Nat
  ttBase : Nat
  xlEnable : Bool
  xlBase : Nat
  deriving DecidableEq, Repr

/-- Everything that the engines, homes, update units, copier, fabric and log funnel work on. `mem` lists the bytes of
local memory that are not 0, by local physical address, strictly rising. -/
structure Work where
  mem : List Host.Cell
  coh : Coherence
  engines : List Engine
  upd : Update
  copier : Copier
  fabric : Fabric
  colls : Collectives
  logs : Logs
  tables : Tables
  replies : Replies
  /-- the model's own: how many free values have been taken -/
  freeIx : Nat
  deriving DecidableEq, Repr

/-- Identity, firmware processors, safety partition and security: what only the firmware, the resets, the safety
controller and the sideband change. -/
structure Hub where
  ident : Ident
  fw : Firmware
  safety : Safety
  sec : Security
  deriving DecidableEq, Repr

/-- The module: the commands that wait, first in first out, and the two halves of its state. -/
structure State where
  pending : List Instr
  hub : Hub
  work : Work
  deriving DecidableEq, Repr

/-- Why a step stops with a fault. -/
inductive Fault where
  /-- Raised by no command: the module reports every error in its own state (status codes, fault records), which is a
  next state. Safe. -/
  | none
  deriving DecidableEq, Repr

/-- Why a step is refused. -/
inductive Refusal where
  /-- Raised by a dispatch arm whose command has no meaning yet. Safe. -/
  | notModelled (mnemonic : String)
  deriving DecidableEq, Repr

def resetIdent : Ident :=
  { variant := .a768
    serial := 0
    number := 0x1FFFF
    numberValid := false
    powerState := 0
    flashBank := 0
    complexReady := false
    links := [false, false]
    cfgRetired := []
    cmdRetired := []
    fwAlive := List.replicate 6 false
    powered := true
    bootDone := false
    cfg := defaultCfg }

def resetHub : Hub :=
  { ident := resetIdent
    fw := resetFirmware
    safety := resetSafety
    sec := resetSecurity }

def resetWork : Work :=
  { mem := []
    coh := resetCoherence
    engines := (List.range 72).map resetEngine
    upd := resetUpdate
    copier := resetCopier
    fabric := resetFabric
    colls := ⟨List.replicate 16 resetCollQueue, [], [], []⟩
    logs := resetLogs
    tables := ⟨0, 0, false, 0⟩
    replies := resetReplies
    freeIx := 0 }

/-- The module right after cold power-on. -/
def State.reset : State := ⟨[], resetHub, resetWork⟩

end Sys2Proof.Machine
end

