-- ==== Sys2Proof/Machine/Ops.lean ====
section
/-!
DEFINITION. The shared operations on the state: sparse memory, field updates, address regions (01), CRCs (12, 14), homes,
coherent lines and the ring effects of the transactions of 11 R338, and engine translation (11 R321 to R325).
-/

namespace Sys2Proof.Machine

abbrev Out := Host.Outcome State Fault Refusal

/-- A command whose effect lies in the working half of the state. -/
def onWork (s : State) (f : Hub → Work → Work) : Out := .next { s with work := f s.hub s.work }

/-! ### Lists keyed by a number -/

def alGet {β : Type} (d : β) : List (Nat × β) → Nat → β
  | [], _ => d
  | (a, b) :: r, k => if a = k then b else alGet d r k

def alSet {β : Type} (l : List (Nat × β)) (k : Nat) (v : β) : List (Nat × β) := (k, v) :: l.filter (fun p => p.1 != k)

def alDel {β : Type} (l : List (Nat × β)) (k : Nat) : List (Nat × β) := l.filter (fun p => p.1 != k)

/-- Add to a list that holds each number once. -/
def addOnce (l : List Nat) (a : Nat) : List Nat := if l.contains a then l else l ++ [a]

/-- The largest 32-bit count. -/
def max32 : Nat := 2 ^ 32 - 1

/-! ### Memory: bytes that are not 0, by rising address -/

/-- The byte at an address; an address that is not listed reads 0. -/
def memGet : List Host.Cell → Nat → Byte
  | [], _ => 0
  | (x, b) :: r, a => if x = a then b else memGet r a

/-- Enter a cell behind those of lower addresses. -/
def memInsert : List Host.Cell → Nat → Byte → List Host.Cell
  | [], a, v => [(a, v)]
  | (x, b) :: r, a, v => if a < x then (a, v) :: (x, b) :: r else (x, b) :: memInsert r a v

/-- Write one byte; a byte of 0 leaves no cell. -/
def memSet (m : List Host.Cell) (a : Nat) (v : Byte) : List Host.Cell :=
  if v = 0 then m.filter (fun c => c.1 != a) else memInsert (m.filter (fun c => c.1 != a)) a v

/-- The canonical form: addresses strictly rising, no byte that reads as an unlisted one. -/
def Memory.wf : List Host.Cell → Bool
  | [] => true
  | [(_, b)] => b != 0
  | (a, b) :: (x, c) :: r => b != 0 && decide (a < x) && Memory.wf ((x, c) :: r)

def memRead (m : List Host.Cell) (a n : Nat) : List Byte := (List.range' a n).map (memGet m)

def memWrite (m : List Host.Cell) (a : Nat) : List Byte → List Host.Cell
  | [] => m
  | b :: bs => memWrite (memSet m a b) (a + 1) bs

/-- `n` zero bytes from `a` on. -/
def memClear (m : List Host.Cell) (a n : Nat) : List Host.Cell := m.filter (fun c => c.1 < a || a + n ≤ c.1)

/-- Copy `n` bytes from `src` to `dst`. -/
def memCopy (m : List Host.Cell) (src dst n : Nat) : List Host.Cell :=
  (m.filter (fun c => src ≤ c.1 && c.1 < src + n)).foldl (fun m c => memSet m (c.1 - src + dst) c.2)
    (memClear m dst n)

/-! ### Field updates -/

def Work.engine (w : Work) (e : Nat) : Engine := w.engines.getD e (resetEngine e)

def Work.setEngine (w : Work) (e : Nat) (f : Engine → Engine) : Work := { w with engines := w.engines.modify e f }

def Engine.stream (en : Engine) (q : Nat) : Stream := en.streams.getD q resetStream

def Engine.setStream (en : Engine) (q : Nat) (f : Stream → Stream) : Engine :=
  { en with streams := en.streams.modify q f }

def Work.stream (w : Work) (e q : Nat) : Stream := (w.engine e).stream q

def Work.setStream (w : Work) (e q : Nat) (f : Stream → Stream) : Work := w.setEngine e (fun en => en.setStream q f)

/-- The next free value's number; taking one advances the count. -/
def Work.tick (w : Work) : Work := { w with freeIx := w.freeIx + 1 }

/-- What a core's register or memory access answers. -/
def Work.reply (w : Work) (c : Code) (d : List Byte) : Work :=
  { w with replies := { w.replies with coreStatus := c, coreData := d } }

/-! ### CRC-16/CCITT (14 R431) and CRC-32 of IEEE 802.3 (12 R369) -/

def crc16Bits : Nat → Nat → Nat
  | 0, c => c
  | n + 1, c => crc16Bits n (if 32768 ≤ c then (c * 2 % 65536) ^^^ 0x1021 else c * 2)

def crc16 (bs : List Byte) : Nat := bs.foldl (fun c b => crc16Bits 8 (c ^^^ (b.toNat * 256))) 0xFFFF

def crc32Bits : Nat → Nat → Nat
  | 0, c => c
  | n + 1, c => crc32Bits n (if c % 2 = 1 then (c / 2) ^^^ 0xEDB88320 else c / 2)

def crc32 (bs : List Byte) : Nat :=
  (bs.foldl (fun c b => crc32Bits 8 (c ^^^ b.toNat)) 0xFFFFFFFF) ^^^ 0xFFFFFFFF

/-! ### Addresses (01) -/

/-- First local address past LPDDR5X (R25). -/
def lpddrEnd (h : Hub) : Nat :=
  match h.ident.variant with
  | .a768 => 0x00C000000000
  | .a384 => 0x006000000000

def sramBase (e : Nat) : Nat := 0x600000000000 + e * 0x08000000
def sramSize : Nat := 0x08000000
def regBase : Nat := 0x7F0000000000

def retired (h : Hub) (e : Nat) : Bool := h.ident.cfgRetired.contains e || h.ident.cmdRetired.contains e

/-- An engine that exists and is not retired (R35). -/
def present (h : Hub) (e : Nat) : Bool := decide (e < 72) && !retired h e

inductive Region where
  | lpddr
  | sram (e : Nat)
  | regs (offset : Nat)
  | unmapped
  deriving DecidableEq, Repr

/-- The region of a local address (R25 to R27); the window of a retired or absent engine counts as unmapped. -/
def regionOf (h : Hub) (a : Nat) : Region :=
  if a < lpddrEnd h then .lpddr
  else if sramBase 0 ≤ a ∧ a < sramBase 72 then
    let e := (a - sramBase 0) / sramSize
    if present h e then .sram e else .unmapped
  else if regBase ≤ a ∧ a < regBase + 0x10000000 then .regs (a - regBase)
  else .unmapped

/-- `n` bytes from local address `a` lie in LPDDR5X. -/
def inLpddr (h : Hub) (a n : Nat) : Bool := decide (a + n ≤ lpddrEnd h)

/-- `n` bytes from local address `a` lie in the window of engine `e`. -/
def inSram (e a n : Nat) : Bool := decide (sramBase e ≤ a ∧ a + n ≤ sramBase e + sramSize)

/-- `n` bytes lie in LPDDR5X, or in the window of one engine that is present. -/
def inOneRegion (h : Hub) (a n : Nat) : Bool :=
  inLpddr h a n ||
    (match regionOf h a with
     | .sram e => inSram e a n
     | _ => false)

inductive Target where
  | self (a : Nat)
  | remote (m a : Nat)
  | none
  deriving DecidableEq, Repr

def isSelf (h : Hub) (m : Nat) : Bool := m == 0x1FFFF || (h.ident.numberValid && m == h.ident.number.toNat)

/-- Where an atlas address leads (R37, R38). -/
def targetOf (h : Hub) (atlas : Nat) : Target :=
  let m := bitsOf atlas 47 17
  let a := bitsOf atlas 0 47
  if isSelf h m then .self a
  else if h.ident.numberValid then .remote m a
  else .none

/-- Number for ORIGIN, packets and records: 0x1_FFFF before NUMBER_VALID (17 R511). -/
def ownNumber (h : Hub) : Nat := if h.ident.numberValid then h.ident.number.toNat else 0x1FFFF

/-- Atlas address of a local address of this module. -/
def atlasOf (a : Nat) : Nat := 0x1FFFF * 2 ^ 47 + a

/-! ### Homes and lines (11) -/

def xorPieces : Nat → Nat → Nat
  | 0, _ => 0
  | n + 1, v => (v % 32) ^^^ xorPieces n (v / 32)

/-- The home of a physical LPDDR5X address (R316). -/
def homeOf (p : Nat) : Nat :=
  let u := p / 512
  (u % 24 + xorPieces 13 (u / 24) % 24) % 24

def lineOf (a : Nat) : Nat := a / 128
def lineHome (ln : Nat) : Nat := homeOf (ln * 128)
def pieceOf (a : Nat) : Nat := a / 0x200000
def linePiece (ln : Nat) : Nat := ln / 0x4000

def Coherence.home (c : Coherence) (i : Nat) : Home := c.homes.getD i resetHome

def Work.setHome (w : Work) (i : Nat) (f : Home → Home) : Work :=
  { w with coh := { w.coh with homes := w.coh.homes.modify i f } }

def dirty (c : CacheLine) : Bool := c.st == .m || c.st == .o

/-- The dirty copy of a line: in a cache, in a victim buffer whose write-back the home has not ordered, or on its way to
the requester of a transaction (R336, R338, R341). -/
def dirtyCopy (c : Coherence) (ln : Nat) : Option (List Byte × Bool) :=
  match c.lines.find? (fun l => l.line == ln && dirty l) with
  | some l => some (l.data, l.bad)
  | none =>
    match c.victims.find? (fun v => v.line == ln && !v.crossed && !v.done) with
    | some v => some (v.data, v.bad)
    | none =>
      match (c.home (lineHome ln)).txns.find? (fun t => t.line == ln && t.supplied.isSome) with
      | some t => some (t.supplied.getD [], false)
      | none => none

/-- The coherent value of a line. -/
def lineData (w : Work) (ln : Nat) : List Byte :=
  match dirtyCopy w.coh ln with
  | some (d, _) => d
  | none => memRead w.mem (ln * 128) 128

/-- The coherent value of a byte of LPDDR5X, or an SRAM byte. -/
def cohByte (w : Work) (a : Nat) : Byte :=
  match dirtyCopy w.coh (lineOf a) with
  | some (d, _) => d.getD (a % 128) 0
  | none => memGet w.mem a

/-- The fault of a read of a line (R332, R333). -/
def lineFault (w : Work) (ln : Nat) : Option Code :=
  let hm := w.coh.home (lineHome ln)
  if hm.overflow then some 0x0405
  else if hm.quarantine.contains ln then some 0x0404
  else
    match dirtyCopy w.coh ln with
    | some (_, true) => some 0x0402
    | _ => none

def clearSupplied (c : Coherence) (ln : Nat) : List Home :=
  c.homes.modify (lineHome ln) (fun hm =>
    { hm with txns := hm.txns.map (fun t => if t.line == ln then { t with supplied := none } else t) })

/-- Every copy of the line but that of `keep` becomes I; a victim of the line becomes crossed and its tag is recorded
(R338, R341). -/
def dropCopies (c : Coherence) (ln : Nat) (keep : Option Nat) : Coherence :=
  { c with
    homes := clearSupplied c ln
    lines := c.lines.filter (fun l => l.line != ln || some l.agent == keep)
    victims := c.victims.map (fun v => if v.line == ln && !v.done then { v with crossed := true } else v)
    crossedTags :=
      c.crossedTags ++ (c.victims.filter (fun v => v.line == ln && !v.done && !v.crossed)).map (fun v => v.tag) }

/-- Agents that hold the line. -/
def holders (c : Coherence) (ln : Nat) : List CacheLine := c.lines.filter (fun l => l.line == ln)

/-- Bytes `bs` from `a` on merged into a line. -/
def mergeLine (d : List Byte) (a : Nat) (bs : List Byte) : List Byte :=
  d.take (a % 128) ++ bs ++ d.drop (a % 128 + bs.length)

/-- The directory set of a line: its place behind its home, modulo 16,384 sets (R346; DESIGN CHOICE, log 7). -/
def dirSet (ln : Nat) : Nat := (ln / 4 / 24 * 4 + ln % 4) % 16384

/-- Enter a line in its home's quarantine list; a full list overflows (R332, R333). -/
def quarantineLine (w : Work) (ln : Nat) : Work :=
  w.setHome (lineHome ln) (fun hm =>
    if hm.quarantine.contains ln then hm
    else if hm.quarantine.length < 256 then { hm with quarantine := hm.quarantine ++ [ln] }
    else { hm with overflow := true })

/-- The good bytes of a bad dirty line reach its home: which bytes are good is free (R332). -/
def badToHome (w : Work) (ln : Nat) (d : List Byte) : Work :=
  let ix := w.freeIx
  let mixed := (List.range 128).map (fun i =>
    if Config.freeByteGood ix i then d.getD i 0 else memGet w.mem (ln * 128 + i))
  (quarantineLine { w with mem := memWrite w.mem (ln * 128) mixed } ln).tick

/-- Dirty data reaches its home. -/
def dataToHome (w : Work) (ln : Nat) (d : List Byte) (bad : Bool) : Work :=
  if bad then badToHome w ln d
  else { w with mem := memWrite w.mem (ln * 128) ((List.range 128).map (fun i => d.getD i 0)) }

/-- Take the dirty data of a line to its home and make every copy I (R332, R344, R348). -/
def flushLine (w : Work) (ln : Nat) : Work :=
  let w1 := match dirtyCopy w.coh ln with
    | some (d, bad) => dataToHome w ln d bad
    | none => w
  { w1 with coh := dropCopies w1.coh ln none }

/-- The entry that the copies of a line call for; none when no cache holds it (R346). -/
def dirEntryOf (c : Coherence) (ln : Nat) : Option DirEntry :=
  match holders c ln with
  | [] => none
  | hs =>
    let owner := (hs.find? (fun l => l.st != .s)).map (fun l => l.agent)
    let st := if hs.any (fun l => l.st == .m || l.st == .o) then LineState.m else if hs.any (fun l => l.st == .e) then .e else .s
    some ⟨ln, st, hs.map (fun l => l.agent), owner.getD 0xFF⟩

/-- In directory mode, bring the entry of a line up to date as the most recently used one; a full set first evicts its
least recently used entry (R346, R348). -/
def dirNote (h : Hub) (w : Work) (ln : Nat) : Work :=
  if h.ident.cfg.coherenceMode then
    let i := lineHome ln
    let others := (w.coh.home i).dir.filter (fun d => d.line != ln)
    match dirEntryOf w.coh ln with
    | none => w.setHome i (fun hm => { hm with dir := others })
    | some en =>
      let same := others.filter (fun d => dirSet d.line == dirSet ln)
      match (if same.length < 16 then none else same.head?) with
      | none => w.setHome i (fun hm => { hm with dir := others ++ [en] })
      | some v =>
        (flushLine w v.line).setHome i (fun hm => { hm with dir := others.filter (fun d => d.line != v.line) ++ [en] })
  else w

/-- A read of physical address `p` has met a parity error in the dirty line of another cache than `own`: the line goes to
its home, which quarantines it (R332). -/
def badLeaves (h : Hub) (w : Work) (own : Nat) (code : Code) (p : Nat) : Work :=
  let ln := lineOf p
  if code ≠ 0x0402 ∨ w.coh.lines.any (fun l => l.agent == own && l.line == ln) then w
  else
    match dirtyCopy w.coh ln with
    | some (_, true) => dirNote h (flushLine w ln) ln
    | _ => w

/-- Sets of a cache of 16 ways: 16 MiB for a cluster, 4 MiB for an engine (R312). -/
def cacheSets (agent : Nat) : Nat := if agent < 8 then 8192 else 2048

/-- A line of a full set is evicted to make room: the one installed first (R312; DESIGN CHOICE, log 90). A dirty one takes a
write-back tag and reaches its home (R338, R341). -/
def evictLine (h : Hub) (w : Work) (l : CacheLine) : Work :=
  let w1 := if dirty l then dataToHome w l.line l.data l.bad else w
  dirNote h
    { w1 with
      coh :=
        { w1.coh with
          lines := w1.coh.lines.filter (fun x => !(x.agent == l.agent && x.line == l.line))
          wbCount := if dirty l then w1.coh.wbCount.modify l.agent (fun k => (k + 1) % 4096) else w1.coh.wbCount } }
    l.line

/-- Room for line `ln` in the cache of `agent`. -/
def makeRoom (h : Hub) (w : Work) (agent ln : Nat) : Work :=
  let n := cacheSets agent
  let same := w.coh.lines.filter (fun l => l.agent == agent && l.line != ln && l.line % n == ln % n)
  if same.length < 16 then w
  else
    match same.getLast? with
    | some l => evictLine h w l
    | none => w

/-- READ_SHARED by an agent (R338, R340, R347): the requester installs the line. -/
def shareLine (h : Hub) (w0 : Work) (agent ln : Nat) : Work :=
  if (holders w0.coh ln).any (fun l => l.agent == agent) then w0
  else
    let w := makeRoom h w0 agent ln
    let d := lineData w ln
    let hasVictim := w.coh.victims.any (fun v => v.line == ln && !v.crossed && !v.done)
    let others := holders w.coh ln
    let isProtected := w.copier.protectedSet.contains (linePiece ln)
    let st := if others.isEmpty && !isProtected then LineState.e else .s
    let dirMode := h.ident.cfg.coherenceMode
    let lower (l : CacheLine) : CacheLine :=
      if l.line == ln then
        { l with st := match l.st with | .m => (if dirMode then .s else .o) | .e => .s | x => x, resv := false }
      else l
    let writeMem := hasVictim || (dirMode && others.any dirty)
    let c := if hasVictim then dropCopies w.coh ln none else w.coh
    dirNote h
      { w with
        mem := if writeMem then memWrite w.mem (ln * 128) d else w.mem
        coh := { c with lines := ⟨agent, ln, st, d, false, false⟩ :: c.lines.map lower } }
      ln

/-- READ_UNIQUE or UPGRADE by an agent, with its store merged (R338, R343). -/
def ownLine (h : Hub) (w0 : Work) (agent ln a : Nat) (bs : List Byte) : Work :=
  let w := makeRoom h w0 agent ln
  let d := mergeLine (lineData w ln) a bs
  let c := dropCopies w.coh ln none
  dirNote h { w with coh := { c with lines := ⟨agent, ln, .m, d, false, false⟩ :: c.lines } } ln

/-- WRITE_AT_HOME of bytes within one line (R338, R344); a write of the whole line ends its quarantine (R332). -/
def homeStore (h : Hub) (w : Work) (a : Nat) (bs : List Byte) : Work :=
  let ln := lineOf a
  let w1 := flushLine w ln
  let w2 := { w1 with mem := memWrite w1.mem a bs }
  let w3 :=
    if bs.length == 128 then
      w2.setHome (lineHome ln) (fun hm => { hm with quarantine := hm.quarantine.filter (fun x => x != ln) })
    else w2
  dirNote h w3 ln

/-- A span of bytes cut at the 128-byte boundaries (R317): (address, bytes) of each part. -/
def linePartsFuel : Nat → Nat → List Byte → List (Nat × List Byte)
  | 0, _, _ => []
  | _ + 1, _, [] => []
  | n + 1, a, bs =>
    let k := 128 - a % 128
    (a, bs.take k) :: linePartsFuel n (a + k) (bs.drop k)

def lineParts (a : Nat) (bs : List Byte) : List (Nat × List Byte) := linePartsFuel (bs.length + 1) a bs

/-- The lines that `n` bytes from `a` touch. -/
def linesOf (a n : Nat) : List Nat :=
  if n = 0 then [] else (List.range (lineOf (a + n - 1) - lineOf a + 1)).map (fun i => lineOf a + i)

/-! ### Physical reads -/

/-- One byte at a physical local address, or the code of its memory error. -/
def physByte (h : Hub) (w : Work) (a : Nat) : Except Code Byte :=
  if a < lpddrEnd h then
    match lineFault w (lineOf a) with
    | some c => .error c
    | none => .ok (cohByte w a)
  else .ok (memGet w.mem a)

/-- `n` bytes at a physical address; the first failing byte gives the code and its address. -/
def physRead (h : Hub) (w : Work) (a n : Nat) : Except (Code × Nat) (List Byte) :=
  (List.range' a n).mapM (fun x =>
    match physByte h w x with
    | .ok b => .ok b
    | .error c => .error (c, x))

/-- The same with the errors ignored, for agents whose reads the spec gives no error for. -/
def physBytes (w : Work) (a n : Nat) : List Byte := (List.range' a n).map (cohByte w)

def physNat (w : Work) (a n : Nat) : Nat := leNat (physBytes w a n)

/-! ### Engine translation (11 R321 to R325) -/

/-- A leaf: where the page lies, whether it may be written, whether it is snapshot-protected, its entry's address and
its size. -/
structure Leaf where
  phys : Nat
  writable : Bool
  sp : Bool
  entryAddr : Nat
  size : Nat
  deriving DecidableEq, Repr

/-- A leaf entry of the table; `lo` is the first bit of the page address. -/
def leafOf (h : Hub) (entry entryAddr lo : Nat) : Option Leaf :=
  let p := bitsOf entry 12 35 * 4096
  if p % 2 ^ lo = 0 ∧ p + 2 ^ lo ≤ lpddrEnd h then
    some ⟨p, bitOf entry 2, bitOf entry 3, entryAddr, 2 ^ lo⟩
  else none

/-- An entry is valid and has no reserved bit set (R323, R324). -/
def entryOk (entry : Nat) : Bool := bitOf entry 0 && bitsOf entry 4 8 == 0 && bitsOf entry 47 17 == 0

/-- A walk for engine address `a` (R323, R324): the leaf, or a fault code. -/
def walk (h : Hub) (w : Work) (base a : Nat) : Except Code Leaf :=
  let a1 := base + bitsOf a 30 10 * 8
  match physRead h w a1 8 with
  | .error (c, _) => .error c
  | .ok b1 =>
    let e1 := leNat b1
    if !entryOk e1 then .error 0x0406
    else if bitOf e1 1 then
      match leafOf h e1 a1 30 with
      | some l => .ok l
      | none => .error 0x0406
    else
      let t := bitsOf e1 12 35 * 4096
      if !inLpddr h t 4096 then .error 0x0406
      else
        let a2 := t + bitsOf a 21 9 * 8
        match physRead h w a2 8 with
        | .error (c, _) => .error c
        | .ok b2 =>
          let e2 := leNat b2
          if !entryOk e2 || !bitOf e2 1 then .error 0x0406
          else
            match leafOf h e2 a2 21 with
            | some l => .ok l
            | none => .error 0x0406

/-- Physical address of an LPDDR5X engine address (R321, R322, R324). While an XLATE_INVAL is pending every access walks the
table (R325, R360). -/
def translate (h : Hub) (w : Work) (x : XlateState) (write : Bool) (a : Nat) : Except Code Nat :=
  if !x.enable then .ok a
  else
    match (if x.pending then none else x.kept.find? (fun k => k.1 == a / 0x200000)) with
    | some (_, en) =>
      let p := bitsOf en.toNat 12 35 * 4096
      if write && !bitOf en.toNat 2 then .error 0x0407 else .ok (p + a % 0x200000)
    | none =>
      match walk h w x.base a with
      | .error c => .error c
      | .ok l => if write && !l.writable then .error 0x0407 else .ok (l.phys + a % l.size)

/-- Keep the translation of one 2 MiB page, dropping the oldest beyond 256 (R325; which one is dropped is a DESIGN
CHOICE, log 8). A kept entry has the form of a 2 MiB leaf. -/
def keepPage (h : Hub) (w : Work) (e a : Nat) : Work :=
  let x := (w.engine e).xl
  if !x.enable || x.pending || lpddrEnd h ≤ a || x.kept.any (fun k => k.1 == a / 0x200000) then w
  else
    match walk h w x.base a with
    | .error _ => w
    | .ok l =>
      let phys := l.phys + a % l.size / 0x200000 * 0x200000
      let en : Word := BitVec.ofNat 64 (phys + 3 + (if l.writable then 4 else 0) + (if l.sp then 8 else 0))
      w.setEngine e (fun g => { g with xl := { g.xl with kept := (g.xl.kept ++ [(a / 0x200000, en)]).drop (g.xl.kept.length - 255) } })

/-- Where an engine's access to one byte of a local address goes: a physical local address, or a code. -/
def engineAddr (h : Hub) (w : Work) (e : Nat) (write : Bool) (a : Nat) : Except Code Nat :=
  match regionOf h a with
  | .lpddr => translate h w (w.engine e).xl write a
  | .sram _ => .ok a
  | _ => .error 0x0401

/-- The cache of `agent` holds the line: a read of it is no read at its home (R333). -/
def holdsLine (w : Work) (agent ln : Nat) : Bool := w.coh.lines.any (fun l => l.agent == agent && l.line == ln && !l.bad)

/-- A byte of USE_CLOSE of a tensor entry, at its local address: it reads 0 (08 R218). -/
def readsZero (w : Work) (a : Nat) : Bool :=
  let t := w.tables
  t.ttLog2 != 0 && decide (t.ttBase + 256 ≤ a ∧ a < t.ttBase + 256 * 2 ^ t.ttLog2) &&
    decide (0xB8 ≤ (a - t.ttBase) % 256 ∧ (a - t.ttBase) % 256 < 0xC0)

/-- One byte read by engine `e`, through its edge cache. -/
def engineByte (h : Hub) (w : Work) (e a : Nat) : Except Code Byte :=
  match engineAddr h w e false a with
  | .error c => .error c
  | .ok p =>
    if readsZero w a then .ok 0
    else if p < lpddrEnd h ∧ holdsLine w (8 + e) (lineOf p) then .ok (cohByte w p) else physByte h w p

/-- `n` bytes read by engine `e`; the first failing byte gives the code and its address (R331). -/
def engineRead (h : Hub) (w : Work) (e a n : Nat) : Except (Code × Nat) (List Byte) :=
  (List.range' a n).mapM (fun x =>
    match engineByte h w e x with
    | .ok b => .ok b
    | .error c => .error (c, x))

/-- A little-endian number of `n` bytes read by engine `e`. -/
def engineNat (h : Hub) (w : Work) (e a n : Nat) : Except (Code × Nat) Nat :=
  match engineRead h w e a n with
  | .ok b => .ok (leNat b)
  | .error x => .error x

/-- The update controller, the update units and the fabric ingress translate with the tables in force and keep none
(R325): what they use is the table that SET_XLATE set. -/
def moduleXlate (w : Work) : XlateState :=
  { resetXlate with enable := w.tables.xlEnable, base := w.tables.xlBase }

/-- Physical address of a local address taken by the update controller, an update unit or the fabric ingress. -/
def moduleAddr (h : Hub) (w : Work) (write : Bool) (a : Nat) : Except Code Nat :=
  match regionOf h a with
  | .lpddr => translate h w (moduleXlate w) write a
  | .sram _ => .ok a
  | _ => .error 0x0401

def moduleByte (h : Hub) (w : Work) (a : Nat) : Except Code Byte :=
  match moduleAddr h w false a with
  | .error c => .error c
  | .ok p => if readsZero w a then .ok 0 else physByte h w p

def moduleRead (h : Hub) (w : Work) (a n : Nat) : Except (Code × Nat) (List Byte) :=
  (List.range' a n).mapM (fun x =>
    match moduleByte h w x with
    | .ok b => .ok b
    | .error c => .error (c, x))

def moduleNat (h : Hub) (w : Work) (a n : Nat) : Except (Code × Nat) Nat :=
  match moduleRead h w a n with
  | .ok b => .ok (leNat b)
  | .error x => .error x

end Sys2Proof.Machine
end

