-- ==== Sys2Proof/Machine/Send.lean ====
section
/-!
DEFINITION. Packets on their way out (12): link fault injection, ports with credits, the spray over permitted ports, the
sender side of the transport, and requests that wait for a response.
-/

namespace Sys2Proof.Machine

/-- Flits of a packet (R369). -/
def flitsOf (p : Packet) : Nat := (36 + p.payload.length + 63) / 64

/-! ### The layout of a packet (R369) -/

/-- The reserved bits of the header as one number. -/
def headerReserved (b : List Byte) : Nat :=
  bitsOf (leNat (b.take 4)) 19 5 + 2 ^ 5 * bitsOf (leNat ((b.drop 4).take 4)) 30 2 +
    2 ^ 7 * bitsOf (leNat ((b.drop 0x10).take 8)) 47 17 + 2 ^ 24 * leNat ((b.drop 0x1D).take 3)

/-- The packet that stands in a string of bytes; none where the string is shorter than it says. A READ carries the length it
asks for and no payload (DEDUCED, log 10). -/
def packetOf (b : List Byte) : Option Packet :=
  let f (off n : Nat) : Nat := leNat ((b.drop off).take n)
  let op := bitsOf (f 0 4) 24 8
  let length := bitsOf (f 4 4) 17 13
  let n := if op = 1 then 0 else length
  if b.length < 36 + n then none
  else
    some
      { dest := bitsOf (f 0 4) 0 17
        cls := bitsOf (f 0 4) 17 2
        op := op
        src := bitsOf (f 4 4) 0 17
        length := length
        psn := BitVec.ofNat 32 (f 8 4)
        causal := BitVec.ofNat 32 (f 0x0C 4)
        addr := bitsOf (f 0x10 8) 0 47
        tag := f 0x18 2
        status := BitVec.ofNat 16 (f 0x1A 2)
        path := f 0x1C 1
        reserved := headerReserved b
        crcOk := crc32 (b.take (32 + n)) == f (32 + n) 4
        payload := (b.drop 32).take n }

/-- Header and payload of a packet that this module makes, whose reserved bits are 0. -/
def packetHead (p : Packet) : List Byte :=
  leBytes 4 (p.dest % 2 ^ 17 + 2 ^ 17 * (p.cls % 4) + 2 ^ 24 * (p.op % 256)) ++
    leBytes 4 (p.src % 2 ^ 17 + 2 ^ 17 * (p.length % 2 ^ 13)) ++ leBytes 4 p.psn.toNat ++ leBytes 4 p.causal.toNat ++
    leBytes 8 (p.addr % 2 ^ 47) ++ leBytes 2 p.tag ++ leBytes 2 p.status.toNat ++ leBytes 1 p.path ++ leBytes 3 0 ++ p.payload

/-- The packet on a link: header, payload, CRC-32, and zero bytes up to whole flits. -/
def packetBytes (p : Packet) : List Byte :=
  let b := packetHead p
  b ++ leBytes 4 (crc32 b) ++ List.replicate (64 * flitsOf p - 4 - b.length) 0

/-! ### Link fault injection (R395, R396) -/

def ruleMatches (r : InjectionRule) (port : Nat) (ingress : Bool) (p : Packet) : Bool :=
  r.action != 0 && r.port == port && r.ingress == ingress && bitOf r.classes p.cls

/-- Whether matching packet `c`, counted from 0 after SKIP, is affected by rule `n`. -/
def ruleHits (n : Nat) (r : InjectionRule) (c : Nat) : Bool :=
  if r.countMode then r.count == 0 || decide (c < r.count)
  else decide (bitsOf (mix r.seed (BitVec.ofNat 32 n) (BitVec.ofNat 64 c)).toNat 32 32 < r.prob)

/-- Held packets of a reorder rule after one more matching packet has passed: (released, still held). -/
def passHeld (held : List (Packet × Nat)) : List Packet × List (Packet × Nat) :=
  let down := held.map (fun x => (x.1, x.2 - 1))
  ((down.filter (fun x => x.2 == 0)).map (fun x => x.1), down.filter (fun x => x.2 != 0))

/-- One rule on one packet: the rule after it, the packets that go on, and whether a link replay follows. An Ethernet port
has no link replay: there ACTION 2 acts as ACTION 3 (18 R535 b). -/
def runRule (n : Nat) (r : InjectionRule) (port : Nat) (eth ingress : Bool) (p : Packet) :
    InjectionRule × List Packet × Bool :=
  if !ruleMatches r port ingress p then (r, [p], false)
  else
    let r1 := { r with matched := r.matched + 1 }
    if r.matched < r.skip || !ruleHits n r (r.matched - r.skip) then
      let (out, held) := passHeld r1.held
      ({ r1 with held := held }, p :: out, false)
    else
      let r2 := { r1 with affected := r1.affected + 1 }
      match r.action with
      | 1 => (r2, [], false)
      | 2 => if eth then (r2, [{ p with crcOk := false }], false) else (r2, [p], true)
      | 3 => (r2, [{ p with crcOk := false }], false)
      | _ => ({ r2 with held := r2.held ++ [(p, r2.hold)] }, [], false)

/-- One rule on a list of packets, in order. -/
def runRuleList (n : Nat) (port : Nat) (eth ingress : Bool) :
    InjectionRule → List Packet → InjectionRule × List Packet × Nat
  | r, [] => (r, [], 0)
  | r, p :: ps =>
    let (r1, out, rep) := runRule n r port eth ingress p
    let (r2, outs, k) := runRuleList n port eth ingress r1 ps
    (r2, out ++ outs, k + (if rep then 1 else 0))

/-- Every rule in turn. -/
def runRules (port : Nat) (eth ingress : Bool) : Nat → List InjectionRule → List Packet → List InjectionRule × List Packet × Nat
  | _, [], ps => ([], ps, 0)
  | n, r :: rs, ps =>
    let (r1, out, k) := runRuleList n port eth ingress r ps
    let (rs1, outs, k2) := runRules port eth ingress (n + 1) rs out
    (r1 :: rs1, outs, k + k2)

/-- OP of the packets that a module makes for fabric management: acknowledgements and probes (R372; the spec gives them no
OP: DESIGN CHOICE, log 34). -/
def ackOp : Nat := 0x30
def probeOp : Nat := 0x31

def isManagement (p : Packet) : Bool := p.op == ackOp || p.op == probeOp

/-- The rules as they act on a packet: none whose CLASSES leaves out C0 acts on this module's own management packets. -/
def rulesFor (own : Bool) (rs : List InjectionRule) : List InjectionRule :=
  if own then rs.map (fun r => if bitOf r.classes 0 then r else { r with action := 0 }) else rs

/-- Injection at a port (R396): acts only in test mode. A packet corrupted on the link costs one replay (R363). -/
def inject (h : Hub) (w : Work) (port : Nat) (ingress : Bool) (p : Packet) : Work × List Packet :=
  if h.ident.cfg.testMode then
    let rules := rulesFor (isManagement p && !ingress && p.src == ownNumber h) w.fabric.rules
    let (rs, out, k) := runRules port ((w.fabric.ports.getD port resetPort).st == .ethUp) ingress 0 rules [p]
    ({ w with
        fabric :=
          { w.fabric with
            rules := rs.zipWith (fun r old => { r with action := old.action }) w.fabric.rules
            ports := w.fabric.ports.modify port (fun x => { x with replays := min (x.replays + k) max32 }) } }, out)
  else (w, [p])

/-! ### Ports (R362, R363, R381) -/

def portOf (w : Work) (n : Nat) : Port := w.fabric.ports.getD n resetPort

def Work.setPort (w : Work) (n : Nat) (f : Port → Port) : Work :=
  { w with fabric := { w.fabric with ports := w.fabric.ports.modify n f } }

def portIsUp (w : Work) (n : Nat) : Bool := (portOf w n).st == .up || (portOf w n).st == .ethUp

/-- The head packet of a class may go: its credits suffice. Ethernet has no flow control of the link (R365). -/
def headReady (p : Port) (cls : Nat) : Option (Packet × List Packet) :=
  match p.queues.getD cls [] with
  | [] => none
  | pk :: rest => if p.st == .ethUp || decide (flitsOf pk ≤ p.credits.getD cls 0) then some (pk, rest) else none

/-- Send the head packet of a class, when it may go; C0 flits are metered (R381). A link holds the flits until they are
acknowledged. -/
def pumpOne (p : Port) (cls : Nat) : Option Port :=
  match headReady p cls with
  | none => none
  | some (pk, rest) =>
    let f := flitsOf pk
    let win := p.c0Window + 64 * f
    let eth := p.st == .ethUp
    some
      { p with
        queues := p.queues.set cls rest
        credits := if eth then p.credits else p.credits.set cls (p.credits.getD cls 0 - f)
        held := if eth then p.held else p.held ++ List.replicate f cls
        c0Window := if cls = 0 then win else p.c0Window
        c0Over := if cls = 0 ∧ 40000 < win then min (p.c0Over + 1) max32 else p.c0Over }

def pumpFuel : Nat → Nat → Port → Port
  | 0, _, p => p
  | n + 1, cls, p =>
    match pumpOne p cls with
    | some p1 => pumpFuel n cls p1
    | none => p

/-- The weight of a class (R367). -/
def classWeight : Nat → Nat
  | 1 => 8
  | 2 => 4
  | _ => 1

/-- A class in its turn sends packets while its deficit lasts; what an emptied class has left is lost. -/
def spendTurn : Nat → Nat → Port → Port
  | 0, _, p => p
  | n + 1, cls, p =>
    match headReady p cls with
    | none => if (p.queues.getD cls []).isEmpty then { p with deficit := p.deficit.set cls 0 } else p
    | some (pk, _) =>
      let f := flitsOf pk
      if f ≤ p.deficit.getD cls 0 then
        spendTurn n cls ((pumpOne { p with deficit := p.deficit.modify cls (fun d => d - f) } cls).getD p)
      else p

/-- The turn of one of the classes C1 to C3, and the next class's after it. -/
def drrTurn (p : Port) : Port :=
  let c := 1 + p.turn % 3
  let p1 := { p with turn := (p.turn + 1) % 3 }
  if (headReady p c).isSome then
    spendTurn ((p.queues.getD c []).length + 1) c { p1 with deficit := p1.deficit.modify c (fun d => d + classWeight c) }
  else p1

/-- Deficit round-robin over flits, until no class may send (R367). -/
def drr : Nat → Port → Port
  | 0, p => p
  | n + 1, p => if [1, 2, 3].any (fun c => (headReady p c).isSome) then drr n (drrTurn p) else p

/-- Turns that suffice for all queued packets, none of which has more than 65 flits. -/
def drrBound (p : Port) : Nat := 200 * ((p.queues.map List.length).sum + 1)

/-- Send what the credits allow, C0 first (R367, R368); nothing while the link is not up. -/
def pump (p : Port) : Port :=
  if p.st == .up || p.st == .ethUp then
    let p0 := pumpFuel (p.queues.getD 0 []).length 0 p
    drr (drrBound p0) p0
  else p

def enqueue (p : Port) (pk : Packet) : Port :=
  pump { p with queues := p.queues.modify pk.cls (fun l => l ++ [pk]) }

/-- Hand a packet to an egress port. -/
def egress (h : Hub) (w : Work) (port : Nat) (p : Packet) : Work :=
  let (w1, out) := inject h w port false p
  out.foldl (fun w pk => w.setPort port (fun x => enqueue x pk)) w1

/-! ### Routing and the sender side of the transport (R370, R372) -/

/-- Ports on a permitted path: each fabric die's table speaks for its own eight ports (DEDUCED, log 9). -/
def permitted (w : Work) (dest : Nat) : List Nat :=
  let r0 := (alGet 0#16 w.fabric.routes0 dest).toNat
  let r1 := (alGet 0#16 w.fabric.routes1 dest).toNat
  (List.range 16).filter (fun n => bitOf (if n < 8 then r0 else r1) n)

def freshSender (dest cls : Nat) : Sender := ⟨dest, cls, 0, [], 15, [], [], false⟩

def senderOf (w : Work) (dest cls : Nat) : Sender :=
  (w.fabric.senders.find? (fun s => s.dest == dest && s.cls == cls)).getD (freshSender dest cls)

def Work.setSender (w : Work) (s : Sender) : Work :=
  { w with
    fabric :=
      { w.fabric with senders := s :: w.fabric.senders.filter (fun x => !(x.dest == s.dest && x.cls == s.cls)) } }

/-- The next port in turn after `last`. -/
def nextPort (ports : List Nat) (last : Nat) : Option Nat :=
  match ports.filter (fun n => last < n) with
  | n :: _ => some n
  | [] => ports.head?

/-- The ports a packet of this sender may take now; `mask` narrows them (R384 PORT_MASK). -/
def sprayPorts (w : Work) (s : Sender) (mask : Nat) : List Nat :=
  (permitted w s.dest).filter (fun n => portIsUp w n && bitOf mask n && !s.left.contains n)

/-- An Ethernet port needs an address table entry for the destination (R366). -/
def ethReachable (w : Work) (port dest : Nat) : Bool :=
  (portOf w port).st != .ethUp || w.fabric.ethTable.any (fun x => x.2.module == dest)

/-- Send a new packet of this module: number it, hold it, and give it to the next port in turn. The code is 0, or the
reason it was refused at its origin (R366, R368, R370, R372). -/
def sendPacket (h : Hub) (w : Work) (mask : Nat) (p : Packet) : Work × Code :=
  let s := senderOf w p.dest p.cls
  if p.cls = 0 ∧ 256 < p.payload.length then (w, 0x0504)
  else if s.unreachable then (w, 0x0501)
  else
    match nextPort (sprayPorts w s mask) s.lastPort with
    | none => (w, 0x0501)
    | some port =>
      if !ethReachable w port p.dest then (w, 0x0501)
      else
        let pk := { p with psn := s.nextPsn, causal := w.logs.causal, path := port }
        let s1 := { s with nextPsn := s.nextPsn + 1, held := s.held ++ [⟨pk, 0, mask⟩], lastPort := port }
        (egress h (w.setSender s1) port pk, 0)

/-- The port for a resend: the next one in turn of those that the packet may take. -/
def resendPort (w : Work) (s : Sender) (hp : HeldPacket) : Option Nat := nextPort (sprayPorts w s hp.mask) s.lastPort

/-- Resend a held packet on the next port in turn, which it now names in PATH (R372). -/
def resendPacket (h : Hub) (w : Work) (s : Sender) (hp : HeldPacket) : Work :=
  let path := (resendPort w s hp).getD hp.packet.path
  let s1 :=
    { s with
      held :=
        s.held.map (fun x =>
          if x.packet.psn == hp.packet.psn then
            { x with resends := x.resends + 1, packet := { x.packet with path := path } }
          else x) }
  match resendPort w s hp with
  | none => w.setSender s1
  | some port =>
    egress h (w.setSender { s1 with lastPort := port }) port { hp.packet with path := port }

/-- A request packet of this module. A READ carries the length it asks for in LENGTH (DEDUCED, log 10). -/
def requestPacket (h : Hub) (dest cls op addr tag len : Nat) (payload : List Byte) : Packet :=
  ⟨dest, cls, op, ownNumber h, len, 0, 0, addr, tag, 0, 0, 0, true, payload⟩

/-- Send a request and remember who waits for its response. -/
def sendRequest (h : Hub) (w : Work) (mask dest cls op addr len : Nat) (payload : List Byte) (who : Requester) :
    Work × Code :=
  let tag := w.fabric.nextTag
  let w1 :=
    { w with
      fabric :=
        { w.fabric with nextTag := (tag + 1) % 65536, requests := w.fabric.requests ++ [(tag, who)] } }
  match sendPacket h w1 mask (requestPacket h dest cls op addr tag len payload) with
  | (w2, c) => if c = 0 then (w2, 0) else (w, c)

/-- The response to a delivered request (R374): same class, tag returned, on the ports of `mask`. -/
def sendResponse (h : Hub) (w : Work) (mask : Nat) (req : Packet) (status : Code) (data : List Byte) : Work :=
  let p : Packet :=
    ⟨req.src, req.cls, req.op + 0x80, ownNumber h, data.length, 0, 0, req.addr, req.tag, status, 0, 0, true, data⟩
  let w1 :=
    { w with
      fabric :=
        { w.fabric with
          receivers :=
            w.fabric.receivers.map (fun r =>
              if r.src == req.src && r.cls == req.cls then { r with kept := r.kept ++ [(req.psn, mask, p)] } else r) } }
  (sendPacket h w1 mask p).1

/-- A CONTROL message on C0 to one module (R374); its payload begins with the model's own kind byte (log 11). -/
def sendControl (h : Hub) (w : Work) (dest : Nat) (payload : List Byte) (who : Requester) : Work × Code :=
  sendRequest h w 0xFFFF dest 0 0x20 0 payload.length payload who

end Sys2Proof.Machine
end

