-- ==== Sys2Proof/Machine/Protect.lean ====
section
/-!
DEFINITION. Snapshot pieces on their way to the image slot and writes that touch them (11 R326 to R329, 13 R404, R407,
R408), and the physical writes of every agent.
-/

namespace Sys2Proof.Machine

def pieceSize : Nat := 0x200000

/-- The directory entries of a home brought up to date with the caches. -/
def refreshDir (c : Coherence) (inside : Nat → Bool) (d : List DirEntry) : List DirEntry :=
  d.filterMap (fun x => if inside x.line then dirEntryOf c x.line else some x)

/-- Every cached copy of the whole lines of a range becomes I, and their quarantine ends, as whole-line writes give it
(R332, R338, R341). -/
def dropRange (c : Coherence) (a n : Nat) : Coherence :=
  let inside (ln : Nat) : Bool := decide (a ≤ ln * 128 ∧ ln * 128 + 128 ≤ a + n)
  { c with
    lines := c.lines.filter (fun l => !inside l.line)
    victims := c.victims.map (fun v => if inside v.line && !v.done then { v with crossed := true } else v)
    crossedTags :=
      c.crossedTags ++ (c.victims.filter (fun v => inside v.line && !v.done && !v.crossed)).map (fun v => v.tag)
    homes :=
      c.homes.map (fun hm =>
        { hm with
          txns := hm.txns.map (fun t => if inside t.line then { t with supplied := none } else t)
          quarantine := hm.quarantine.filter (fun ln => !inside ln)
          dir := hm.dir.filter (fun d => !inside d.line) }) }

/-- Write back the dirty lines of a range and keep them in S; a bad one enters its home's quarantine list (R326, R332). The
write-backs under way are over, and so are the tags recorded for them (R341). -/
def cleanRange (w : Work) (a n : Nat) : Work :=
  let inside (ln : Nat) : Bool := decide (a ≤ ln * 128 ∧ ln * 128 < a + n)
  let w1 := (w.coh.lines.filter (fun l => inside l.line && dirty l)).foldl (fun w l => dataToHome w l.line l.data l.bad) w
  let w2 := (w.coh.victims.filter (fun v => inside v.line && !v.crossed && !v.done)).foldl
    (fun w v => dataToHome w v.line v.data v.bad) w1
  let lines := w2.coh.lines.filter (fun l => !(inside l.line && l.bad))
  let gone := (w2.coh.victims.filter (fun v => inside v.line && !v.done)).map (fun v => v.tag)
  let c : Coherence :=
    { w2.coh with
      lines := lines.map (fun l => if inside l.line then { l with st := .s } else l)
      victims := w2.coh.victims.map (fun v => if inside v.line then { v with done := true } else v)
      crossedTags := w2.coh.crossedTags.filter (fun x => !gone.contains x) }
  { w2 with coh := { c with homes := c.homes.map (fun hm => { hm with dir := refreshDir c inside hm.dir }) } }

/-- The atlas address of image slot `r.slot`. -/
def slotBase (r : CopierRun) : Nat := if r.slot = 0 then r.desc.slot0 else r.desc.slot1

/-- Chunks of a byte range as (offset, length), at most 4,096 bytes each. -/
def packetSpans (n : Nat) : List (Nat × Nat) := (List.range ((n + 4095) / 4096)).map (fun i => (i * 4096, min 4096 (n - i * 4096)))

/-- Whole lines written at a physical address by the copier, from memory. -/
def lineCopy (w : Work) (src dst n : Nat) : Work :=
  { w with mem := memCopy w.mem src dst n, coh := dropRange w.coh dst n }

/-- Bytes given to a module on C3, in packets (13 R406 step 5). -/
def slotPackets (h : Hub) (w : Work) (m a n : Nat) (data : Work → Nat → Nat → List Byte) : Work × Code :=
  (packetSpans n).foldl
    (fun (acc : Work × Code) sp =>
      if acc.2 != 0 then acc
      else sendRequest h acc.1 0xFFFF m 3 0x02 (a + sp.1) sp.2 (data acc.1 sp.1 sp.2) .copierWrite)
    (w, 0)

/-- Bytes of memory to an atlas address of the slot. The code is that of a refused packet. -/
def toSlot (h : Hub) (w : Work) (atlas src n : Nat) : Work × Code :=
  match targetOf h atlas with
  | .self a => (lineCopy w src a n, 0)
  | .remote m a => slotPackets h w m a n (fun w o k => memRead w.mem (src + o) k)
  | .none => (w, 0x0401)

def Work.setRun (w : Work) (f : CopierRun → CopierRun) : Work :=
  { w with copier := { w.copier with run := w.copier.run.map f } }

/-- A slot write has failed. -/
def noteSlotFail (c : Code) (atlas : Nat) (r : CopierRun) : CopierRun :=
  if c = 0 ∨ r.slotFail ≠ 0 then r else { r with slotFail := c, slotFailAddr := atlas }

/-- Send one piece, whose opening bytes lie at `src`, to its place in the image (13 R404). -/
def sendPiece (h : Hub) (w : Work) (r : CopierRun) (piece src : Nat) : Work :=
  let k := r.pieces.findIdx (fun p => p == piece)
  let crc := crc32 (memRead w.mem src pieceSize)
  let atlas := slotBase r + 0xA00000 + k * pieceSize
  let (w1, c) := toSlot h w atlas src pieceSize
  let w2 := (w1.setRun (fun x => { x with crcs := x.crcs ++ [(piece, crc)] })).setRun (noteSlotFail c atlas)
  { w2 with copier := { w2.copier with done := w2.copier.done + 1 } }

/-- Drain the oldest staged piece (13 R407). -/
def drainOldest (h : Hub) (w : Work) : Work :=
  match w.copier.run with
  | none => w
  | some r =>
    match r.staged with
    | [] => w
    | (piece, slot) :: rest =>
      (sendPiece h w r piece (r.desc.stageAddr + slot * pieceSize)).setRun (fun x => { x with staged := rest })

/-- Clear SP in the given entries and drop the kept copies of them in every engine (11 R329, R325). -/
def clearEntries (h : Hub) (w : Work) (ready : List (Nat × Nat × Nat)) : Work :=
  let w1 := ready.foldl (fun w x => homeStore h w x.1 [cohByte w x.1 &&& 0xF7#8]) w
  let keepK (k : Nat × Word) : Bool :=
    !ready.any (fun x => decide (x.2.1 ≤ pieceOf (bitsOf k.2.toNat 12 35 * 4096) ∧
      pieceOf (bitsOf k.2.toNat 12 35 * 4096) < x.2.1 + x.2.2))
  let w2 : Work :=
    { w1 with
      engines := w1.engines.map (fun en => { en with xl := { en.xl with kept := en.xl.kept.filter keepK } }) }
  w2.setRun
    (fun x => { x with spEntries := x.spEntries.filter (fun y => !ready.contains y) })

/-- Entries of the epoch all of whose pieces have been copied, and which lie in no piece still protected. -/
def readyEntries (w : Work) (r : CopierRun) : List (Nat × Nat × Nat) :=
  r.spEntries.filter (fun x =>
    !w.copier.protectedSet.contains (pieceOf x.1) &&
      !w.copier.protectedSet.any (fun p => decide (x.2.1 ≤ p) && decide (p < x.2.1 + x.2.2)))

def clearSp (h : Hub) (w : Work) : Work :=
  match w.copier.run with
  | none => w
  | some r => clearEntries h w (readyEntries w r)

def freeSlot (r : CopierRun) : Option Nat :=
  (List.range r.desc.stagePieces).find? (fun i => !r.staged.any (fun s => s.2 == i))

/-- A piece leaves the protected set (13 R407). -/
def unprotect (h : Hub) (w : Work) (piece : Nat) : Work :=
  clearSp h { w with copier := { w.copier with protectedSet := w.copier.protectedSet.filter (fun p => p != piece) } }

/-- Copy a protected piece into staging slot `i`. -/
def stagePiece (w : Work) (r : CopierRun) (piece i : Nat) : Work :=
  let w1 := (lineCopy w (piece * pieceSize) (r.desc.stageAddr + i * pieceSize) pieceSize).setRun (fun x =>
    { x with todo := x.todo.filter (fun p => p != piece), staged := x.staged ++ [(piece, i)] })
  { w1 with copier := { w1.copier with aside := min (w1.copier.aside + 1) max32 } }

def countStageWaits (w : Work) (n : Nat) : Work :=
  { w with copier := { w.copier with stageWaits := min (w.copier.stageWaits + n) max32 } }

/-! ### Writes that meet a protected piece (11 R327, R328, 13 R408) -/

/-- The home of a line holds a request. -/
def holdReq (w : Work) (ln : Nat) (r : HeldReq) : Work := w.setHome (lineHome ln) (fun hm => { hm with held := hm.held ++ [r] })

/-- The line of a physical address belongs to a piece that is not yet copied. -/
def pieceHeld (h : Hub) (w : Work) (a : Nat) : Bool :=
  decide (a < lpddrEnd h) && w.copier.protectedSet.contains (pieceOf a)

/-- Bytes at a physical address as they will be once the home has made the writes that it holds. -/
def afterHeld (w : Work) (a : Nat) (bs : List Byte) : List Byte :=
  bs.zipIdx.map (fun x =>
    ((w.coh.home (lineHome (lineOf (a + x.2)))).held.reverse.findSome? (fun r => match r with
      | .write p d => if p ≤ a + x.2 ∧ a + x.2 < p + d.length then d[a + x.2 - p]? else none
      | _ => none)).getD x.1)

/-- Lines that held writes of `w` name and the homes of `before` do not hold yet. -/
def newlyHeld (before w : Work) : List Nat :=
  ((List.range 24).flatMap (fun i => (w.coh.home i).held.drop (before.coh.home i).held.length)).filterMap (fun r =>
    match r with
    | .write a _ => some a
    | .own _ a _ => some a
    | .step _ a => some a
    | .command _ => none)

/-- Each of the pieces written at `as` is asked for once in the name of `who`. -/
def askPieces (w : Work) (who : Nat × Nat × Nat) (as : List Nat) : Work :=
  as.foldl (fun w a =>
    if (w.coh.home (lineHome (lineOf a))).held.any (fun r => match r with
        | .step k x => k == who && pieceOf x == pieceOf a
        | _ => false) then w
    else holdReq w (lineOf a) (.step who a)) w

/-- A step whose writes decide when it is complete: `done` is the state after it. If a write of it meets a protected piece, the
whole step is held and is taken again once the piece is copied (R327, log 12). -/
def wholeStep (w : Work) (who : Nat × Nat × Nat) (done : Work) : Work :=
  match newlyHeld w done with
  | [] => done
  | as => askPieces w who as

/-- WRITE_AT_HOME, or a write at the SRAM bank, of any span; part by part (11 R317, R338). A part on a protected piece waits at
its home. -/
def physWrite (h : Hub) (w : Work) (a : Nat) (bs : List Byte) : Work :=
  if a < lpddrEnd h then
    (lineParts a bs).foldl
      (fun w p => if pieceHeld h w p.1 then holdReq w (lineOf p.1) (.write p.1 p.2) else homeStore h w p.1 p.2) w
  else { w with mem := memWrite w.mem a bs }

/-- The fault of a write: a line whose merge has to be read faults the writer (11 R331, R332); a whole line does not. -/
def writeFault (h : Hub) (w : Work) (a : Nat) (bs : List Byte) : Option Code :=
  if a < lpddrEnd h then
    (lineParts a bs).findSome? (fun p => if p.2.length == 128 then none else lineFault w (lineOf p.1))
  else none

/-- A write into the cache of an agent (11 R338, R339). -/
def cacheWrite (h : Hub) (w : Work) (agent a : Nat) (bs : List Byte) : Work :=
  if a < lpddrEnd h then
    (lineParts a bs).foldl
      (fun w p =>
        if pieceHeld h w p.1 then holdReq w (lineOf p.1) (.own agent p.1 p.2) else ownLine h w agent (lineOf p.1) p.1 p.2) w
  else { w with mem := memWrite w.mem a bs }

/-- The fault of a write into a cache: a line that the cache does not hold is read from its home first. -/
def cacheWriteFault (h : Hub) (w : Work) (agent a : Nat) (bs : List Byte) : Option Code :=
  if a < lpddrEnd h then
    (lineParts a bs).findSome? (fun p =>
      if (holders w.coh (lineOf p.1)).any (fun l => l.agent == agent && !l.bad) then none else lineFault w (lineOf p.1))
  else none

/-- A read into the cache of an agent. -/
def cacheRead (h : Hub) (w : Work) (agent a n : Nat) : Work :=
  if a < lpddrEnd h then (linesOf a n).foldl (fun w ln => shareLine h w agent ln) w else w

end Sys2Proof.Machine
end

