-- ==== Sys2Proof/Machine/Funnel.lean ====
section
/-!
DEFINITION. The log funnel (17): stamping, the queue with its reserved entries, coalescing, drops, rings, alarms and
their send queue; and the sealed descriptor of 14 R431.
-/

namespace Sys2Proof.Machine

/-- Bytes extended with zeros, or cut, to `n`. -/
def padTo (n : Nat) (bs : List Byte) : List Byte := (bs ++ List.replicate (n - bs.length) 0).take n

/-- A sealed descriptor of 64 bytes (14 R431). -/
def sealDesc (kind : Nat) (payload : List Byte) (seq : Seq) : List Byte :=
  let p := padTo 56 payload
  let tail := leBytes 2 kind ++ leBytes 4 seq.toNat
  p ++ leBytes 2 (crc16 (p ++ tail)) ++ tail

/-- UNIT of a record: kind in bits [11:8], number in bits [7:0] (17 R511). -/
def unitOf (kind n : Nat) : BitVec 16 := BitVec.ofNat 16 (kind * 256 + n % 256)

/-- The codes that the spec lists, from 0x0000 on (00 R12, R13): each family of 1 to 9 lists its codes from 1 to the given one. -/
def listedCodes : List Nat :=
  0 :: ([(1, 0x03), (2, 0x13), (3, 0x05), (4, 0x08), (5, 0x0B), (6, 0x0A), (7, 0x06), (8, 0x0A), (9, 0x0A)].flatMap
    (fun f => (List.range f.2).map (fun i => f.1 * 256 + 1 + i)))

/-- A free code: one that the spec lists (00 R13). -/
def freeCode (w : Work) : Code :=
  BitVec.ofNat 16 (listedCodes.getD ((Config.freeWord w.freeIx).toNat % listedCodes.length) 0)

def Work.setLogs (w : Work) (f : Logs → Logs) : Work := { w with logs := f w.logs }

/-- What happens as a packet with CAUSAL `c` arrives: the records of it name the packet as their cause (17 R511). -/
def causedBy (c : BitVec 32) (w : Work) (f : Work → Work) : Work :=
  (f (w.setLogs (fun l => { l with cause := c }))).setLogs (fun l => { l with cause := w.logs.cause })

/-- The record's 64 bytes with the sequence it takes in a ring (17 R511). -/
def recordBytes (r : LogRec) (seq : Seq) : List Byte :=
  sealDesc (0x0A00 + r.cls)
    (leBytes 8 r.domainCount.toNat ++ leBytes 8 r.step.toNat ++ leBytes 4 r.causal.toNat ++ leBytes 4 r.causeIn.toNat ++
      leBytes 4 r.origin.toNat ++ leBytes 2 r.code.toNat ++ leBytes 1 r.cls ++ leBytes 1 r.flags ++
      leBytes 2 r.unit.toNat ++ leBytes 2 r.rep ++ padTo 20 r.detail)
    seq

/-- A firmware processor, domain 48 to 53, has emitted causal sequence number `k` (14 R455). -/
def noteCausal (l : Logs) (domain : Nat) (k : BitVec 32) : Logs :=
  if 48 ≤ domain ∧ domain ≤ 53 then { l with procCausal := l.procCausal.set (domain - 48) k } else l

/-- Stamp a record: K rises by one and the record takes it (17 R513, R514). -/
def stamp (h : Hub) (w : Work) (flags : Nat) (s : LogSource) : Work × LogRec :=
  let k := w.logs.causal + 1
  (w.setLogs (fun l => noteCausal { l with causal := k } s.domain k),
    { domainCount := w.logs.domainCounts.getD s.domain 0
      step := w.upd.accepted
      causal := k
      causeIn := if s.causeIn = 0 then w.logs.cause else s.causeIn
      origin := BitVec.ofNat 32 (ownNumber h + s.domain * 2 ^ 17)
      code := s.code
      cls := s.cls
      flags := flags
      unit := s.unit
      rep := 0
      detail := padTo 20 s.detail })

/-- Count one lost record of a class (17 R521). -/
def addDrop (l : Logs) (cls : Nat) (count : Word) : Logs :=
  { l with
    drops := l.drops.modify cls (fun d => min (d + 1) (2 ^ 64 - 1))
    unsummed := l.unsummed.modify cls (fun u => (u.1 + 1, if u.1 = 0 then count else u.2)) }

def sharedUsed (l : Logs) : Nat := (l.queue.filter (fun q => q.shared)).length
def reservedUsed (l : Logs) (cls : Nat) : Nat := (l.queue.filter (fun q => !q.shared && q.record.cls == cls)).length

/-- Place a stamped record in the queue (17 R519). -/
def place (l : Logs) (r : LogRec) : Logs :=
  if sharedUsed l < 704 then { l with queue := l.queue ++ [⟨r, true⟩] }
  else if 1 ≤ r.cls ∧ r.cls ≤ 10 ∧ reservedUsed l r.cls < 32 then { l with queue := l.queue ++ [⟨r, false⟩] }
  else addDrop l r.cls r.domainCount

/-- A record matches a waiting one (17 R520). -/
def coalesces (r : LogRec) (s : LogSource) (step : Word) : Bool :=
  r.cls == s.cls && r.code == s.code && r.unit == s.unit && r.step == step

/-- Raise REPEAT of the first waiting record that matches. -/
def mergeFirst (s : LogSource) (step : Word) : List QueueEntry → List QueueEntry
  | [] => []
  | q :: qs =>
    if coalesces q.record s step then
      { q with record := { q.record with rep := min (q.record.rep + 1) 65535 } } :: qs
    else q :: mergeFirst s step qs

/-- A record of classes 1 to 11 reaches the funnel (17 R509, R519 to R521). -/
def emit (h : Hub) (w : Work) (s : LogSource) : Work :=
  if 1 ≤ s.cls ∧ s.cls ≤ 10 ∧ w.logs.queue.any (fun q => coalesces q.record s w.upd.accepted) then
    w.setLogs (fun l => { l with queue := mergeFirst s w.upd.accepted l.queue })
  else
    let (w1, r) := stamp h w 0 s
    w1.setLogs (fun l => place l r)

/-- A trace event of R522, if it is enabled. -/
def trace (h : Hub) (w : Work) (event : Nat) (unit : BitVec 16) (ident : Nat) : Work :=
  if bitOf w.logs.traceEnable (event - 1) then
    emit h w ⟨11, 0, 53, unit, 0, [BitVec.ofNat 8 event, 0, 0, 0] ++ leBytes 8 ident⟩
  else w

/-- A free slot of a class's ring under 14 R434. -/
def ringFree (l : Logs) (cls : Nat) : Bool :=
  match l.rings.getD cls none with
  | none => false
  | some r => decide ((r.next - l.heads.getD cls 0).toNat < 2 ^ r.log2)

/-- Write one record into the ring of its class as producer (14 R433). -/
def putRing (h : Hub) (w : Work) (cls : Nat) (r : LogRec) : Work :=
  match w.logs.rings.getD cls none with
  | none => w
  | some g =>
    let w1 := physWrite h w (g.base + g.next.toNat % 2 ^ g.log2 * 64) (recordBytes r g.next)
    w1.setLogs (fun l => { l with rings := l.rings.set cls (some { g with next := g.next + 1 }) })

/-- The drop summary of a class, stamped (17 R511). -/
def summaryRecord (h : Hub) (w : Work) (cls : Nat) : Work × LogRec :=
  let u := w.logs.unsummed.getD cls (0, 0)
  stamp h w 2 ⟨cls, 0, 53, unitOf 0 0, 0, leBytes 8 u.1 ++ leBytes 8 u.2.toNat⟩

/-- A drop summary is due in a class, and a slot is free (17 R521). -/
def summaryDue (l : Logs) (cls : Nat) : Bool := (l.unsummed.getD cls (0, 0)).1 != 0 && ringFree l cls

/-- Write the drop summary of a class, if one is due and a slot is free (17 R521). -/
def putSummary (h : Hub) (w : Work) (cls : Nat) : Work :=
  if summaryDue w.logs cls then
    let (w1, r) := summaryRecord h w cls
    (putRing h w1 cls r).setLogs (fun l => { l with unsummed := l.unsummed.set cls (0, 0) })
  else w

/-- Write an alarm, or an alarm received, to the class-0 ring, or count its loss (17 R516, R518). -/
def putAlarm (h : Hub) (w : Work) (r : LogRec) : Work :=
  let w1 := putSummary h w 0
  if ringFree w1.logs 0 then putRing h w1 0 r else w1.setLogs (fun l => addDrop l 0 r.domainCount)

/-- Send an alarm packet to each destination (17 R516). -/
def sendAlarmTo (h : Hub) (w : Work) (r : LogRec) (dests : List Nat) : Work :=
  let w1 := dests.foldl (fun w d => (sendControl h w d (recordBytes r 0) .alarm).1) w
  w1.setLogs (fun l => { l with alarmWindow := l.alarmWindow + dests.length })

/-- Raise REPEAT of the waiting alarm that matches (17 R517). -/
def mergeAlarm (r : LogRec) : List AlarmEntry → List AlarmEntry
  | [] => []
  | a :: as =>
    if a.record.code == r.code && a.record.unit == r.unit then
      { a with record := { a.record with rep := min (a.record.rep + 1) 65535 } } :: as
    else a :: mergeAlarm r as

/-- Send an alarm now, or let it wait, or count it unsent (17 R517). -/
def queueAlarm (h : Hub) (w : Work) (r : LogRec) (dests : List Nat) : Work :=
  if dests = [] then w
  else if w.logs.alarmQueue = [] ∧ w.logs.alarmWindow + dests.length ≤ 24 then sendAlarmTo h w r dests
  else if w.logs.alarmQueue.any (fun a => a.record.code == r.code && a.record.unit == r.unit) then
    w.setLogs (fun l => { l with alarmQueue := mergeAlarm r l.alarmQueue })
  else if w.logs.alarmQueue.length < 64 then
    w.setLogs (fun l => { l with alarmQueue := l.alarmQueue ++ [⟨r, dests⟩] })
  else w.setLogs (fun l => { l with alarmUnsent := min (l.alarmUnsent + 1) max32 })

/-- Modules that an alarm goes to: every valid ALARM_DEST and those the raising rule names (17 R516). -/
def alarmDests (h : Hub) (w : Work) (named : List Nat) : List Nat :=
  (((w.logs.alarmDest.filter (fun d => d.2)).map (fun d => d.1) ++ named).filter (fun d => !isSelf h d)).eraseDups

/-- A class-0 alarm (17 R516): stamped, queued for FW5, written to its ring and sent. -/
def raiseAlarm (h : Hub) (w : Work) (code : Code) (domain : Nat) (unit : BitVec 16) (detail : List Byte)
    (named : List Nat) : Work :=
  let (w1, r) := stamp h w 0 ⟨0, code, domain, unit, 0, detail⟩
  let w2 := w1.setLogs (fun l => place l r)
  queueAlarm h (putAlarm h w2 r) r (alarmDests h w named)

/-- A record of class 5 about a port; the spec gives it no code (free, log 35). -/
def portLog (h : Hub) (w : Work) (port : Nat) : Work :=
  emit h w.tick ⟨5, freeCode w, port, unitOf 4 port, 0, []⟩

/-- A memory error record (17 R511): address and requester UNIT. -/
def emitMemError (h : Hub) (w : Work) (code : Code) (unit : BitVec 16) (addr : Nat) : Work :=
  emit h w ⟨4, code, 53, unit, 0, leBytes 8 addr ++ leBytes 2 unit.toNat⟩

end Sys2Proof.Machine
end

