-- ==== Sys2Proof/Machine/UseClose.lean ====
section
/-!
DEFINITION. Stores to USE_CLOSE of a tensor entry (08 R218, R226, R227): history, running estimate and correction of SCALE.
-/

namespace Sys2Proof.Machine

/-- A little-endian field of a byte string. -/
def fld (b : List Byte) (off n : Nat) : Nat := leNat ((b.drop off).take n)

/-- The byte string with one field replaced. -/
def setFld (b : List Byte) (off n v : Nat) : List Byte := b.take off ++ leBytes n v ++ b.drop (off + n)

/-! ### The entry (08 R215, R217, R218, R224) -/

/-- Address of tensor entry `t` (08 R215). -/
def entryAddr (ttBase t : Nat) : Nat := ttBase + t * 256

structure ScaleCtrl where
  apply : Bool
  running : Bool
  hMinus1 : Nat
  headroom : Nat
  kStep : Nat
  scaleFmt : Nat
  gradient : Bool
  reserved : Nat
  satLimit : Nat
  deriving DecidableEq, Repr

def scaleCtrlOf (v : Nat) : ScaleCtrl :=
  ⟨bitOf v 0, bitOf v 1, bitsOf v 2 4, bitsOf v 6 3, bitsOf v 9 3, bitsOf v 12 5, bitOf v 17, bitsOf v 18 14, bitsOf v 32 32⟩

/-- SCALE_CTRL refuses a conversion (08 R224). -/
def scaleCtrlBad (c : ScaleCtrl) : Bool := c.reserved != 0 || (c.running && !(1 ≤ c.scaleFmt && c.scaleFmt ≤ 0x0B))

/-! ### The close of a use (08 R226) -/

/-- A value that is not negative rounded to FP32 towards +∞. -/
def fp32Up (v : Val) : Nat :=
  let c := (convertTo .fp32 .rtz false v).code
  if ltVal (fp32Val c) v then c + 1 else c

/-- The largest finite value that the estimate targets (R226). -/
def largestOf (f : Fmt) : Val :=
  match f with
  | .int4 => .fin false 7 1
  | .int2 => oneVal
  | .ternary => oneVal
  | .binary => oneVal
  | f => decodeVal f (maxFinite f)

/-- The FP32 code of 2^j for j from −126 to 127. -/
def powerCode (j : Int) : Nat := (max (-126) (min 127 j) + 127).toNat * 2 ^ 23

/-- The scale that an estimate above 0 derives. -/
def estimateScale (c : ScaleCtrl) (est : Val) : Nat :=
  match scaleVal est c.headroom, largestOf ((fmtOfCode c.scaleFmt).getD .fp32) with
  | .fin false n d, .fin false ln ld => powerCode (floorLog2 (ln * d) (ld * n))
  | _, _ => powerCode (-126)

/-- The tensor entry after AMAX_USE entered the history: the entry and the new SCALE. -/
def closeRunning (b : List Byte) (c : ScaleCtrl) : List Byte × Nat :=
  let head := fld b 0x94 1 % 16
  let b1 := setFld b (0xC0 + 4 * head) 4 (fp32Up (a48Val (fld b 0xA0 6)))
  let head1 := (head + 1) % 16
  let fill := min (fld b 0x95 1 + 1) 16
  let b2 := setFld (setFld b1 0x94 1 head1) 0x95 1 fill
  let slots := (List.range (min fill (c.hMinus1 + 1))).map (fun i => fp32Val (fld b2 (0xC0 + 4 * ((head1 + 15 - i) % 16)) 4))
  let est := slots.foldl maxVal posZero
  (b2, if ltVal posZero est then estimateScale c est else fld b 0x88 4)

/-- The correction of a use that saturated past SAT_LIMIT. -/
def correctScale (old new : Nat) (k : Nat) : Nat :=
  let cand := (convertTo .fp32 .rne false (scaleVal (fp32Val old) (-(k : Int)))).code
  let low := (convertTo .fp32 .rne false (minVal (fp32Val new) (fp32Val cand))).code
  if ltVal (fp32Val low) (fp32Val (powerCode (-126))) then powerCode (-126) else low

/-- A close of an entry: the new bytes, and whether SCALE was corrected. -/
def closeEntry (b : List Byte) : List Byte × Bool :=
  let c := scaleCtrlOf (fld b 0x80 8)
  let old := fld b 0x88 4
  let (b1, new) := if c.running then closeRunning b c else (b, old)
  let sat := fld b 0x98 8
  let corr := c.kStep != 0 && decide (c.satLimit < sat)
  let b2 :=
    if corr then
      let x := setFld b1 0x90 4 (satAdd 32 (fld b1 0x90 4) 1)
      setFld x 0x28 4 (fld x 0x28 4 ||| 32)
    else b1
  let b3 := setFld b2 0x88 4 (if corr then correctScale old new c.kStep else new)
  let b4 := setFld b3 0x8C 4 (satAdd 32 (fld b3 0x8C 4) 1)
  (setFld (setFld b4 0x98 8 0) 0xA0 8 0, corr)

/-- The home of an entry (R217). -/
def entryHome (h : Hub) (w : Work) (a : Nat) : Nat :=
  match moduleAddr h w false a with
  | .ok p => homeOf p
  | .error _ => 0

/-- Bytes at a local address of the module, without the effect of USE_CLOSE; nothing is written where a part fails. -/
def rawStore (h : Hub) (w : Work) (a : Nat) (bs : List Byte) : Except (Code × Nat) Work :=
  match (lineParts a bs).mapM (fun p =>
      match moduleAddr h w true p.1 with
      | .error c => (.error (c, p.1) : Except (Code × Nat) (Nat × List Byte))
      | .ok x => .ok (x, p.2)) with
  | .error x => .error x
  | .ok ps =>
    match ps.findSome? (fun p => (writeFault h w p.1 p.2).map (fun c => (c, p.1))) with
    | some x => .error x
    | none => .ok (ps.foldl (fun w p => physWrite h w p.1 p.2) w)

/-- The home closes the use of an entry of the table, an atomic operation (R217, R226); a SCALE_CTRL that would refuse a
conversion changes nothing and faults the store (R227). -/
def closeAt (h : Hub) (w : Work) (entry : Nat) : Except (Code × Nat) Work :=
  let a := entryAddr w.tables.ttBase entry
  match moduleRead h w a 256 with
  | .error x => .error x
  | .ok b =>
    if scaleCtrlBad (scaleCtrlOf (fld b 0x80 8)) then .error (0x0304, a + 0xB8)
    else
      let (b1, corr) := closeEntry b
      match rawStore h w a (setFld b1 0xB8 8 0) with
      | .error x => .error x
      | .ok w1 =>
        if corr then
          .ok (emit h w1
            ⟨3, 0x0305, 53, unitOf 2 (entryHome h w a), 0,
              leBytes 4 entry ++ leBytes 4 (fld b1 0x8C 4) ++ leBytes 4 (fld b 0x88 4) ++ leBytes 4 (fld b1 0x88 4) ++
                leBytes 4 (min (fld b 0x98 8) max32)⟩)
        else .ok w1

/-! ### Any store that reaches USE_CLOSE (R218, R226) -/

/-- The offset in the tensor table of the byte at physical address `p`, if the table is there. -/
def tablePlace (h : Hub) (w : Work) (p : Nat) : Option Nat :=
  let t := w.tables
  let n := 256 * 2 ^ t.ttLog2
  let inTable (a : Nat) : Option Nat := if t.ttBase ≤ a ∧ a < t.ttBase + n then some (a - t.ttBase) else none
  if t.ttLog2 = 0 ∨ lpddrEnd h ≤ p then none
  else if !t.xlEnable then inTable p
  else
    (List.range (n / 0x200000 + 2)).findSome? (fun k =>
      let page := (t.ttBase / 0x200000 + k) * 0x200000
      match moduleAddr h w false page with
      | .ok x => if x / 0x200000 = p / 0x200000 then inTable (page + p % 0x200000) else none
      | .error _ => none)

/-- The entry whose USE_CLOSE a store of `bs` within one line reaches, and the store without those bytes: they are not
kept, for they read 0 (R218). -/
def closeTarget (h : Hub) (w : Work) (p : Nat) (bs : List Byte) : Option (Nat × List Byte) :=
  match tablePlace h w p with
  | none => none
  | some o =>
    let off := o % 256
    if o / 256 ≠ 0 ∧ off < 0xC0 ∧ 0xB8 < off + bs.length then
      some (o / 256, bs.zipIdx.map (fun x => if 0xB8 ≤ off + x.2 ∧ off + x.2 < 0xC0 then 0 else x.1))
    else none

/-- A store of line parts, with `put` for the bytes of each: one that reaches a USE_CLOSE writes its other bytes and closes
the use. -/
def storeClosing (h : Hub) (put : Work → Nat → List Byte → Work) : List (Nat × List Byte) → Work → Except (Code × Nat) Work
  | [], w => .ok w
  | p :: ps, w =>
    match closeTarget h w p.1 p.2 with
    | none => storeClosing h put ps (put w p.1 p.2)
    | some (t, bs) =>
      match closeAt h (put w p.1 bs) t with
      | .error x => .error x
      | .ok w1 => storeClosing h put ps w1

end Sys2Proof.Machine
end

