-- ==== Sys2Proof/Machine/EngineOps.lean ====
section
/-!
DEFINITION. Engines: writes to local addresses, issued operations, faults and completion records (07 R174, R206), and
the reading of a queue's ring (14 R435 to R439).
-/

namespace Sys2Proof.Machine

/-! ### Writes of an engine to local addresses -/

/-- Agent number of engine `e` (11 R335). -/
def agentOf (e : Nat) : Nat := 8 + e

/-- The parts of a write with their physical addresses; nothing is written where one of them fails. -/
def storeParts (h : Hub) (w : Work) (e a : Nat) (bs : List Byte) : Except (Code × Nat) (List (Nat × List Byte)) :=
  (lineParts a bs).mapM (fun p =>
    match engineAddr h w e true p.1 with
    | .error c => .error (c, p.1)
    | .ok x => .ok (x, p.2))

/-- A write of engine `e` to a local address, through its edge cache, or at the home with NO_ALLOC (07 R194, 11 R338). A
store to USE_CLOSE of a tensor entry closes its use (08 R226), and a bad SCALE_CTRL faults it (08 R227). -/
def engineStore (h : Hub) (w : Work) (e : Nat) (noAlloc : Bool) (a : Nat) (bs : List Byte) : Except (Code × Nat) Work :=
  match storeParts h w e a bs with
  | .error x => .error x
  | .ok ps =>
    let bad := ps.findSome? (fun p =>
      (if noAlloc then writeFault h w p.1 p.2 else cacheWriteFault h w (agentOf e) p.1 p.2).map (fun c => (c, p.1)))
    match bad with
    | some x => .error x
    | none =>
      storeClosing h (fun w a bs => if noAlloc then physWrite h w a bs else cacheWrite h w (agentOf e) a bs) ps w

/-- The same write by the update controller, an update unit or another module: at the home (11 R338, R356). -/
def moduleStore (h : Hub) (w : Work) (a : Nat) (bs : List Byte) : Except (Code × Nat) Work :=
  match (lineParts a bs).mapM (fun p =>
      match moduleAddr h w true p.1 with
      | .error c => (.error (c, p.1) : Except (Code × Nat) (Nat × List Byte))
      | .ok x => .ok (x, p.2)) with
  | .error x => .error x
  | .ok ps =>
    match ps.findSome? (fun p => (writeFault h w p.1 p.2).map (fun c => (c, p.1))) with
    | some x => .error x
    | none => storeClosing h (physWrite h) ps w

/-- A write at a physical address: at its home, or at the SRAM bank (11 R331, R339). -/
def physStore (h : Hub) (w : Work) (a : Nat) (bs : List Byte) : Except (Code × Nat) Work :=
  match writeFault h w a bs with
  | some c => .error (c, a)
  | none => storeClosing h (physWrite h) (lineParts a bs) w

/-- The same where what cannot be written is lost. -/
def physPut (h : Hub) (w : Work) (a : Nat) (bs : List Byte) : Work :=
  match physStore h w a bs with
  | .ok w1 => w1
  | .error _ => w

/-! ### Issued operations -/

inductive UnitId where
  | array | inset | tile | eu | transfer | sync | control
  deriving DecidableEq, Repr

/-- The unit of an operation (07 R184). -/
def unitOfKind : OpKind → UnitId
  | .wload .. => .array
  | .array .. => .array
  | .inset .. => .inset
  | .preload .. => .tile
  | .drain .. => .tile
  | .eu .. => .eu
  | .bulk .. => .transfer
  | .atomic .. => .transfer
  | .signal .. => .sync
  | .wait .. => .sync
  | .reduce .. => .sync
  | .fence => .control

def unitDepth : UnitId → Nat
  | .array => 8
  | .inset => 8
  | .tile => 4
  | .eu => 8
  | .transfer => 16
  | .sync => 4
  | .control => 1

/-- Operations of a unit; the sync unit has one queue per stream (07 R184). -/
def unitOps (en : Engine) (u : UnitId) (q : Nat) : List Op :=
  en.ops.filter (fun o => unitOfKind o.kind == u && (u != .sync || o.stream == q))

def unitFull (en : Engine) (u : UnitId) (q : Nat) : Bool := decide (unitDepth u ≤ (unitOps en u q).length)

def Engine.op (en : Engine) (id : Nat) : Option Op := en.ops.find? (fun o => o.id == id)

def Engine.setOp (en : Engine) (id : Nat) (f : Op → Op) : Engine :=
  { en with ops := en.ops.map (fun o => if o.id == id then f o else o) }

def Engine.delOp (en : Engine) (id : Nat) : Engine := { en with ops := en.ops.filter (fun o => o.id != id) }

/-- Every earlier instruction of the operation's stream is complete (07 R186). -/
def priorDone (en : Engine) (o : Op) : Bool := !en.ops.any (fun x => x.stream == o.stream && decide (x.id < o.id))

/-- The operation may begin: with release, only after every earlier one of its stream (07 R186). -/
def mayStart (en : Engine) (o : Op) : Bool := !o.release || priorDone en o

/-- The operation may begin in its unit: every earlier one of its queue may (07 R184, R186). -/
def queueMayStart (en : Engine) (o : Op) : Bool :=
  (unitOps en (unitOfKind o.kind) o.stream).all (fun x => decide (o.id < x.id) || mayStart en x)

/-- A stream that waits for a token: STATE 2 of 07 R212. -/
def waitsForToken (en : Engine) (q : Nat) : Bool :=
  let st := en.stream q
  match st.acquire with
  | some id => en.ops.any (fun o => o.id == id && (match o.kind with
      | .wait _ => true
      | _ => false))
  | none => false

/-! ### Parking and readiness -/

/-- Engine `e` is parked for any cause (15 R474, R475, R482 to R485). -/
def parked (h : Hub) (w : Work) (e : Nat) : Bool :=
  (w.engine e).selfParked || h.safety.ocParked || h.safety.thermalPark || h.safety.stopping || h.ident.powerState == 1

/-- The engine's computing blocks work: it exists, has power, and is neither resetting nor parked. -/
def working (h : Hub) (w : Work) (e : Nat) : Bool :=
  present h e && h.ident.powered && h.ident.powerState != 2 && h.ident.complexReady && !(w.engine e).resetting &&
    !parked h w e

/-! ### Completion records and faults -/

/-- COMPL_ADDR is 0, or 16-byte aligned in LPDDR5X or an engine's window (07 R174). -/
def complOk (h : Hub) (a : Nat) : Bool := a == 0 || (a % 16 == 0 && inOneRegion h a 16)

/-- The 16-byte completion record (07 R174). -/
def completionBytes (e q : Nat) (isn : Word) (code : Code) : List Byte :=
  leBytes 8 isn.toNat ++ leBytes 2 code.toNat ++ [BitVec.ofNat 8 e, BitVec.ofNat 8 q, 0, 0, 0, 1]

/-- Class and detail of the log record of a stream fault: 0x0402 to 0x0405 are memory errors, 0x01xx ring records
(17 R508, R511; DEDUCED from the worked examples of chapter 17, log 13). -/
def faultLog (h : Hub) (w : Work) (e : Nat) (code : Code) (isn : Word) (addr : Nat) : Work :=
  if 0x0402 ≤ code.toNat ∧ code.toNat ≤ 0x0405 then emitMemError h w code (unitOf 1 e) addr
  else
    emit h w
      ⟨if code.toNat / 256 = 1 then 1 else 2, code, 53, unitOf 1 e, 0, leBytes 8 isn.toNat ++ leBytes 8 addr⟩

/-- Count a memory error that the engine consumed (11 R361). -/
def countMemError (x : XlateState) (code : Code) : XlateState :=
  match code.toNat with
  | 0x0402 => { x with parity := min (x.parity + 1) 65535 }
  | 0x0404 => { x with parity := min (x.parity + 1) 65535 }
  | 0x0403 => { x with read := min (x.read + 1) 65535 }
  | 0x0405 => { x with read := min (x.read + 1) 65535 }
  | 0x0406 => { x with xlate := min (x.xlate + 1) 65535 }
  | 0x0407 => { x with xlate := min (x.xlate + 1) 65535 }
  | _ => x

/-- What a fault says of itself beside its code (07 R212). -/
structure FaultAt where
  opcode : Nat
  isn : Word
  pc : Word
  addr : Nat
  detail : Option (Nat × Nat × Nat)
  tensorId : Nat
  deriving DecidableEq, Repr

/-- A descriptor fault: OPCODE 0 and ISN 0 (07 R206). -/
def descFaultAt (addr : Nat) : FaultAt := ⟨0, 0, 0, addr, none, 0⟩

/-- Record a fault of a stream (07 R206 steps 1 to 3). -/
def recordFault (h : Hub) (w : Work) (e q : Nat) (code : Code) (f : FaultAt) : Work :=
  let st := w.stream e q
  let fresh := st.faulting.isNone && !st.fault
  let det := f.detail.getD (0, 0, 0)
  let r : FaultRec :=
    ⟨code, f.opcode, 0, f.isn, f.pc, BitVec.ofNat 64 f.addr, det.1, det.2.1, det.2.2, f.detail.isSome, f.tensorId⟩
  let w1 := w.setEngine e (fun en =>
    { en.setStream q (fun s =>
        if fresh then { s with faulting := some code, record := r }
        else { s with record := { s.record with later := min (s.record.later + 1) 255 } }) with
      xl := countMemError en.xl code })
  let w2 := match engineAddr h w e false f.addr with
    | .ok p => if p < lpddrEnd h then badLeaves h w1 (agentOf e) code p else w1
    | .error _ => w1
  faultLog h w2 e code f.isn f.addr

/-! ### Rings (14 R435 to R439) -/

/-- What a consumer finds in a slot (14 R435, R436). -/
inductive SlotRead where
  | unsealed
  | badCrc (kind : Nat) (payload : List Byte)
  | sealed (d : Desc)
  | failed (code : Code) (addr : Nat)
  deriving DecidableEq, Repr

/-- Judge the 64 bytes of the slot of sequence `n`. -/
def judgeSlot (n : Seq) (b : List Byte) : SlotRead :=
  let kind := leNat ((b.drop 0x3A).take 2)
  if leNat ((b.drop 0x3C).take 4) ≠ n.toNat then .unsealed
  else if leNat ((b.drop 0x38).take 2) = crc16 (b.take 0x38 ++ b.drop 0x3A) then .sealed ⟨kind, b.take 0x38, n⟩
  else .badCrc kind (b.take 0x38)

def slotAddr (base log2 : Nat) (n : Seq) : Nat := base + n.toNat % 2 ^ log2 * 64

/-- The producer claims to have sealed the slot (14 R437). -/
def hintClaims (hint : Option Seq) (n : Seq) (log2 : Nat) : Bool :=
  match hint with
  | none => false
  | some x => decide ((x - n).toNat < 2 ^ log2)

/-- A descriptor may be taken while the engine is stopped (07 R177). -/
def takenWhileStopped (kind : Nat) : Bool := kind == 0x0E02 || kind == 0x0E04 || kind == 0x0E05

/-- The fault of a seal check or of a ring read: OPCODE 0, no descriptor held, so FAULT is set at once (14 R436). -/
def ringFault (h : Hub) (w : Work) (e q : Nat) (code : Code) (addr : Nat) : Work :=
  (recordFault h w e q code (descFaultAt addr)).setStream e q (fun s =>
    { s with faulting := none, fault := true, rereads := 0 })

/-- A stream without a descriptor reads the slot of NEXT_SEQ (14 R435 to R438). -/
def readQueue (h : Hub) (w : Work) (e q : Nat) : Work :=
  let st := w.stream e q
  if !st.enable || st.desc.isSome || st.fault || st.unsealed then w
  else
    let a := slotAddr st.base st.log2 st.nextSeq
    let w0 := keepPage h w e a
    match (match engineRead h w0 e a 64 with
           | .error (c, x) => SlotRead.failed c x
           | .ok b => judgeSlot st.nextSeq b) with
    | .failed c x => ringFault h w0 e q c x
    | .badCrc _ _ => ringFault h w0 e q 0x0102 a
    | .unsealed =>
      if st.rereads = 0 then
        w0.setStream e q (fun s => { s with rereads := if hintClaims s.hint s.nextSeq s.log2 then 1 else 0 })
      else if st.rereads + 1 < 64 then w0.setStream e q (fun s => { s with rereads := s.rereads + 1 })
      else
        emit h (w0.setStream e q (fun s => { s with rereads := 0, unsealed := true }))
          ⟨1, 0x0101, 53, unitOf 1 e, 0, leBytes 4 st.nextSeq.toNat ++ leBytes 8 st.base⟩
    | .sealed d =>
      if (w0.engine e).stopped && !takenWhileStopped d.kind then
        w0.setStream e q (fun s => { s with rereads := 0, ringWaits := true })
      else
        w0.setStream e q (fun s =>
          { s with rereads := 0, ringWaits := false, desc := some d, nextSeq := s.nextSeq + 1 })

/-! ### The end of a descriptor -/

/-- The held descriptor is over: its completion record is written (07 R174); with a code FAULT becomes 1, else the
stream reads its next slot (07 R206 step 4, 14 R435). -/
def finishDescriptor (h : Hub) (w : Work) (e q : Nat) (isn : Word) (code : Code) : Work :=
  let st := w.stream e q
  let a := st.complAddr.toNat
  let (w1, c1) :=
    if a = 0 then (w, code)
    else
      match engineStore h w e false a (completionBytes e q isn code) with
      | .ok w1 => (w1, code)
      | .error (c, x) => (recordFault h w e q c (descFaultAt x), if code = 0 then c else code)
  let w2 := w1.setStream e q (fun s =>
    { s with desc := none, running := false, endIssued := false, acquire := none, tileWait := [], faulting := none,
             fault := c1 != 0 })
  if c1 = 0 then readQueue h w2 e q else w2

/-- A held descriptor is refused (07 R173 to R175, R206): no state changes but the records. -/
def refuseDescriptor (h : Hub) (w : Work) (e q : Nat) (code : Code) (addr : Nat) : Work :=
  finishDescriptor h (recordFault h w e q code (descFaultAt addr)) e q 0 code

/-- When every issued operation of a faulted stream is complete, its record is written (07 R206 step 4). -/
def settleStream (h : Hub) (w : Work) (e q : Nat) : Work :=
  let en := w.engine e
  let st := en.stream q
  match st.faulting with
  | none => w
  | some c =>
    if en.ops.any (fun o => o.stream == q) then w
    else trace h (finishDescriptor h w e q st.isn c) 1 (unitOf 1 e) st.progAddr.toNat

/-- Take an operation out of its queue; an acquire on it is met. -/
def dropOp (en : Engine) (o : Op) : Engine :=
  (en.delOp o.id).setStream o.stream (fun s => { s with acquire := if s.acquire = some o.id then none else s.acquire })

/-- A FENCE of stream `q` is complete once every earlier instruction of the stream is (07 R187). -/
def clearFence (en : Engine) (q : Nat) : Engine :=
  match en.ops.find? (fun o => o.stream == q) with
  | none => en
  | some o => if o.kind == .fence then dropOp en o else en

/-- The first WAIT on its counter, in issue order, that may begin and is met (07 R200). -/
def metWait (en : Engine) : Option (Op × WaitP) :=
  en.ops.findSome? (fun o =>
    match o.kind with
    | .wait p =>
      if queueMayStart en o && decide (p.threshold ≤ (en.tokens.getD p.counter 0).toNat) &&
          !en.ops.any (fun x => decide (x.id < o.id) && (match x.kind with
            | .wait y => y.counter == p.counter
            | _ => false))
      then some (o, p) else none
    | _ => none)

/-- A WAIT is met: with CONSUME its threshold is subtracted in the same action (07 R200). -/
def meetWait (en : Engine) (o : Op) (p : WaitP) : Engine :=
  clearFence
    (dropOp
      { en with
        tokens :=
          if p.consume then en.tokens.modify p.counter (fun t => t - BitVec.ofNat 32 p.threshold) else en.tokens } o)
    o.stream

def serveFuel (h : Hub) (e : Nat) : Nat → Work → Work
  | 0, w => w
  | n + 1, w =>
    match metWait (w.engine e) with
    | none => w
    | some (o, p) => serveFuel h e n (settleStream h (w.setEngine e (fun en => meetWait en o p)) e o.stream)

/-- Serve the WAITs of an engine: each stream has at most one (07 R200). -/
def serveTokens (h : Hub) (w : Work) (e : Nat) : Work := if working h w e then serveFuel h e 4 w else w

/-- An operation is complete: it leaves its queue, an acquire on it is met, a FENCE behind it may be met, a faulted
stream may settle, and a WAIT with release may begin. -/
def completeOp (h : Hub) (w : Work) (e : Nat) (o : Op) : Work :=
  serveTokens h (settleStream h (w.setEngine e (fun en => clearFence (dropOp en o) o.stream)) e o.stream) e

def opFaultAt (o : Op) (addr : Nat) (detail : Option (Nat × Nat × Nat)) (tid : Nat) : FaultAt :=
  ⟨o.opcode, o.isn, o.pc, addr, detail, tid⟩

/-- An operation ends with a fault (07 R206). -/
def faultOp (h : Hub) (w : Work) (e : Nat) (o : Op) (code : Code) (addr : Nat) (detail : Option (Nat × Nat × Nat))
    (tid : Nat) : Work :=
  completeOp h (recordFault h w e o.stream code (opFaultAt o addr detail tid)) e o

end Sys2Proof.Machine
end

