-- ==== Sys2Proof/Machine/Convert.lean ====
section
/-!
DEFINITION. Conversions of engine instructions (02 R54 to R67, 08): tensor entries at issue, the channel map, reserved
draws, converted rows with their counts, legend merges, and the numeric trap.
-/

namespace Sys2Proof.Machine

/-! ### Legend merges (08 R219 to R222) -/

/-- A tensor entry with the counts merged (08 R221). `c` is what one conversion saw; a reader that converted nothing counts
only its ternary codes 0b10 (02 R48). -/
def mergeEntry (b : List Byte) (c : Counts) : List Byte :=
  let add8 (b : List Byte) (off v : Nat) := setFld b off 8 (satAdd 64 (fld b off 8) v)
  let b := add8 b 0x00 c.elements
  let b := add8 b 0x08 c.zeros
  let b := add8 b 0x10 c.sats
  let b := add8 b 0x18 c.nonfinite
  if c.elements = 0 then b
  else
  let b := setFld b 0x20 6 (max (fld b 0x20 6) c.amax)
  let flags := fld b 0x28 4
  let valid := bitOf flags 0
  let mixed := valid && fld b 0x2C 1 != c.dst
  let mine := 1 + (if mixed then 2 else 0) + (if c.departure then 4 else 0) + (if c.srUsed then 8 else 0) +
    (if c.nanSeen then 16 else 0)
  let b := setFld b 0x28 4 (flags ||| mine)
  let b := setFld b 0x2C 1 (if valid then min (fld b 0x2C 1) c.dst else c.dst)
  let b := (List.range 16).foldl
    (fun b i => setFld b (0x40 + 4 * i) 4 (satAdd 32 (fld b (0x40 + 4 * i) 4) (c.bins.getD i 0))) b
  let b := add8 b 0x98 c.sats
  setFld b 0xA0 6 (max (fld b 0xA0 6) c.amaxUse)

/-- Merge counts into the legend of ENTRY, an atomic operation of its home (08 R217, R221); nothing for entry 0 or an
operation that converted nothing (18 R527). -/
def mergeLegend (h : Hub) (w : Work) (ttBase tid : Nat) (c : Counts) : Except (Code × Nat) Work :=
  let t := bitsOf tid 0 20
  if t = 0 ∨ (c.elements = 0 ∧ c.nonfinite = 0) then .ok w
  else
    let a := entryAddr ttBase t
    match moduleRead h w a 256 with
    | .error x => .error x
    | .ok b =>
      match moduleAddr h w false a with
      | .error c => .error (c, a)
      | .ok p => rawStore h w a (mergeEntry (afterHeld w p b) c)

/-! ### Checks of a conversion at issue (08 R216, R224, R228, R229) -/

/-- Check 4 of 07 R557: the TENSOR_ID against the table. -/
def tensorIdBad (log2 tid : Nat) : Bool := bitsOf tid 0 20 != 0 && decide (2 ^ log2 ≤ bitsOf tid 0 20)

/-- Marks of one 512-channel block: the bits of its bytes for channels below `channels`; no byte past the map is read
(08 R229). -/
def blockMarks (h : Hub) (w : Work) (e pcm channels blk : Nat) : Except (Code × Nat) (List Bool) :=
  let live := min 512 (channels - 512 * blk)
  match engineRead h w e (pcm + 64 * blk) ((live + 7) / 8) with
  | .error x => .error x
  | .ok b =>
    let n := leNat b
    .ok ((List.range 512).map (fun i => decide (i < live) && bitOf n i))

/-- The blocks from `first` on, `n` of them, each with at most 32 marks. -/
def readMarks (h : Hub) (w : Work) (e pcm channels : Nat) : Nat → Nat → Except (Code × Nat) (List Bool)
  | _, 0 => .ok []
  | blk, n + 1 =>
    match blockMarks h w e pcm channels blk with
    | .error x => .error x
    | .ok m =>
      if 32 < m.countP id then .error (0x0303, 0)
      else
        match readMarks h w e pcm channels (blk + 1) n with
        | .error x => .error x
        | .ok r => .ok (m ++ r)

/-- What a conversion reads at its issue: checks 4 to 6 of 07 R557, in that order. `map` is the number of columns under the
channel map, or none where no map applies; an operation without a column reads no block, and its PCM_ADDR is still
checked (18 R528). -/
def convIssue (h : Hub) (w : Work) (e tid : Nat) (map : Option Nat) : Except (Code × Nat) ConvIssue :=
  let en := w.engine e
  let t := bitsOf tid 0 20
  if tensorIdBad en.ttLog2 tid then .error (0x0302, 0)
  else if t = 0 then .ok ⟨tid, none, none, en.gen, false⟩
  else
    match engineRead h w e (entryAddr en.ttBase t) 256 with
    | .error x => .error x
    | .ok b =>
      let c := scaleCtrlOf (fld b 0x80 8)
      if scaleCtrlBad c then .error (0x0304, 0)
      else
        let scale := if c.apply then some (fld b 0x88 4) else none
        let pcm := fld b 0xA8 8
        let channels := fld b 0xB0 4
        match map with
        | none => .ok ⟨tid, scale, none, en.gen, false⟩
        | some cols =>
          if !c.gradient || pcm = 0 then .ok ⟨tid, scale, none, en.gen, false⟩
          else if pcm % 64 ≠ 0 ∨ 2097152 < channels ∨ inLpddr h pcm ((channels + 7) / 8) = false then .error (0x0303, 0)
          else
            match readMarks h w e pcm channels (bitsOf tid 20 12) ((cols + 511) / 512) with
            | .error x => .error x
            | .ok m => .ok ⟨tid, scale, some (m.take cols), en.gen, false⟩

/-! ### Draws (02 R64 to R67) -/

def laneCounter (g : GenState) (lane : Nat) : Word := alGet g.base g.counters lane

/-- Whether element `i` of an operation of `cols` columns is rounded by SR (02 R67, 08 R230). -/
def elemDraws (cc : ConvCtrl) (marks : Option (List Bool)) (cols i : Nat) : Bool :=
  cc.dst != .binary && (cc.round == .sr || (match marks with
    | none => false
    | some m => m.getD (i % cols) false))

/-- Draws that elements 0 to n − 1 take from a lane. -/
def lanePrior (cc : ConvCtrl) (marks : Option (List Bool)) (cols lane n : Nat) : Nat :=
  (List.range ((n + 2047 - lane) / 2048)).countP (fun k => elemDraws cc marks cols (k * 2048 + lane))

/-- The generator after an operation has reserved its draws for `n` elements (02 R67). -/
def reserveDraws (g : GenState) (cc : ConvCtrl) (marks : Option (List Bool)) (cols n : Nat) : GenState :=
  { g with
    counters :=
      ((List.range 2048).map (fun l => (l, laneCounter g l + BitVec.ofNat 64 (lanePrior cc marks cols l n)))).filter
        (fun p => p.2 != g.base) }

/-- Whether a conversion of `cols` columns draws at all. -/
def anyDraw (cc : ConvCtrl) (marks : Option (List Bool)) : Bool :=
  cc.dst != .binary && (cc.round == .sr || (match marks with
    | none => false
    | some m => m.any id))

/-- The top bits drawn by element `i` (02 R63, R65). -/
def drawFor (cc : ConvCtrl) (ci : ConvIssue) (cols i : Nat) : Nat :=
  let lane := i % 2048
  drawBits ci.gen.seed (streamNumber 0 ci.gen.unit.toNat lane)
    (laneCounter ci.gen lane + BitVec.ofNat 64 (lanePrior cc ci.marks cols lane i)) cc.randBits

/-- The rounding mode of element `i`. -/
def elemMode (cc : ConvCtrl) (ci : ConvIssue) (cols i : Nat) : RMode :=
  if elemDraws cc ci.marks cols i then .sr cc.randBits (drawFor cc ci cols i)
  else match cc.round with
    | .rtz => .rtz
    | _ => .rne

/-! ### Converted rows -/

/-- An element on its way out: its exact value with every scale, the value before the output scale, and whether it came
from a ternary 0b10. -/
structure ElemIn where
  value : Val
  before : Val
  bad : Bool
  deriving DecidableEq, Repr

/-- The element is rounded, by SR when it draws: a NaN or an infinity is written by 02 R57 without rounding. -/
def roundedVal (v : Val) : Bool := !isNan v && !isInf v

/-- A group of 02 R62 whose elements are rounded: one without a NaN or an infinity, and not all zero. -/
def groupRounds (scale : Nat) (g : List ElemIn) : Bool := scale != 0xFF && g.any (fun x => !isZero x.value)

/-- Elements of one group (the whole row without BLOCK_OUT) from linear index `i` on. An element counts as rounded by SR
(08 R222) when it draws and is rounded; `rounds` is false for a group that 02 R62 writes without rounding. -/
def convertGroup (cc : ConvCtrl) (ci : ConvIssue) (cols : Nat) (scale : Option Nat) (rounds : Bool) :
    Nat → List ElemIn → Counts → List Nat × Counts
  | _, [], c => ([], c)
  | i, x :: xs, c =>
    let m := elemMode cc ci cols i
    let r := match scale with
      | none => convertTo cc.dst m cc.e5Ovf x.value
      | some s => blockElem cc.dst s m cc.e5Ovf x.value
    let rounded := match scale with
      | none => x.value
      | some s => if s = 0xFF then .nan else scaleVal x.value (127 - (s : Int))
    let c1 := countElem c cc.dst x.value x.before rounded x.bad (rounds && roundedVal x.value && elemDraws cc ci.marks cols i) r
    let (rest, c2) := convertGroup cc ci cols scale rounds (i + 1) xs c1
    (r.code :: rest, c2)

/-- The groups of 32 of a block-scaled row (02 R62). -/
def convertBlocks (cc : ConvCtrl) (ci : ConvIssue) (cols : Nat) :
    Nat → List (List ElemIn) → Counts → List Nat × List Nat × Counts
  | _, [], c => ([], [], c)
  | i, g :: gs, c =>
    let s := blockScaleOf cc.dst (g.map (fun x => x.value))
    let (codes, c1) := convertGroup cc ci cols (some s) (groupRounds s g) i g c
    let (rest, scales, c2) := convertBlocks cc ci cols (i + g.length) gs c1
    (codes ++ rest, s :: scales, c2)

/-- A converted row from linear index `i` on: element codes, block scale codes, counts (02 R54, R57, R62, R67). -/
def convertRow (cc : ConvCtrl) (ci : ConvIssue) (cols i : Nat) (xs : List ElemIn) (c : Counts) :
    List Nat × List Nat × Counts :=
  if cc.blockOut then convertBlocks cc ci cols i (chunks 32 xs) c
  else
    let (codes, c1) := convertGroup cc ci cols none true i xs c
    (codes, [], c1)

/-- The packed bytes of a row (02 R42); bits past its last element are 0 (DESIGN CHOICE, log 74). -/
def rowBytesOf (f : Fmt) (codes : List Nat) : List Byte := leBytes (packedBytes f codes.length) (packElems f codes)

/-- The element codes of packed bytes. -/
def codesOf (f : Fmt) (bs : List Byte) (n : Nat) : List Nat :=
  let v := leNat bs
  (List.range n).map (fun i => elemOf f v i)

/-- The output scale of a conversion as a value (02 R60, 08 R224). -/
def outScale (ci : ConvIssue) : Val :=
  match ci.scale with
  | none => oneVal
  | some c => fp32Val c

/-- An element with the output scale of its conversion (02 R60, 03 R86). -/
def elemIn (ci : ConvIssue) (v : Val) (bad : Bool) : ElemIn :=
  ⟨if ci.scale.isNone then v else mulVal v (outScale ci), v, bad⟩

/-! ### The numeric trap (08 R232 to R235) -/

/-- One NaN that an operation meets: the step order within the operation, its coordinate and its group. -/
structure NanEvent where
  step : Nat
  row : Nat
  col : Nat
  group : Option Nat
  deriving DecidableEq, Repr

def nanBefore (a b : NanEvent) : Bool :=
  decide (a.step < b.step) || (a.step == b.step && (decide (a.row < b.row) || (a.row == b.row &&
    (decide (a.col < b.col) || (a.col == b.col && decide (a.group.getD 0 < b.group.getD 0))))))

def firstNan : List NanEvent → Option NanEvent
  | [] => none
  | x :: xs =>
    match firstNan xs with
    | none => some x
    | some y => if nanBefore y x then some y else some x

/-- Events that reach the trap: in halt mode those of the step that halts the operation, else all (08 R233, R234). -/
def eventsCounted (o : Op) (ev : List NanEvent) : Nat :=
  if o.trapRecord then ev.length
  else
    match firstNan ev with
    | none => 0
    | some f => ev.countP (fun x => x.step == f.step)

/-- The trap meets the NaNs of one operation (08 R233): the first writes the record while FIRED is 0. -/
def trapNans (w : Work) (e : Nat) (o : Op) (source tid : Nat) (ev : List NanEvent) : Work :=
  if !o.trapEnable then w
  else
    match firstNan ev with
    | none => w
    | some f =>
      w.setEngine e (fun en =>
        let t := en.trap
        let t1 := { t with count := BitVec.ofNat 32 (min (t.count.toNat + eventsCounted o ev) max32) }
        { en with
          trap :=
            if t.fired then t1
            else
              { t1 with
                fired := true, stream := o.stream, source := source, opcode := o.opcode, tensorId := tid,
                where_ := true, isn := o.isn, pc := o.pc, row := BitVec.ofNat 32 f.row, col := BitVec.ofNat 32 f.col,
                group := f.group.getD 0, groupValid := f.group.isSome } })

/-- The NaNs halt the operation (08 R234). -/
def trapHalts (o : Op) (ev : List NanEvent) : Bool := o.trapEnable && !o.trapRecord && !ev.isEmpty

end Sys2Proof.Machine
end

