-- ==== Sys2Proof/Machine/ArrayOps.lean ====
section
/-!
DEFINITION. Tiles (05), weight sets (04 R101 to R108), group sums of tokens (03, 04, 06), toggling cells (04 R115), and
the tile updates of array and inset operations.
-/

namespace Sys2Proof.Machine

/-! ### Tiles (05 R124 to R128) -/

def Engine.tile (en : Engine) (t : Nat) : Tile := en.tiles.getD t resetTile

def Engine.setTile (en : Engine) (t : Nat) (f : Tile → Tile) : Engine := { en with tiles := en.tiles.modify t f }

/-- The A48 code of element (m, j). -/
def tileGet (t : Tile) (m j : Nat) : Nat := (alGet 0#48 t.elems (512 * m + j)).toNat

/-- Elements equal to +0 are not listed. -/
def tileSet (t : Tile) (m j code : Nat) : Tile :=
  { t with
    elems :=
      if code = 0 then alDel t.elems (512 * m + j) else alSet t.elems (512 * m + j) (BitVec.ofNat 48 code) }

/-- A row of codes from column `j` on. -/
def tileSetRow (t : Tile) (m : Nat) : Nat → List Nat → Tile
  | _, [] => t
  | j, c :: cs => tileSetRow (tileSet t m j c) m (j + 1) cs

def tileRow (t : Tile) (m cols : Nat) : List Nat := (List.range cols).map (fun j => tileGet t m j)

/-- Give up the tile when its last holder is done (05 R127). -/
def releaseTile (t : Tile) : Tile :=
  if t.count ≤ 1 then { t with holder := .none, stream := 0, count := 0 } else { t with count := t.count - 1 }

/-- Take or join the tile at issue (05 R127, R128). -/
def holdTile (t : Tile) (hd : Holder) (q : Nat) : Tile := { t with holder := hd, stream := q, count := t.count + 1 }

/-- The accumulator rule refuses an instruction of stream `q` (05 R128). -/
def tileConflict (t : Tile) (isArray : Bool) (q : Nat) : Bool :=
  match t.holder with
  | .none => false
  | .array => !(isArray && t.stream == q)
  | _ => true

/-- Elements (row, column) that hold a value that must not be used after a fault: free values (04 R122, 06 R154). -/
def spoilTile (ix : Nat) (t : Tile) : List (Nat × Nat) → Tile
  | [] => t
  | (m, j) :: r => spoilTile (ix + 1) (tileSet t m j (Config.freeTileElem ix).toNat) r

/-- The rectangle of elements that an operation writes. -/
def rect (row0 rows cols : Nat) : List (Nat × Nat) :=
  (List.range rows).flatMap (fun r => (List.range cols).map (fun j => (row0 + r, j)))

def spoil (w : Work) (e tile row0 rows cols : Nat) : Work :=
  { w.setEngine e (fun en => en.setTile tile (fun t => { spoilTile w.freeIx t (rect row0 rows cols) with faulted := true }))
    with freeIx := w.freeIx + rows * cols }

/-! ### Weight sets -/

/-- Row descriptors of a load (04 R106): the table, or ROW_EN = 1 with SHIFT = 0. -/
def readDescs (h : Hub) (w : Work) (e rd n : Nat) : Except (Code × Nat) (List Nat) :=
  if rd = 0 then .ok (List.replicate n 1)
  else
    match engineRead h w e rd (2 * n) with
    | .error x => .error x
    | .ok b => .ok ((chunks 2 b).map leNat)

/-- A descriptor has a reserved bit set. -/
def descBad (d : Nat) : Bool := d / 128 != 0

def descEnabled (d : Nat) : Bool := d % 2 == 1
def descShift (d : Nat) : Nat := bitsOf d 1 6

/-- `n` rows of `cols` packed elements, `stride` bytes apart. -/
def readRows (h : Hub) (w : Work) (e : Nat) (f : Fmt) (a stride cols : Nat) : Nat → Except (Code × Nat) (List (List Nat))
  | 0 => .ok []
  | n + 1 =>
    match engineRead h w e a (packedBytes f cols) with
    | .error x => .error x
    | .ok b =>
      match readRows h w e f (a + stride) stride cols n with
      | .error x => .error x
      | .ok r => .ok (codesOf f b cols :: r)

/-- `n` rows of bytes. -/
def readByteRows (h : Hub) (w : Work) (e a stride len : Nat) : Nat → Except (Code × Nat) (List (List Nat))
  | 0 => .ok []
  | n + 1 =>
    match engineRead h w e a len with
    | .error x => .error x
    | .ok b =>
      match readByteRows h w e (a + stride) stride len n with
      | .error x => .error x
      | .ok r => .ok (b.map (fun x => x.toNat) :: r)

/-- A weight set of which no row is loaded yet. -/
def emptySet (p : WloadP) : WeightSet :=
  ⟨p.fmt, p.passes, p.wAddr, p.wStride, p.kRows, p.nCols, p.wsAddr, p.rdAddr, [], [], []⟩

/-- Load rows until `n` of the set are in the plane, each with its descriptor, and the block scales of a group with the
group's first row (04 R101, R102, R105). -/
def loadRows (h : Hub) (w : Work) (e : Nat) (s : WeightSet) (n : Nat) : Except (Code × Nat) WeightSet :=
  let k := s.rows.length
  let m := min n s.kRows
  let g := s.scales.length
  let gn := (m + 31) / 32
  match readRows h w e s.fmt (s.wAddr + k * s.wStride) s.wStride s.nCols (m - k) with
  | .error x => .error x
  | .ok rows =>
    match (if s.wsAddr = 0 then .ok [] else readByteRows h w e (s.wsAddr + g * 512) 512 s.nCols (gn - g)) with
    | .error x => .error x
    | .ok scales =>
      match readDescs h w e (if s.rdAddr = 0 then 0 else s.rdAddr + 2 * k) (m - k) with
      | .error x => .error x
      | .ok ds => .ok { s with rows := s.rows ++ rows, scales := s.scales ++ scales, descs := s.descs ++ ds }

/-! ### Group sums -/

/-- The terms of one group for one output element: none for a disabled row (03 R73, 04 R107). -/
def groupTerms (af wf : Fmt) (acts wts descs : List Nat) : List (Option Term) :=
  List.zipWith
    (fun (aw : Nat × Nat) d =>
      if descEnabled d then
        some ⟨scaleVal (mulVal (operandVal af aw.1) (operandVal wf aw.2)) (-(descShift d : Int)), descShift d⟩
      else none)
    (List.zip acts wts) descs

/-- One group's A48 sum for one element; none when no row of it is enabled. -/
def groupOf (af wf : Fmt) (g : Nat) (acts wts descs : List Nat) (xa xb : Option Nat) : Option Nat :=
  let cut (l : List Nat) := (l.drop (32 * g)).take 32
  groupTerm (pairWindow af wf) (groupTerms af wf (cut acts) (cut wts) (cut descs)) xa xb

/-- The group sums of one element with their group numbers, ascending. -/
def elementGroups (af wf : Fmt) (acts wts descs : List Nat) (xa xb : Nat → Option Nat) : List (Nat × Nat) :=
  (List.range ((acts.length + 31) / 32)).filterMap (fun g =>
    (groupOf af wf g acts wts descs (xa g) (xb g)).map (fun s => (g, s)))

def scaleCode (l : List Nat) (i : Nat) : Option Nat := if l.isEmpty then none else some (l.getD i 0)

/-- Column `j` of a set. -/
def column (rows : List (List Nat)) (j : Nat) : List Nat := rows.map (fun r => r.getD j 0)

/-- The group sums of element (token, column j) (03 R75 to R79). -/
def tokenGroups (af : Fmt) (s : WeightSet) (tok : List Nat × List Nat) (j : Nat) : List (Nat × Nat) :=
  elementGroups af s.fmt tok.1 (column s.rows j) s.descs (fun g => scaleCode tok.2 g)
    (fun g => scaleCode (s.scales.getD g []) j)

/-- Add a token's results into tile row `m` (03 R80, 04 R100). -/
def addToken (af : Fmt) (s : WeightSet) (tok : List Nat × List Nat) (m : Nat) (t : Tile) : Tile :=
  (List.range s.nCols).foldl
    (fun t j => tileSet t m j (accumulate (tileGet t m j) ((tokenGroups af s tok j).map (fun x => x.2)))) t

/-- NaN groups of a token (08 R232): `step` gives the step of column j. -/
def tokenNans (af : Fmt) (s : WeightSet) (tok : List Nat × List Nat) (m : Nat) (step : Nat → Nat) : List NanEvent :=
  (List.range s.nCols).flatMap (fun j =>
    ((tokenGroups af s tok j).filter (fun x => isNan (a48Val x.2))).map (fun x => ⟨step j, m, j, some x.1⟩))

/-- Tokens from `m` on into consecutive tile rows. -/
def addTokens (af : Fmt) (s : WeightSet) : Nat → List (List Nat × List Nat) → Tile → Tile
  | _, [], t => t
  | m, x :: xs, t => addTokens af s (m + 1) xs (addToken af s x m t)

def tokensNans (af : Fmt) (s : WeightSet) (step : Nat → Nat → Nat) : Nat → List (List Nat × List Nat) → List NanEvent
  | _, [] => []
  | m, x :: xs => tokenNans af s x m (step m) ++ tokensNans af s step (m + 1) xs

/-! ### Toggling cells (04 R92, R93, R115, R120) -/

/-- The significand with its implicit bit, or the magnitude of an integer-like element (04 R92). -/
def significand (f : Fmt) (code : Nat) : Nat :=
  match f with
  | .int4 => if 8 ≤ code then 16 - code else code
  | .int2 => if 2 ≤ code then 4 - code else code
  | .ternary => if code = 1 ∨ code = 3 then 1 else 0
  | .binary => 1
  | .w12 =>
    let c := (convertTo .w12 .rne false (fp32Val code)).code
    c % 2048 + (if bitsOf c 11 8 = 0 then 0 else 2048)
  | f =>
    match fpParams f with
    | some (eb, _, fb) => code % 2 ^ fb + (if bitsOf code fb eb = 0 then 0 else 2 ^ fb)
    | none => 0

/-- Bits b of a streamed activation (04 R92). -/
def streamedWidth : Fmt → Nat
  | .binary => 1
  | .ternary => 2
  | .int2 => 2
  | .e2m1 => 2
  | .e3m2 => 3
  | .e5m2 => 3
  | .e2m3 => 4
  | .e4m3 => 4
  | .int4 => 4
  | .bf16 => 8
  | .fp16 => 11
  | .w12 => 12
  | _ => 1

/-- Weight passes that a format needs (04 R92). -/
def passesNeeded : Fmt → Nat
  | .bf16 => 2
  | .fp16 => 3
  | .w12 => 3
  | _ => 1

def popcount : Nat → Nat → Nat
  | 0, _ => 0
  | n + 1, v => v % 2 + popcount n (v / 2)

/-- Nonzero 4-bit pieces of a weight (04 R93). -/
def livePieces (f : Fmt) (code : Nat) : Nat :=
  let s := significand f code
  (List.range 3).countP (fun p => bitsOf s (4 * p) 4 != 0)

/-- Cell-steps that toggle while one token passes (04 R115). A row with ROW_EN = 0 is unused (DESIGN CHOICE, log 81). -/
def tokenToggles (af : Fmt) (s : WeightSet) (tok : List Nat × List Nat) : Nat :=
  ((List.zip tok.1 (List.zip s.rows s.descs)).map (fun x =>
    if descEnabled x.2.2 then
      popcount 12 (significand af x.1) * (x.2.1.map (fun c => livePieces s.fmt c)).sum
    else 0)).sum

/-- Cell-steps that toggle while plane `q` of one token passes: bit `q % b` of each activation against piece `q / b` of each
weight (04 R92, R93, R113, R115). -/
def planeToggles (af : Fmt) (s : WeightSet) (tok : List Nat × List Nat) (q : Nat) : Nat :=
  let b := streamedWidth af
  ((List.zip tok.1 (List.zip s.rows s.descs)).map (fun x =>
    if descEnabled x.2.2 && bitOf (significand af x.1) (q % b) then
      x.2.1.countP (fun c => bitsOf (significand s.fmt c) (4 * (q / b)) 4 != 0)
    else 0)).sum

/-- Cell-steps that toggle while the first `planes` planes of an operation pass; `per` planes make one token. -/
def runToggles (af : Fmt) (s : WeightSet) (per : Nat) : Nat → List (List Nat × List Nat) → Nat
  | _, [] => 0
  | planes, tok :: toks =>
    if per ≤ planes then tokenToggles af s tok + runToggles af s per (planes - per) toks
    else ((List.range planes).map (planeToggles af s tok)).sum

/-- Count toggled cell-steps in units of 65,536 (04 R120). -/
def addToggles (a : ArrayUnit) (n : Nat) : ArrayUnit :=
  let t := a.residue + n
  { a with activeUnits := a.activeUnits + BitVec.ofNat 64 (t / 65536), residue := t % 65536 }

end Sys2Proof.Machine
end

