-- ==== Sys2Proof/Machine/Sequencer.lean ====
section
/-!
DEFINITION. The sequencer's decision on the next instruction of a stream (07 R180 to R188, R557), and the control
instructions.
-/

namespace Sys2Proof.Machine

/-! ### The instruction word -/

/-- Opcodes of 07 R188 to R202. -/
def knownOpcode (op : Nat) : Bool :=
  [0x00, 0x01, 0x02, 0x03, 0x04, 0x05, 0x10, 0x11, 0x20, 0x30, 0x31, 0x40, 0x50, 0x51, 0x52, 0x53, 0x60, 0x61, 0x62].contains op

/-- Bits that the tables of an opcode list, as (first bit, width); the others above bit 9 are reserved. -/
def usedFields (op : Nat) : List (Nat × Nat) :=
  match op with
  | 0x02 => [(16, 5), (64, 64)]
  | 0x03 => [(16, 10), (64, 64)]
  | 0x04 => [(16, 13), (64, 64)]
  | 0x05 => [(16, 2)]
  | 0x10 => [(16, 41)]
  | 0x11 => [(16, 30)]
  | 0x20 => [(16, 44), (64, 30)]
  | 0x30 => [(16, 44)]
  | 0x31 => [(16, 30), (64, 40)]
  | 0x40 => [(16, 44), (64, 32)]
  | 0x50 => [(16, 21)]
  | 0x51 => [(16, 21)]
  | 0x52 => [(16, 23)]
  | 0x60 => [(16, 18), (64, 32)]
  | 0x61 => [(16, 5), (28, 7), (64, 32)]
  | 0x62 => [(16, 43)]
  | _ => []

def coveredBit (op i : Nat) : Bool := i < 10 || (usedFields op).any (fun f => f.1 ≤ i && i < f.1 + f.2)

/-- A reserved bit of the word is set (07 R181). -/
def reservedBits (word : Nat) : Bool :=
  (List.range 128).any (fun i => bitOf word i && !coveredBit (bitsOf word 0 8) i)

/-- A reserved value in an encoded field, or a BRANCH offset off the 16-byte grid (07 R181, R188, 05 R131, 07 R196,
R202). -/
def reservedValue (word : Nat) : Bool :=
  match bitsOf word 0 8 with
  | 0x04 => decide (6 ≤ bitsOf word 26 3) || bitsOf word 64 64 % 16 != 0
  | 0x30 => bitsOf word 44 2 == 3
  | 0x52 => decide (3 ≤ bitsOf word 36 3)
  | 0x62 => bitsOf word 39 2 == 3
  | _ => false

/-- Registers of a PAIR field (07 R183). -/
def pairRegs (p : Nat) : List Nat := [2 * p, 2 * p + 1]

/-- The registers that an instruction reads at its issue (07 R182). -/
def regsRead (word : Nat) : List Nat :=
  let r (lo : Nat) := [bitsOf word lo 5]
  let p (lo : Nat) := pairRegs (bitsOf word lo 4)
  match bitsOf word 0 8 with
  | 0x03 => r 21
  | 0x04 => r 16 ++ r 21
  | 0x10 => p 23 ++ r 47 ++ r 52
  | 0x11 => p 21 ++ r 25 ++ r 39
  | 0x20 => r 54 ++ p 64 ++ p 68 ++ p 72 ++ r 76 ++ r 81
  | 0x30 => p 51 ++ r 55
  | 0x31 => p 80 ++ r 84 ++ r 89 ++ r 94 ++ r 99
  | 0x40 => r 45 ++ r 50 ++ r 55 ++ p 80 ++ p 84 ++ p 88 ++ p 92
  | 0x50 => r 16 ++ r 21 ++ p 26 ++ r 30
  | 0x51 => r 16 ++ r 21 ++ p 26 ++ r 30
  | 0x52 => r 21 ++ r 26 ++ r 31
  | 0x60 => r 16
  | 0x61 => r 16
  | 0x62 => r 16 ++ r 21 ++ p 26 ++ p 30 ++ r 34 ++ r 49 ++ r 54
  | _ => []

/-- The unit that an opcode goes to (07 R184). -/
def unitOfOpcode : Nat → UnitId
  | 0x10 => .array
  | 0x11 => .array
  | 0x20 => .inset
  | 0x30 => .tile
  | 0x31 => .tile
  | 0x40 => .eu
  | 0x50 => .transfer
  | 0x51 => .transfer
  | 0x52 => .transfer
  | 0x60 => .sync
  | 0x61 => .sync
  | 0x62 => .sync
  | _ => .control

/-! ### Registers of a stream (07 R182, R183) -/

def Stream.reg (st : Stream) (n : Nat) : Word := if n = 0 then 0 else st.d.getD n 0

def Stream.setReg (st : Stream) (n : Nat) (v : Word) : Stream := if n = 0 then st else { st with d := st.d.set n v }

/-- The register that a field of the word names, as a number. -/
def regN (st : Stream) (word lo : Nat) : Nat := (st.reg (bitsOf word lo 5)).toNat

/-- Address and stride of a PAIR field. -/
def pairN (st : Stream) (word lo : Nat) : Nat × Nat :=
  ((st.reg (2 * bitsOf word lo 4)).toNat, (st.reg (2 * bitsOf word lo 4 + 1)).toNat)

/-! ### Readiness -/

/-- An earlier ATOMIC of the stream still has to write a register that the instruction reads (07 R182). -/
def atomicHazard (en : Engine) (q word : Nat) : Bool :=
  en.ops.any (fun o => o.stream == q && (match o.kind with
    | .atomic p => p.dst != 0 && (regsRead word).contains p.dst
    | _ => false))

def tileHeld (en : Engine) (t : Nat) : Bool := (en.tile t).holder != .none

/-- An opening epoch has still to capture the generator of engine `e`: the engine issues nothing until then (13 R403). -/
def captureHold (w : Work) (e : Nat) : Bool :=
  match w.copier.run with
  | some r => w.copier.phase == 1 && r.uncaptured.contains e
  | none => false

/-- The stream holds a running RUN and nothing keeps it from issuing but the instruction itself (07 R176, R177, R184,
R186, R188, R206). -/
def streamReady (h : Hub) (w : Work) (e q : Nat) : Bool :=
  let en := w.engine e
  let st := en.stream q
  working h w e && st.running && st.desc.isSome && st.faulting.isNone && !st.fault && !en.stopped &&
    st.acquire.isNone && !st.tileWait.any (fun t => tileHeld en t) && en.genHold.isNone && !captureHold w e &&
    !st.endIssued

/-- Local address of the next instruction (07 R175). -/
def fetchAddr (st : Stream) : Nat := st.progAddr.toNat + 64 + st.pc.toNat

/-- What the sequencer finds at the PC of a ready stream. -/
inductive Fetch where
  | wait
  | refuse (code : Code) (opcode addr tensorId : Nat)
  | go (word : Nat)
  deriving DecidableEq, Repr

/-- The TENSOR_ID that an instruction names, 0 for one without (07 R183, R192, R193, R202, R212). -/
def tensorOf (st : Stream) (word : Nat) : Nat :=
  match bitsOf word 0 8 with
  | 0x30 => regN st word 55 % 2 ^ 32
  | 0x31 => regN st word 99 % 2 ^ 32
  | 0x40 => regN st word 55 % 2 ^ 32
  | 0x62 => regN st word 49 % 2 ^ 32
  | _ => 0

/-- What the sequencer finds at the PC of stream `q`, if it is an instruction that `mine` names. -/
def fetchAt (h : Hub) (w : Work) (e q : Nat) (mine : Nat → Bool) : Fetch :=
  let en := w.engine e
  let st := en.stream q
  if !streamReady h w e q then .wait
  else if st.length ≤ st.pc.toNat then .refuse 0x0203 0 0 0
  else
    match engineNat h w e (fetchAddr st) 16 with
    | .error (c, a) => .refuse c 0 a 0
    | .ok word =>
      let op := bitsOf word 0 8
      if !knownOpcode op then .refuse 0x0201 op 0 0
      else if !mine word then .wait
      else if atomicHazard en q word || (unitOfOpcode op != .control && unitFull en (unitOfOpcode op) q) then .wait
      else if reservedBits word || reservedValue word then .refuse 0x0201 op 0 (tensorOf st word)
      else .go word

/-- Places between the stream last served and stream `i`, in the order in which streams are served. -/
def servedAfter (en : Engine) (i : Nat) : Nat := (i + 3 - en.lastServed) % 4

/-- It is stream `q`'s turn: no stream that comes before it in the round is ready (07 R184). A stream whose instruction has
to wait is not ready. -/
def streamTurn (h : Hub) (w : Work) (e q : Nat) : Bool :=
  (List.range 4).all (fun i =>
    decide (servedAfter (w.engine e) q ≤ servedAfter (w.engine e) i) || fetchAt h w e i (fun _ => true) == .wait)

/-- The next instruction, if it is one that `mine` names and the sequencer may decide it now. -/
def fetch (h : Hub) (w : Work) (e q : Nat) (mine : Nat → Bool) : Fetch :=
  if streamTurn h w e q then fetchAt h w e q mine else .wait

/-- Stream `q` has been served (07 R184). -/
def serveStream (w : Work) (e q : Nat) : Work := w.setEngine e (fun en => { en with lastServed := q })

/-- An instruction is refused at issue (07 R206, R557): ISN one above those issued, nothing issued. -/
def refuseInstr (h : Hub) (w : Work) (e q : Nat) (code : Code) (opcode addr : Nat) (detail : Option (Nat × Nat × Nat))
    (tid : Nat) : Work :=
  let st := w.stream e q
  let w1 := w.setStream e q (fun s => { s with tileWait := [] })
  settleStream h (recordFault h w1 e q code ⟨opcode, st.isn + 1, st.pc, addr, detail, tid⟩) e q

/-- One decision of the sequencer for stream `q`: `run` gets the word of an instruction without reserved bits. -/
def decideInstr (h : Hub) (w : Work) (e q : Nat) (mine : Nat → Bool) (run : Work → Nat → Work) : Work :=
  match fetch h w e q mine with
  | .wait => w
  | .refuse c op a t => refuseInstr h (serveStream w e q) e q c op a none t
  | .go word =>
    run
      ((keepPage h (serveStream w e q) e (fetchAddr (w.stream e q))).setStream e q (fun s => { s with tileWait := [] }))
      word

/-! ### Issue -/

/-- The stream has issued one instruction and goes to PC `pc` (07 R174, R184). -/
def advance (st : Stream) (pc : Word) : Stream := { st with isn := st.isn + 1, pc := pc }

/-- Pass an instruction to its unit (07 R184, R186): the new operation is the last of the queue. -/
def issueOp (w : Work) (e q word : Nat) (conv : Option ConvIssue) (acquire release : Bool) (kind : OpKind) : Work :=
  w.setEngine e (fun en =>
    let st := en.stream q
    let o : Op :=
      { id := en.nextId, stream := q, isn := st.isn + 1, pc := st.pc, opcode := bitsOf word 0 8, release := release,
        phase := .issued, planes := 0, trapEnable := en.trap.enable, trapRecord := en.trap.record, word := word, conv := conv,
        kind := kind }
    { en.setStream q (fun s => { advance s (s.pc + 16) with acquire := if acquire then some en.nextId else s.acquire })
      with ops := en.ops ++ [o], nextId := en.nextId + 1 })

/-- ORDER bits (07 R180). -/
def acquireOf (word : Nat) : Bool := bitOf word 8
def releaseOf (word : Nat) : Bool := bitOf word 9

/-- Reserve the draws of a conversion of `n` elements (02 R67). -/
def reserve (w : Work) (e : Nat) (cc : ConvCtrl) (ci : ConvIssue) (cols n : Nat) : Work :=
  if anyDraw cc ci.marks then w.setEngine e (fun en => { en with gen := reserveDraws en.gen cc ci.marks cols n }) else w

/-- A refused tile instruction counts in ACC_CONFLICTS (05 R130, R141). -/
def countConflict (w : Work) (e : Nat) : Work := w.setEngine e (fun en => { en with accConflicts := en.accConflicts + 1 })

/-! ### Control instructions (07 R188) -/

def opcodeIs (op word : Nat) : Bool := bitsOf word 0 8 == op

/-- NOP: no effect. -/
def execNop (e q : Nat) (s : State) : Out :=
  onWork s fun h w => decideInstr h w e q (opcodeIs 0x00) fun w _ => w.setStream e q (fun st => advance st (st.pc + 16))

/-- END: the RUN ends when every instruction of it is complete (07 R187). -/
def execEndRun (e q : Nat) (s : State) : Out :=
  onWork s fun h w => decideInstr h w e q (opcodeIs 0x01) fun w _ =>
    w.setStream e q (fun st => { advance st (st.pc + 16) with endIssued := true })

/-- SETD: D(DST) = IMM. -/
def execSetd (e q : Nat) (s : State) : Out :=
  onWork s fun h w => decideInstr h w e q (opcodeIs 0x02) fun w word =>
    w.setStream e q (fun st => (advance st (st.pc + 16)).setReg (bitsOf word 16 5) (BitVec.ofNat 64 (bitsOf word 64 64)))

/-- ADDD: D(DST) = D(SRC) + IMM, modulo 2^64. -/
def execAddd (e q : Nat) (s : State) : Out :=
  onWork s fun h w => decideInstr h w e q (opcodeIs 0x03) fun w word =>
    w.setStream e q (fun st =>
      (advance st (st.pc + 16)).setReg (bitsOf word 16 5) (st.reg (bitsOf word 21 5) + BitVec.ofNat 64 (bitsOf word 64 64)))

/-- COND of BRANCH. -/
def branchTaken (cond : Nat) (a b : Word) : Bool :=
  match cond with
  | 0 => a == b
  | 1 => a != b
  | 2 => a.ult b
  | 3 => b.ule a
  | 4 => a.slt b
  | _ => b.sle a

/-- BRANCH: the PC moves by OFFSET when COND holds. -/
def execBranch (e q : Nat) (s : State) : Out :=
  onWork s fun h w => decideInstr h w e q (opcodeIs 0x04) fun w word =>
    w.setStream e q (fun st =>
      advance st
        (if branchTaken (bitsOf word 26 3) (st.reg (bitsOf word 16 5)) (st.reg (bitsOf word 21 5)) then
          st.pc + BitVec.ofNat 64 (bitsOf word 64 64)
        else st.pc + 16))

/-- TILE_WAIT: the stream issues nothing further until each named tile is held by no stream. -/
def execTileWait (e q : Nat) (s : State) : Out :=
  onWork s fun h w => decideInstr h w e q (opcodeIs 0x05) fun w word =>
    w.setStream e q (fun st =>
      { advance st (st.pc + 16) with
        tileWait := (if bitOf word 16 then [0] else []) ++ (if bitOf word 17 then [1] else []) })

/-- FENCE (07 R187, R197): acquire and release; complete when every earlier instruction of the stream is. -/
def execFence (e q : Nat) (s : State) : Out :=
  onWork s fun h w => decideInstr h w e q (opcodeIs 0x53) fun w word =>
    (issueOp w e q word none true true .fence).setEngine e (fun en => clearFence en q)

/-- END completes after every instruction of its RUN: the completion record is written (07 R174, R187). -/
def execEndComplete (e q : Nat) (s : State) : Out :=
  onWork s fun h w =>
    let en := w.engine e
    let st := en.stream q
    if working h w e && st.running && st.endIssued && st.faulting.isNone && !en.stopped && !en.ops.any (fun o => o.stream == q) then
      wholeStep w (7, e, q) (trace h (finishDescriptor h w e q st.isn 0) 1 (unitOf 1 e) st.progAddr.toNat)
    else w

end Sys2Proof.Machine
end

