-- ==== Sys2Proof/Machine/Array.lean ====
section
/-!
DEFINITION. Weight loads and array operations (04 R98 to R123, 07 R189, R190, 08 R232 to R235).
-/

namespace Sys2Proof.Machine

/-- `n` bytes from `a` lie in the window of engine `e`, or there is nothing to read. -/
def ownSpan (e a n : Nat) : Bool := n == 0 || inSram e a n

/-- `rows` rows of `len` bytes, `stride` apart, lie in the window of engine `e`. -/
def ownRows (e a stride len rows : Nat) : Bool := rows == 0 || len == 0 || ownSpan e a (stride * (rows - 1) + len)

/-- A multiply format of an encoded field (02 R40, R41). -/
def multiplyFmt (code : Nat) : Option Fmt := (fmtOfCode code).filter multiplyOk

/-! ### WLOAD (04 R101, R106; 07 R189) -/

/-- The checks of a weight load, in the order of 07 R557: its parameters and its row descriptors, or the refusal. Of the
scale table the bytes that the load uses must lie in the window (DESIGN CHOICE, log 82). -/
def checkWload (h : Hub) (w : Work) (e q word : Nat) : Except (Code × Nat) WloadP :=
  let st := w.stream e q
  let ad := pairN st word 23
  let kRows := bitsOf word 27 10
  let nCols := bitsOf word 37 10
  let ws := regN st word 47
  let rd := regN st word 52
  let passes := bitsOf word 21 2
  match multiplyFmt (bitsOf word 16 5) with
  | none => .error (0x0202, 0)
  | some f =>
    if passes < passesNeeded f then .error (0x0205, 0)
    else if kRows = 0 ∨ 512 < kRows ∨ nCols = 0 ∨ 512 < nCols then .error (0x0203, 0)
    else if ad.2 % rowAlign f ≠ 0 then .error (0x0203, 0)
    else if !ownRows e ad.1 ad.2 (packedBytes f nCols) kRows then .error (0x0203, ad.1)
    else if ws ≠ 0 ∧ !ownRows e ws 512 nCols ((kRows + 31) / 32) then .error (0x0203, ws)
    else if rd ≠ 0 ∧ (rd % 2 ≠ 0 ∨ !ownSpan e rd 1024) then .error (0x0203, rd)
    else
      match readDescs h w e rd 512 with
      | .error x => .error x
      | .ok ds =>
        if ds.any descBad then .error (0x0207, rd) else .ok ⟨f, passes, ad.1, ad.2, kRows, nCols, ws, rd⟩

/-- WLOAD: queued to fill the shadow plane (04 R102, R106). -/
def execWload (e q : Nat) (s : State) : Out :=
  onWork s fun h w => decideInstr h w e q (opcodeIs 0x10) fun w word =>
    match checkWload h w e q word with
    | .error (c, a) => refuseInstr h w e q c 0x10 a none 0
    | .ok p => issueOp w e q word none (acquireOf word) (releaseOf word) (.wload p (some (emptySet p)))

/-! ### Weight loads and array operations at the array (04 R102, R103, R121) -/

def isWload (o : Op) : Bool :=
  match o.kind with
  | .wload .. => true
  | _ => false

def isArray (o : Op) : Bool :=
  match o.kind with
  | .array .. => true
  | _ => false

/-- The load that a waiting array operation claims. -/
def claimOf (o : Op) : Option Nat :=
  match o.kind with
  | .array _ c _ _ _ => if o.phase == .issued then c else none
  | _ => none

def claimed (en : Engine) (id : Nat) : Bool := en.ops.any (fun o => claimOf o == some id)

/-- The oldest weight load that no operation has claimed (04 R103): 0 is the set in the shadow plane. -/
def unclaimedLoad (en : Engine) : Option Nat :=
  if en.arr.shadow.isSome && !claimed en 0 then some 0
  else (en.ops.find? (fun o => isWload o && !claimed en o.id)).map (fun o => o.id)

/-- Rows and the like of a claimed load. -/
def claimedSet (en : Engine) (id : Nat) : Option WeightSet :=
  if id = 0 then en.arr.shadow
  else
    match en.op id with
    | some o => (match o.kind with
      | .wload _ s => s
      | _ => none)
    | none => none

/-- An array operation that waits with WSET = 1. -/
def waitsToSwap (o : Op) : Bool :=
  match o.kind with
  | .array p _ _ _ _ => p.wset && o.phase == .issued
  | _ => false

/-- The set that an operation issued now would use, with its claim (04 R103, R121). -/
def nextSet (en : Engine) (wset : Bool) : Option (Option Nat × WeightSet) :=
  if wset then
    match unclaimedLoad en with
    | none => none
    | some id => (claimedSet en id).map (fun s => (some id, s))
  else
    match en.ops.reverse.find? waitsToSwap with
    | some o => ((claimOf o).bind (claimedSet en)).map (fun s => (none, s))
    | none => en.arr.active.map (fun s => (none, s))

/-! ### ARRAY (04 R98, R99; 07 R190) -/

/-- The checks of an array operation up to the weight set, in the order of 07 R557. While no set will be active a row counts
one element (DESIGN CHOICE, log 83); of a token's 16 scale bytes those of its groups must lie in the window (log 84). -/
def checkArray (w : Work) (e q word : Nat) : Except (Code × Nat) (ArrayP × Option Nat) :=
  let en := w.engine e
  let st := en.stream q
  let ad := pairN st word 21
  let asA := regN st word 25
  let m := bitsOf word 30 9
  let kOff := regN st word 39
  let wset := bitOf word 45
  let set := nextSet en wset
  let kRows := (set.map (fun x => x.2.kRows)).getD 1
  match multiplyFmt (bitsOf word 16 5) with
  | none => .error (0x0202, 0)
  | some f =>
    let row := packedBytes f kRows
    if kOff % 32 ≠ 0 then .error (0x0204, 0)
    else if m < 9 ∨ 256 < m then .error (0x0203, 0)
    else if ad.2 % rowAlign f ≠ 0 ∨ ad.2 < row then .error (0x0203, 0)
    else if !ownRows e ad.1 ad.2 row m then .error (0x0203, ad.1)
    else if asA ≠ 0 ∧ !ownRows e asA 16 ((kRows + 31) / 32) m then .error (0x0203, asA)
    else
      match set with
      | none => .error (0x0206, 0)
      | some (claim, _) => .ok (⟨f, ad.1, ad.2, asA, m, kOff, bitsOf word 44 1, wset⟩, claim)

/-- ARRAY: joins or takes its tile, and claims its weight load. -/
def execArray (e q : Nat) (s : State) : Out :=
  onWork s fun h w => decideInstr h w e q (opcodeIs 0x11) fun w word =>
    match checkArray w e q word with
    | .error (c, a) => refuseInstr h w e q c 0x11 a none 0
    | .ok (p, claim) =>
      if tileConflict ((w.engine e).tile p.tile) true q then refuseInstr h (countConflict w e) e q 0x0208 0x11 0 none 0
      else
        (issueOp w e q word none (acquireOf word) (releaseOf word) (.array p claim none [] 0)).setEngine e
          (fun en => en.setTile p.tile (fun t => holdTile t .array q))

/-! ### Loads run (04 R102, R123) -/

/-- The weight load that comes next to run, or runs. -/
def frontLoad (en : Engine) : Option Op := en.ops.find? isWload

/-- A waiting operation is refused at the array (04 R103, R121): it gives up its tile. -/
def refuseWaiting (h : Hub) (w : Work) (e : Nat) (o : Op) (code : Code) : Work :=
  match o.kind with
  | .array p _ _ _ _ => faultOp h (w.setEngine e (fun en => en.setTile p.tile releaseTile)) e o code 0 none 0
  | _ => w

/-- Waiting operations with WSET = 0 that will find no active set are refused (04 R121). -/
def sweepArrays (h : Hub) (e : Nat) : Nat → Work → Work
  | 0, w => w
  | n + 1, w =>
    let en := w.engine e
    match en.ops.find? (fun o => isArray o && o.phase == .issued) with
    | none => w
    | some o =>
      if en.arr.active.isNone && !waitsToSwap o then sweepArrays h e n (refuseWaiting h w e o 0x0206) else w

/-- A weight load faults (04 R123): the shadow plane is without a set, and the operation that claimed the load is refused
with the same fault (04 R103, DEDUCED, log 15). -/
def faultLoad (h : Hub) (w : Work) (e : Nat) (o : Op) (code : Code) (addr : Nat) : Work :=
  let w1 := faultOp h w e o code addr none 0
  match (w1.engine e).ops.find? (fun x => claimOf x == some o.id) with
  | none => w1
  | some x => sweepArrays h e 8 (refuseWaiting h w1 e x code)

/-- A weight load begins, the shadow plane being free, or goes on: by now its first `rows` rows are read (04 R102, R105). -/
def startLoad (h : Hub) (w : Work) (e rows : Nat) : Work :=
  let en := w.engine e
  match frontLoad en with
  | none => w
  | some o =>
    match o.kind with
    | .wload p (some s0) =>
      if working h w e && !en.stopped && ((o.phase == .issued && en.arr.shadow.isNone && mayStart en o) || o.phase == .started) then
        match loadRows h w e s0 rows with
        | .error (c, a) => faultLoad h w e o c a
        | .ok set => w.setEngine e (fun en => en.setOp o.id (fun x => { x with phase := .started, kind := .wload p (some set) }))
      else w
    | _ => w

def execWloadStart (x : LoadSteps) (s : State) : Out := onWork s fun h w => startLoad h w x.engine x.rows

/-- A claim on load `id` becomes a claim on the shadow set. -/
def reclaim (id : Nat) (x : Op) : Op :=
  match x.kind with
  | .array p c st acts t => if c = some id then { x with kind := .array p (some 0) st acts t } else x
  | _ => x

/-- The last shadow row is written, the rows that were still out being read (04 R102, R105, 07 R185). -/
def finishLoad (h : Hub) (w : Work) (e : Nat) : Work :=
  let en := w.engine e
  match frontLoad en with
  | none => w
  | some o =>
    match o.kind with
    | .wload p (some s0) =>
      if working h w e && !en.stopped && o.phase == .started then
        match loadRows h w e s0 p.kRows with
        | .error (c, a) => faultLoad h w e o c a
        | .ok set =>
          completeOp h
            (w.setEngine e (fun en => { en with arr := { en.arr with shadow := some set }, ops := en.ops.map (reclaim o.id) }))
            e o
      else w
    | _ => w

def execWloadComplete (e : Nat) (s : State) : Out := onWork s fun h w => finishLoad h w e

/-! ### Array operations run (04 R103, R113, R118) -/

/-- Steps per product of an operation with a set (04 R95). -/
def stepsPerToken (p : ArrayP) (s : WeightSet) : Nat := streamedWidth p.aFmt * s.passes

def pairUp : List (List Nat) → List (List Nat) → List (List Nat × List Nat)
  | x :: xs, y :: ys => (x, y) :: pairUp xs ys
  | x :: xs, [] => (x, []) :: pairUp xs []
  | [], _ => []

/-- The block scale bytes of `n` tokens from token `t` on (04 R99). -/
def readScales (h : Hub) (w : Work) (e : Nat) (p : ArrayP) (s : WeightSet) (t n : Nat) : Except (Code × Nat) (List (List Nat)) :=
  if p.asAddr = 0 then .ok [] else readByteRows h w e (p.asAddr + t * 16) 16 ((s.kRows + 31) / 32) n

/-- `n` tokens of the operation from token `t` on, as the feeders read them (04 R99). -/
def readTokens (h : Hub) (w : Work) (e : Nat) (p : ArrayP) (s : WeightSet) (t n : Nat) :
    Except (Code × Nat) (List (List Nat × List Nat)) :=
  match readRows h w e p.aFmt (p.aAddr + t * p.aStride) p.aStride s.kRows n with
  | .error x => .error x
  | .ok acts =>
    match readScales h w e p s t n with
    | .error x => .error x
    | .ok scales => .ok (pairUp acts scales)

/-- Entries of one row feeder queue (04 R110). -/
def feederDepth : Nat := 64

/-- The feeders fill in token order until they hold the operation's tokens up to token `upto` (04 R110): the tokens read so
far, those from `t` on. -/
def fillFeeders (h : Hub) (w : Work) (e : Nat) (p : ArrayP) (s : WeightSet) (t : Nat) (acts : List (List Nat × List Nat))
    (upto : Nat) : Except (Code × Nat) (List (List Nat × List Nat)) :=
  match readTokens h w e p s (t + acts.length) (min upto p.m - (t + acts.length)) with
  | .error x => .error x
  | .ok more => .ok (acts ++ more)

/-- The first operation that has not entered the array. -/
def frontArray (en : Engine) : Option Op := en.ops.find? (fun o => isArray o && o.phase == .issued)

/-- The set that an operation starts with: the shadow set is swapped in with WSET = 1 (04 R103). -/
def swapIn (a : ArrayUnit) (wset : Bool) : ArrayUnit :=
  if wset then { a with active := a.shadow, shadow := none } else a

/-- Elements that a faulted operation would have written are spoilt, its tile is released, and the operations of its
stream that have not entered are cancelled (04 R122). -/
def spoilArray (w : Work) (e : Nat) (o : Op) (p : ArrayP) (s : WeightSet) : Work :=
  let w1 := spoil w e p.tile 0 p.m s.nCols
  let cancelled (x : Op) : Bool := isArray x && x.phase == .issued && x.stream == o.stream
  w1.setEngine e (fun en =>
    let rel (en : Engine) (x : Op) : Engine :=
      match x.kind with
      | .array px _ _ _ _ => (dropOp en x).setTile px.tile releaseTile
      | _ => en
    (en.ops.filter cancelled).foldl rel (en.setTile p.tile releaseTile))

/-- Planes of an operation from token `t` on (04 R113). -/
def planesFrom (p : ArrayP) (s : WeightSet) (t : Nat) : Nat := (p.m - t) * stepsPerToken p s

/-- `planes` planes of operation `o` have entered by now: those not yet counted are steps (04 R118). -/
def enterPlanes (w : Work) (e : Nat) (o : Op) (planes : Nat) : Work :=
  w.setEngine e (fun en =>
    { en.setOp o.id (fun x => { x with planes := max x.planes planes }) with
      arr := { en.arr with steps := en.arr.steps + BitVec.ofNat 64 (planes - o.planes) } })

/-- The operation ends with `planes` of its planes in the array: they are steps, and their toggles count (04 R118, R120). -/
def leaveArray (w : Work) (e : Nat) (o : Op) (planes : Nat) : Work :=
  match o.kind with
  | .array p _ (some s) acts _ =>
    (enterPlanes w e o planes).setEngine e (fun en =>
      { en with arr := addToggles en.arr (runToggles p.aFmt s (stepsPerToken p s) (max o.planes planes) acts) })
  | _ => w

/-- A started array operation faults once `planes` of its planes, or more, have entered (04 R122). -/
def faultArray (h : Hub) (w : Work) (e : Nat) (o : Op) (planes : Nat) (code : Code) (addr : Nat)
    (detail : Option (Nat × Nat × Nat)) : Work :=
  match o.kind with
  | .array p _ (some s) _ _ => faultOp h (spoilArray (leaveArray w e o planes) e o p s) e o code addr detail 0
  | _ => w

/-- The operation that takes planes: the last one that has entered. -/
def runningArray (en : Engine) : Option Op := en.ops.reverse.find? (fun o => isArray o && o.phase == .started)

/-- The feeders read on until they hold the tokens of `o` below `upto`; an error faults the operation, whose code is then
given. -/
def feedOp (h : Hub) (w : Work) (e : Nat) (o : Op) (upto : Nat) : Work × Bool :=
  match o.kind with
  | .array p c (some s) acts t =>
    (match fillFeeders h w e p s t acts upto with
     | .error (code, a) => (faultArray h w e o o.planes code a none, false)
     | .ok more => (w.setEngine e (fun en => en.setOp o.id (fun x => { x with kind := .array p c (some s) more t })), true))
  | _ => (w, false)

/-- The step of a NaN of token `m`, column `j`, counted from the first plane of token `t` (04 R113, 08 R233). -/
def arrayNanStep (b t : Nat) (m j : Nat) : Nat := (m + 1 - t) * b + 516 + j

/-- NaN group sums of tokens `m` on, for an operation whose first token here is `t` (08 R232, R233). -/
def tokenEvents (p : ArrayP) (s : WeightSet) (t m : Nat) (acts : List (List Nat × List Nat)) : List NanEvent :=
  tokensNans p.aFmt s (arrayNanStep (stepsPerToken p s) t) m acts

/-- A NaN halts the operation before its last plane has entered (04 R122, 08 R233): no later operation of its stream
enters. -/
def haltsEarly (o : Op) : Bool :=
  match o.kind with
  | .array p _ (some s) acts t =>
    let ev := tokenEvents p s t t acts
    trapHalts o ev && ((firstNan ev).map (fun x => decide (x.step < planesFrom p s t))).getD false
  | _ => false

/-- The running operation has taken its last plane, as it must before the next one enters (04 R113): what its feeders had
still to read is read. False where that read, or a NaN before that plane, ends it with a fault. -/
def lastPlaneIn (h : Hub) (w : Work) (e : Nat) : Work × Bool :=
  match runningArray (w.engine e) with
  | none => (w, true)
  | some o =>
    match feedOp h w e o 256 with
    | (w1, false) => (w1, false)
    | (w1, true) =>
      match (w1.engine e).op o.id with
      | some x =>
        (match x.kind with
         | .array p _ (some s) _ t => if haltsEarly x then (w1, false) else (enterPlanes w1 e x (planesFrom p s t), true)
         | _ => (w1, true))
      | none => (w1, true)

/-- The front operation enters: the swap, the first plane of token 0, and the tokens that its feeders hold (04 R103, R110,
R113). -/
def enterArray (h : Hub) (w : Work) (e : Nat) (o : Op) : Work :=
  let en := w.engine e
  match o.kind with
  | .array p _ _ _ _ =>
    let a := swapIn en.arr p.wset
    (match a.active with
     | none => sweepArrays h e 8 (refuseWaiting h w e o 0x0206)
     | some s =>
       let x := { o with phase := .started, kind := .array p none (some s) [] 0 }
       let w1 := w.setEngine e (fun en => { en.setOp o.id (fun _ => x) with arr := a })
       match feedOp h w1 e x feederDepth with
       | (w2, true) => enterPlanes w2 e x 1
       | (w2, false) => w2)
  | _ => w

/-- ARRAY_START: the operation that comes next, when its claimed load has completed and the one before it has taken its last
plane (04 R103, R113). -/
def startArray (h : Hub) (w : Work) (e : Nat) : Work :=
  let en := w.engine e
  match frontArray en with
  | none => w
  | some o =>
    match o.kind with
    | .array p claim _ _ _ =>
      if !working h w e || en.stopped || !mayStart en o then w
      else if p.wset && (claim != some 0 || en.arr.shadow.isNone) then w
      else
        match lastPlaneIn h w e with
        | (w1, true) => enterArray h w1 e o
        | (w1, false) => w1
    | _ => w

def execArrayStart (e : Nat) (s : State) : Out := onWork s fun h w => startArray h w e

/-- A feeder entry arrives after handshakes with an empty queue (04 R112, R119): by now `x.planes` planes of the
running operation have entered, of the tokens that the feeders had, and the feeders fill on behind them (R110). -/
def execFeederEntryArrival (e : Nat) (x : FeederSteps) (s : State) : Out :=
  onWork s fun h w =>
    match (if working h w e && !(w.engine e).stopped then runningArray (w.engine e) else none) with
    | none => w
    | some o =>
      match o.kind with
      | .array p _ (some s) acts t =>
        let per := stepsPerToken p s
        let n := max o.planes (min x.planes (acts.length * per))
        let w1 := (enterPlanes w e o n).setEngine e (fun en =>
          { en with arr := { en.arr with starved := en.arr.starved + BitVec.ofNat 64 x.waited } })
        (feedOp h w1 e { o with planes := n } (t + n / per + feederDepth)).1
      | _ => w

/-- NaNs halt an array operation in the step of the first of them (08 R234). -/
def haltArray (h : Hub) (w : Work) (e : Nat) (o : Op) (total : Nat) (ev : List NanEvent) : Work :=
  faultArray h w e o (min total (((firstNan ev).map (fun x => x.step + 1)).getD 0)) 0x0301 0 none

/-- The array operation has run: its results are added, or a NaN halts it (04 R100, R114, 08 R234). -/
def endArray (h : Hub) (w : Work) (e : Nat) (o : Op) (p : ArrayP) (s : WeightSet) (acts : List (List Nat × List Nat))
    (t : Nat) : Work :=
  let ev := tokenEvents p s t t acts
  let w1 := trapNans w e o 1 0 ev
  if trapHalts o ev then haltArray h w1 e o (planesFrom p s t) ev
  else
    completeOp h
      ((leaveArray w1 e o (planesFrom p s t)).setEngine e (fun en =>
        en.setTile p.tile (fun x => releaseTile (addTokens p.aFmt s t acts x)))) e o

/-- The last result element is added (04 R114): the array operation completes and releases its tile. -/
def finishArray (h : Hub) (w : Work) (e : Nat) : Work :=
  let en := w.engine e
  match en.ops.find? isArray with
  | none => w
  | some o =>
    if !working h w e || o.phase != .started || (match en.saving with
        | some j => (j.resume.map (fun x => x.1)) == some o.id
        | none => en.stopped) then w
    else
      match feedOp h w e o 256 with
      | (w1, false) => w1
      | (w1, true) =>
        match (w1.engine e).op o.id with
        | some x =>
          (match x.kind with
           | .array p _ (some s) acts t => endArray h w1 e x p s acts t
           | _ => w1)
        | none => w1

def execArrayComplete (e : Nat) (s : State) : Out := onWork s fun h w => finishArray h w e

end Sys2Proof.Machine
end

