-- ==== Sys2Proof/Machine/Inbox.lean ====
section
/-!
DEFINITION. Delivered packets that wait to be performed (12 R374 to R379).
-/

namespace Sys2Proof.Machine

/-- Packet `k` of the delivered ones, when its operation is `mine`. -/
def inboxAt (w : Work) (k : Nat) (mine : Packet → Bool) : Option Packet := (w.fabric.inbox[k]?).filter mine

def dropInbox (w : Work) (k : Nat) : Work :=
  { w with fabric := { w.fabric with inbox := w.fabric.inbox.eraseIdx k } }

/-- Bytes that a remote access touches. -/
def accessLen (p : Packet) : Nat := if p.op = 0x03 then 8 else if p.op = 0x02 then p.payload.length else p.length

def isAccess (p : Packet) : Bool := 1 ≤ p.op && p.op ≤ 3

/-- Two accesses touch a common 128-byte line. -/
def shareALine (a b : Packet) : Bool :=
  let la := linesOf a.addr (accessLen a)
  (linesOf b.addr (accessLen b)).any (fun ln => la.contains ln)

/-- An access waits while an earlier delivered one to one of its lines is not performed (R377 rule 2). -/
def behindLine (w : Work) (k : Nat) (p : Packet) : Bool :=
  (w.fabric.inbox.take k).any (fun x => isAccess x && shareALine x p)

/-- This module answers requests with 0x0503: its engine complex resets (R376, R379). -/
def targetDown (h : Hub) : Bool := !h.ident.complexReady

/-- Performed: the packet leaves the inbox and its response is sent. -/
def answer (h : Hub) (w : Work) (k : Nat) (p : Packet) (status : Code) (data : List Byte) : Work :=
  sendResponse h (dropInbox w k) 0xFFFF p status data

/-- A request that a home, an SRAM or a token counter has still to perform. -/
def isRequest (p : Packet) : Bool := 1 ≤ p.op && p.op ≤ 4

/-- Every request that the fabric die has not handed on is answered with 0x0503 as the engine complex resets (R379). -/
def refuseInbox (h : Hub) (w : Work) : Work :=
  let out := w.fabric.inbox.filter isRequest
  let w1 := { w with fabric := { w.fabric with inbox := w.fabric.inbox.filter (fun p => !isRequest p) } }
  out.foldl (fun w p => sendResponse h w 0xFFFF p 0x0503 []) w1

end Sys2Proof.Machine
end

