-- ==== Sys2Proof/Machine/Codec.lean ====
section
/-!
DEFINITION. The frames of the activation store codec (10 R290 to R295).
-/

namespace Sys2Proof.Machine

/-! ### Bit streams: each field least significant bit first -/

def bitsLsb : Nat → Nat → List Bool
  | 0, _ => []
  | n + 1, v => (v % 2 == 1) :: bitsLsb n (v / 2)

def bitsNat : List Bool → Nat
  | [] => 0
  | b :: bs => (if b then 1 else 0) + 2 * bitsNat bs

/-- A row's bits as whole bytes, the unused bits 0. -/
def packBits (l : List Bool) : List Byte := (chunks 8 l).map (fun g => BitVec.ofNat 8 (bitsNat g))

def byteBits (b : Byte) : List Bool := bitsLsb 8 b.toNat

/-! ### Lossless rows (R292) -/

/-- The code of one element that is not all zero bits; `prev` is the exponent field of the one before. -/
def elementBits (eb fb : Nat) (prev : Option Nat) (code : Nat) : List Bool :=
  let ex := bitsOf code fb eb
  let d : Int := (ex : Int) - ((prev.getD 0 : Nat) : Int)
  let diff :=
    if prev.isSome && decide (-7 ≤ d) && decide (d ≤ 7) then bitsLsb 4 (d % 16).toNat else bitsLsb 4 8 ++ bitsLsb eb ex
  [true] ++ diff ++ [bitOf code (eb + fb)] ++ bitsLsb fb (bitsOf code 0 fb)

/-- The bits of a row of codes; the first argument is fuel, at least its length. -/
def rowBits (eb fb : Nat) : Nat → Option Nat → List Nat → List Bool
  | 0, _, _ => []
  | _, _, [] => []
  | n + 1, prev, c :: cs =>
    if c = 0 then
      let run := min 64 (1 + (cs.takeWhile (fun x => x == 0)).length)
      [false] ++ bitsLsb 6 (run - 1) ++ rowBits eb fb n prev (cs.drop (run - 1))
    else elementBits eb fb prev c ++ rowBits eb fb n (some (bitsOf c fb eb)) cs

def losslessRow (f : Fmt) (codes : List Nat) : List Byte :=
  match fpParams f with
  | some (eb, _, fb) => packBits (rowBits eb fb codes.length none codes)
  | none => []

/-- `n` codes of a row from its bits, and the bits left; the first argument is fuel, at least `n`. -/
def readRow (eb fb : Nat) : Nat → Nat → Option Nat → List Bool → List Nat × List Bool
  | 0, _, _, bs => ([], bs)
  | _, 0, _, bs => ([], bs)
  | k + 1, n + 1, prev, bs =>
    match bs with
    | false :: r =>
      let run := min (n + 1) (bitsNat (r.take 6) + 1)
      let (cs, rest) := readRow eb fb k (n + 1 - run) prev (r.drop 6)
      (List.replicate run 0 ++ cs, rest)
    | true :: r =>
      let d := bitsNat (r.take 4)
      let r1 := r.drop 4
      let (ex, r2) :=
        if d = 8 then (bitsNat (r1.take eb), r1.drop eb)
        else (((prev.getD 0 : Nat) + (if d < 8 then (d : Int) else (d : Int) - 16)).toNat % 2 ^ eb, r1)
      let code := (if (r2.headD false) then 2 ^ (eb + fb) else 0) + ex * 2 ^ fb + bitsNat ((r2.drop 1).take fb)
      let (cs, rest) := readRow eb fb k n (some ex) (r2.drop (1 + fb))
      (code :: cs, rest)
    | [] => (List.replicate (n + 1) 0, [])

/-- `rows` rows of `n` codes from the payload, each starting on a byte, with the bytes that each takes. -/
def readRowsOf (f : Fmt) (n : Nat) : Nat → List Byte → List (List Nat × Nat)
  | 0, _ => []
  | r + 1, bs =>
    match fpParams f with
    | none => []
    | some (eb, _, fb) =>
      let bits := bs.flatMap byteBits
      let (codes, rest) := readRow eb fb n n none bits
      let len := (bits.length - rest.length + 7) / 8
      (codes, len) :: readRowsOf f n r (bs.drop len)

/-! ### Frames (R290, R291, R293, R294) -/

def elemBytes (f : Fmt) : Nat := memBits f / 8

/-- SRC_FMT permitted for MODE (R290). -/
def keepFmtOk (mode : Nat) (f : Fmt) : Bool :=
  match f with
  | .fp32 | .bf16 | .fp16 => true
  | .e4m3 | .e5m2 => mode == 1
  | _ => false

/-- The destination of lossy coding. -/
def lossyFmt (mode : Nat) : Fmt := if mode == 2 then .e4m3 else .e5m2

def frameHeader (mode src rowBytes rows payload : Nat) : List Byte :=
  let h := leBytes 4 0x4B31 ++ leBytes 1 mode ++ leBytes 1 src ++ leBytes 2 0 ++ leBytes 4 rowBytes ++ leBytes 4 rows ++
    leBytes 8 payload
  h ++ leBytes 2 (crc16 h) ++ List.replicate 38 0

/-- The lossless or raw frame of rows of bytes (R293). -/
def losslessFrame (f : Fmt) (rowBytes : Nat) (rows : List (List Byte)) : List Byte :=
  let coded := rows.flatMap (fun r => losslessRow f (codesOf f r (rowBytes / elemBytes f)))
  let raw := rows.flatten
  if raw.length < coded.length then frameHeader 0 (fmtCode f) rowBytes rows.length raw.length ++ raw
  else frameHeader 1 (fmtCode f) rowBytes rows.length coded.length ++ coded

def lossyConv (mode randBits : Nat) : ConvCtrl := ⟨lossyFmt mode, .sr, (randBitsOf randBits).getD 12, false, true⟩

/-- Rows of a lossy frame: element codes and scale codes, with the counts (R294); the output scale of the window's ENTRY
enters (08 R224, log 88). -/
def lossyRows (cc : ConvCtrl) (ci : ConvIssue) (f : Fmt) (n : Nat) :
    Nat → List (List Byte) → Counts → List Nat × List Nat × Counts
  | _, [], c => ([], [], c)
  | i, r :: rs, c =>
    let xs := (codesOf f r n).map (fun code => elemIn ci (decodeVal f code) false)
    let (codes, scales, c1) := convertRow cc ci n i xs c
    let (codes2, scales2, c2) := lossyRows cc ci f n (i + n) rs c1
    (codes ++ codes2, scales ++ scales2, c2)

def lossyFrame (mode randBits : Nat) (ci : ConvIssue) (f : Fmt) (rowBytes : Nat) (rows : List (List Byte)) :
    List Byte × Counts :=
  let n := rowBytes / elemBytes f
  let (codes, scales, c) := lossyRows (lossyConv mode randBits) ci f n 0 rows (emptyCounts (lossyFmt mode))
  let payload := (codes ++ scales).map (fun x => BitVec.ofNat 8 x)
  (frameHeader mode (fmtCode f) rowBytes rows.length payload.length ++ payload, c)

/-- The longest frame that a store may write: its own length under lossy coding, else 64 bytes and the raw rows (R290). -/
def frameBound (mode : Nat) (f : Fmt) (rowBytes rows : Nat) : Nat :=
  let n := rowBytes / elemBytes f
  if mode = 1 then 64 + rows * rowBytes else 64 + rows * (n + (n + 31) / 32)

/-! ### Loads (R295) -/

/-- The header refuses a load of `rows` rows of `rowBytes`. -/
def headerRefused (b : List Byte) (rowBytes rows : Nat) : Bool :=
  fld b 0 4 != 0x4B31 || fld b 0x18 2 != crc16 (b.take 0x18) || fld b 6 2 != 0 || (b.drop 0x1A).any (fun x => x != 0) ||
    fld b 8 4 != rowBytes || fld b 12 4 != rows || 3 < fld b 4 1 ||
    (match fmtOfCode (fld b 5 1) with
     | some f => !keepFmtOk (if fld b 4 1 ≤ 1 then 1 else 2) f || rowBytes % elemBytes f != 0
     | none => true)

/-- A decoded lossy element: its value times its block scale, converted once. -/
def lossyElem (dst f : Fmt) (code scale : Nat) : Nat :=
  (convertTo f .rne false (mulVal (decodeVal dst code) (decodeVal .e8m0 scale))).code

/-- The raw rows of a frame: header and payload. -/
def decodeFrame (b payload : List Byte) (rowBytes rows : Nat) : List (List Byte) :=
  let mode := fld b 4 1
  let f := (fmtOfCode (fld b 5 1)).getD .fp32
  let n := rowBytes / elemBytes f
  match mode with
  | 0 => (List.range rows).map (fun r => (payload.drop (r * rowBytes)).take rowBytes)
  | 1 => (readRowsOf f n rows payload).map (fun x => rowBytesOf f x.1)
  | _ =>
    let g := (n + 31) / 32
    (List.range rows).map (fun r =>
      rowBytesOf f ((List.range n).map (fun j =>
        lossyElem (lossyFmt mode) f (payload.getD (r * n + j) 0).toNat (payload.getD (rows * n + r * g + j / 32) 0).toNat)))

/-! ### What a bad byte reaches (R296, 11 R331) -/

/-- Payload bytes up to the end of row `r` of a lossless frame. -/
def rowsEnd (f : Fmt) (n : Nat) (payload : List Byte) (r : Nat) : Nat :=
  ((readRowsOf f n (r + 1) payload).map (fun x => x.2)).sum

/-- Byte `i` of decoded row `r` does not come from a payload byte that `bad` names. A lossless row is found only behind the
rows before it. -/
def decodedGood (b payload : List Byte) (rowBytes rows : Nat) (bad : Nat → Bool) (r i : Nat) : Bool :=
  let f := (fmtOfCode (fld b 5 1)).getD .fp32
  let n := rowBytes / elemBytes f
  match fld b 4 1 with
  | 0 => !bad (r * rowBytes + i)
  | 1 => !(List.range (rowsEnd f n payload r)).any bad
  | _ =>
    let j := i / elemBytes f
    !bad (r * n + j) && !bad (rows * n + r * ((n + 31) / 32) + j / 32)

/-- Byte `k` of a frame that a store writes does not come from a raw byte that `bad` names (row, byte): under lossless coding
the header and the choice of R293 come from every raw byte, and under lossy coding a payload byte comes from its group. -/
def codedGood (mode : Nat) (f : Fmt) (rowBytes rows : Nat) (bad : Nat → Nat → Bool) (k : Nat) : Bool :=
  let n := rowBytes / elemBytes f
  let g := (n + 31) / 32
  let clean (r a len : Nat) : Bool := !(List.range (min len (rowBytes - a))).any (fun i => bad r (a + i))
  if mode ≤ 1 then (List.range rows).all (fun r => clean r 0 rowBytes)
  else if k < 64 then true
  else
    let x := k - 64
    let r := if x < rows * n then x / n else (x - rows * n) / g
    let grp := if x < rows * n then x % n / 32 else (x - rows * n) % g
    clean r (grp * 32 * elemBytes f) (32 * elemBytes f)

end Sys2Proof.Machine
end

