-- ==== Sys2Proof/Machine/MathFn.lean ====
section
/-!
DEFINITION. The functions of 06 R159 and R160, correctly rounded to FP32 (06 R158), and square roots (09 R254).
A function is evaluated as an integer interval scaled by 2^p; when both ends round to one FP32 code, that code is the
result, else the precision rises. Rational results (RECIP, exact powers) are rounded directly.
-/

namespace Sys2Proof.Machine

/-- floor(2^p × ln 2) within 2^8 (series of 1 / (k 2^k)). -/
def ln2Series (p : Nat) : Nat → Nat → Nat
  | 0, _ => 0
  | fuel + 1, k => 2 ^ p / (k * 2 ^ k) + ln2Series p fuel (k + 1)

def ln2Fix (p : Nat) : Int := (ln2Series (p + 16) (p + 20) 1 : Nat) / (2 ^ 16 : Int)

/-- Σ r^k / k! for 0 ≤ r < 2^p, from term `t` of index `k`. -/
def expSeries (p : Nat) (r : Int) : Nat → Int → Int → Int
  | 0, _, _ => 0
  | fuel + 1, t, k => t + expSeries p r fuel (t * r / (2 ^ p : Int) / k) (k + 1)

/-- 2^p × n / d toward −∞ for a signed value. -/
def fixOf (p : Nat) (v : Val) : Int := floorScaled v (-(p : Int))

/-- An interval [lo, hi] of values lo × 2^-s to hi × 2^-s. -/
structure Fix where
  lo : Int
  hi : Int
  s : Int
  deriving DecidableEq, Repr

def fixVal (x s : Int) : Val := finScaled (x < 0) x.natAbs (-s)

/-- The FP32 code when both ends of the interval round to it. -/
def settle (i : Fix) : Option Nat :=
  let a := toFp32 (fixVal i.lo i.s)
  let b := toFp32 (fixVal i.hi i.s)
  if a == b && i.lo != 0 && i.hi != 0 && (decide (i.lo < 0) == decide (i.hi < 0)) then some a else none

/-- e^y for y = x × 2^-p with an error of at most 2^12 in y: the significand interval and binary exponent. -/
def expFix (p : Nat) (y : Int) : Fix :=
  let l := ln2Fix p
  let k := Int.fdiv y l
  let r := y - k * l
  let e := expSeries p r (p + 8) (2 ^ p) 1
  let err : Int := 2 ^ 24
  ⟨e - err, e + err, p - k⟩

/-- Precisions tried in turn. -/
def precisions : List Nat := [96, 192, 384, 768]

def firstSettled (f : Nat → Fix) : List Nat → Option Nat
  | [] => none
  | p :: ps =>
    match settle (f p) with
    | some c => some c
    | none => firstSettled f ps

def settledOr (key : Nat) (arg : Nat) (f : Nat → Fix) : Nat :=
  match firstSettled f precisions with
  | some c => c
  | none => Config.freeFunction key arg

/-- e^v of a finite value as an FP32 code. -/
def expFp32 (key arg : Nat) (v : Val) : Nat :=
  if isZero v then toFp32 oneVal
  else if ltVal (.fin false 200 1) v then infCode .fp32
  else if ltVal v (.fin true 200 1) then 0
  else settledOr key arg fun p => expFix p (fixOf p v)

/-- 2^v: exact for integers, else e^(v ln 2). -/
def exp2Fp32 (key arg : Nat) (v : Val) : Nat :=
  if isZero v then toFp32 oneVal
  else if ltVal (.fin false 200 1) v then infCode .fp32
  else if ltVal v (.fin true 200 1) then 0
  else
    match v with
    | .fin _ n d =>
      if n % d == 0 then toFp32 (finScaled false 1 (floorScaled v 0))
      else settledOr key arg fun p =>
        let k := floorScaled v 0
        let r := fixOf p v - k * (2 ^ p : Int)
        let e := expFix p (r * ln2Fix p / (2 ^ p : Int))
        ⟨e.lo, e.hi, e.s - k⟩
    | _ => nanCode .fp32

/-- Σ t^(2i+1) / (2i+1) scaled by 2^p, for t scaled by 2^p. -/
def atanhSeries (p : Nat) (t2 : Int) : Nat → Int → Int → Int
  | 0, _, _ => 0
  | fuel + 1, t, k => t / k + atanhSeries p t2 fuel (t * t2 / 2 ^ p) (k + 2)

/-- ln(n / d) for n, d > 0, scaled by 2^p, within 2^24. -/
def lnFix (p n d : Nat) : Int :=
  let e := floorLog2 n d
  let m := scaled d e
  let num := n * m.2
  let den := m.1
  let t : Int := ((num - den) * 2 ^ p / (num + den) : Nat)
  e * ln2Fix p + 2 * atanhSeries p (t * t / 2 ^ p) (p + 8) t 1

def lnFp32 (key arg : Nat) (n d : Nat) : Nat :=
  settledOr key arg fun p =>
    let y := lnFix p n d
    ⟨y - 2 ^ 24, y + 2 ^ 24, p⟩

/-- log2: exact for powers of two, else ln v / ln 2. -/
def log2Fp32 (key arg : Nat) (n d : Nat) : Nat :=
  let e := floorLog2 n d
  let m := scaled d e
  if n * m.2 == m.1 then toFp32 (finScaled (e < 0) e.natAbs 0)
  else settledOr key arg fun p =>
    let y := lnFix p n d * 2 ^ p / ln2Fix p
    ⟨y - 2 ^ 40, y + 2 ^ 40, p⟩

/-- The bits of an integer square root from bit `k - 1` downward. -/
def isqrtFrom (n : Nat) : Nat → Nat → Nat
  | 0, r => r
  | k + 1, r => isqrtFrom n k (if (r + 2 ^ k) * (r + 2 ^ k) ≤ n then r + 2 ^ k else r)

/-- floor(√n). -/
def isqrt (n : Nat) : Nat := isqrtFrom n (Nat.log2 n / 2 + 1) 0

/-- √(n / d) rounded once to FP32: an integer root with a sticky bit. -/
def sqrtQ (n d : Nat) : Val :=
  let p : Nat := 400
  let x := n * 2 ^ (2 * p) / d
  let r := isqrt x
  if r * r == x && n * 2 ^ (2 * p) % d == 0 then finScaled false r (-(p : Int))
  else finScaled false (2 * r + 1) (-(p : Int) - 1)

/-- e^(−2a) interval for a ≥ 0, scaled by 2^p. -/
def expNeg (p : Nat) (y : Int) : Fix :=
  let e := expFix p (-y)
  -- bring e.s back to p: multiply by 2^(p - s)
  let sh := (e.s - p).toNat
  ⟨e.lo / 2 ^ sh, e.hi / 2 ^ sh + 1, p⟩

/-- tanh a for a > 0, as an interval scaled by 2^p. -/
def tanhFix (p : Nat) (a : Val) : Fix :=
  let e := expNeg p (2 * fixOf p a)
  let one : Int := 2 ^ p
  ⟨(one - e.hi - 4) * 2 ^ p / (one + e.hi + 4), (one - e.lo + 4) * 2 ^ p / (one + e.lo - 4) + 1, p⟩

/-- 1 / (1 + e^−a) for a > 0. -/
def sigmoidFix (p : Nat) (a : Val) : Fix :=
  let e := expNeg p (fixOf p a)
  let one : Int := 2 ^ p
  ⟨one * 2 ^ p / (one + e.hi + 4), one * 2 ^ p / (one + e.lo - 4) + 1, p⟩

/-- e^−a / (1 + e^−a) for a > 0, the value of the sigmoid at −a. -/
def sigmoidNegFix (p : Nat) (a : Val) : Fix :=
  let x := expFix p (-(fixOf p a))
  let e := expNeg p (fixOf p a)
  let one : Int := 2 ^ p
  ⟨x.lo * 2 ^ p / (one + e.hi + 4), x.hi * 2 ^ p / (one + e.lo - 4) + 1, x.s⟩

/-- Σ (−1)^i x^(2i+1) / (i! (2i+1)), scaled by 2^p. -/
def erfSeries (p : Nat) (x2 : Int) : Nat → Int → Int → Int
  | 0, _, _ => 0
  | fuel + 1, t, i => t / (2 * i + 1) + erfSeries p x2 fuel (-(t * x2 / 2 ^ p) / (i + 1)) (i + 1)

/-- Σ (−1)^i / ((2i+1) q^(2i+1)), scaled by 2^p. -/
def atanInv (p : Nat) (q2 : Int) : Nat → Int → Int → Int
  | 0, _, _ => 0
  | fuel + 1, t, k => t / k + atanInv p q2 fuel (-(t / q2)) (k + 2)

/-- π scaled by 2^p: 16 atan(1/5) − 4 atan(1/239). -/
def piFix (p : Nat) : Int :=
  16 * atanInv p 25 (p + 8) (2 ^ p / 5) 1 - 4 * atanInv p 57121 (p + 8) (2 ^ p / 239) 1

/-- erf a for 0 < a ≤ 4. -/
def erfFix (p : Nat) (a : Val) : Fix :=
  let w := p + 64
  let x := fixOf w a
  let s := 2 * erfSeries w (x * x / 2 ^ w) (4 * w) x 0
  let root : Int := (isqrt (piFix w * 2 ^ w).toNat : Nat)
  let y := s * 2 ^ w / root
  ⟨y - 2 ^ 56, y + 2 ^ 56, w⟩

def signFp32 (neg : Bool) (c : Nat) : Nat := signedCode 32 neg c

/-- A code of 06 R159 that needs a function, on an FP32 value: the FP32 result code (06 R158, R160). -/
def unaryFp32 (op : Nat) (v : Val) : Nat :=
  let arg := toFp32 v
  match op, v with
  | _, .nan => nanCode .fp32
  | 0x10, .inf s => if s then 0 else infCode .fp32
  | 0x10, v => expFp32 0x10 arg v
  | 0x11, .inf s => if s then 0 else infCode .fp32
  | 0x11, v => exp2Fp32 0x11 arg v
  | 0x12, .inf s => if s then nanCode .fp32 else infCode .fp32
  | 0x12, .fin s n d =>
    if n == 0 then signFp32 true (infCode .fp32)
    else if s then nanCode .fp32
    else if n == d then 0
    else lnFp32 0x12 arg n d
  | 0x13, .inf s => if s then nanCode .fp32 else infCode .fp32
  | 0x13, .fin s n d =>
    if n == 0 then signFp32 true (infCode .fp32)
    else if s then nanCode .fp32
    else if n == d then 0
    else log2Fp32 0x13 arg n d
  | 0x14, v => toFp32 (divVal oneVal v)
  | 0x15, .inf s => if s then nanCode .fp32 else infCode .fp32
  | 0x15, .fin s n d =>
    if n == 0 then signFp32 s 0 else if s then nanCode .fp32 else toFp32 (sqrtQ n d)
  | 0x16, .inf s => if s then nanCode .fp32 else 0
  | 0x16, .fin s n d =>
    if n == 0 then signFp32 s (infCode .fp32) else if s then nanCode .fp32 else toFp32 (sqrtQ d n)
  | 0x17, .inf s => signFp32 s (toFp32 oneVal)
  | 0x17, .fin s n d =>
    if n == 0 then signFp32 s 0
    else if ltVal (.fin false 100 1) (.fin false n d) then signFp32 s (toFp32 oneVal)
    else signFp32 s (settledOr 0x17 arg fun p => tanhFix p (.fin false n d))
  | 0x18, .inf s => if s then 0 else toFp32 oneVal
  | 0x18, .fin s n d =>
    if n == 0 then toFp32 (.fin false 1 2)
    else if ltVal (.fin false 200 1) (.fin false n d) then (if s then 0 else toFp32 oneVal)
    else if s then settledOr 0x18 arg fun p => sigmoidNegFix p (.fin false n d)
    else settledOr 0x18 arg fun p => sigmoidFix p (.fin false n d)
  | 0x19, .inf s => signFp32 s (toFp32 oneVal)
  | 0x19, .fin s n d =>
    if n == 0 then signFp32 s 0
    else if ltVal (.fin false 4 1) (.fin false n d) then signFp32 s (toFp32 oneVal)
    else signFp32 s (settledOr 0x19 arg fun p => erfFix p (.fin false n d))
  | _, _ => nanCode .fp32

/-- √ of an FP32 value with the special values of 06 R160 (09 R254). -/
def sqrtFp32 (v : Val) : Nat := unaryFp32 0x15 v
/-- 1/√ of an FP32 value with the special values of 06 R160 (09 R254). -/
def rsqrtFp32 (v : Val) : Nat := unaryFp32 0x16 v

end Sys2Proof.Machine
end

