-- ==== Sys2Proof/Machine/Inset.lean ====
section
/-!
DEFINITION. Inset operations (06 R148 to R154, 07 R191).
-/

namespace Sys2Proof.Machine

def InsetP.empty (p : InsetP) : Bool := p.m == 0 || p.kLen == 0 || p.nCols == 0

def insetOf (st : Stream) (word : Nat) (af wf : Fmt) : InsetP :=
  let a := pairN st word 64
  let wt := pairN st word 68
  let sc := pairN st word 72
  { aFmt := af
    wFmt := wf
    m := bitsOf word 26 4
    kLen := bitsOf word 30 14
    nCols := bitsOf word 44 10
    kOff := regN st word 54
    tile := bitsOf word 59 1
    row0 := bitsOf word 86 8
    aAddr := a.1
    aStride := a.2
    wAddr := wt.1
    wStride := wt.2
    asAddr := sc.1
    asStride := sc.2
    wsAddr := regN st word 76
    rdAddr := regN st word 81 }

/-- Ranges and alignments that need no operand (06 R148, 18 R528). -/
def insetRangeBad (p : InsetP) : Bool :=
  8 < p.m || 8192 < p.kLen || 512 < p.nCols || 256 < p.row0 + p.m || p.aAddr % 64 != 0 || p.aStride % 64 != 0 ||
    p.wAddr % 64 != 0 || p.wStride % 64 != 0 || p.asAddr % 64 != 0 || p.wsAddr % 64 != 0 || p.rdAddr % 64 != 0 ||
    (p.asAddr != 0 && (p.asStride % 64 != 0 || decide (p.asStride < (p.kLen + 31) / 32)))

/-- The operand that does not lie in the engine's own window, by its address (06 R148, 07 R212). -/
def insetMisplaced (e : Nat) (p : InsetP) : Option Nat :=
  let g := (p.kLen + 31) / 32
  if !ownRows e p.aAddr p.aStride (packedBytes p.aFmt p.kLen) p.m then some p.aAddr
  else if !ownRows e p.wAddr p.wStride (packedBytes p.wFmt p.nCols) p.kLen then some p.wAddr
  else if p.asAddr != 0 && !ownRows e p.asAddr p.asStride g p.m then some p.asAddr
  else if p.wsAddr != 0 && !ownRows e p.wsAddr 512 p.nCols g then some p.wsAddr
  else if p.rdAddr != 0 && !ownSpan e p.rdAddr (2 * p.kLen) then some p.rdAddr
  else none

/-- The checks of an inset operation up to its row descriptors, in the order of 07 R557. -/
def checkInset (h : Hub) (w : Work) (e q word : Nat) : Except (Code × Nat) InsetP :=
  match multiplyFmt (bitsOf word 16 5), multiplyFmt (bitsOf word 21 5) with
  | some af, some wf =>
    let p := insetOf (w.stream e q) word af wf
    if p.kOff % 32 ≠ 0 then .error (0x0204, 0)
    else if insetRangeBad p then .error (0x0203, 0)
    else if p.empty then .ok p
    else
      match insetMisplaced e p with
      | some a => .error (0x0203, a)
      | none =>
        match readDescs h w e p.rdAddr p.kLen with
        | .error x => .error x
        | .ok ds => if ds.any descBad then .error (0x0207, p.rdAddr) else .ok p
  | _, _ => .error (0x0202, 0)

/-- INSET: takes its tile, unless it has no element (18 R529). -/
def execInset (e q : Nat) (s : State) : Out :=
  onWork s fun h w => decideInstr h w e q (opcodeIs 0x20) fun w word =>
    match checkInset h w e q word with
    | .error (c, a) => refuseInstr h w e q c 0x20 a none 0
    | .ok p =>
      if p.empty then issueOp w e q word none (acquireOf word) (releaseOf word) (.inset p)
      else if tileConflict ((w.engine e).tile p.tile) false q then
        refuseInstr h (countConflict w e) e q 0x0208 0x20 0 none 0
      else
        (issueOp w e q word none (acquireOf word) (releaseOf word) (.inset p)).setEngine e
          (fun en => en.setTile p.tile (fun t => holdTile t .inset q))

def isInset (o : Op) : Bool :=
  match o.kind with
  | .inset _ => true
  | _ => false

/-- The inset path takes the next operation (06 R153): one at a time, in issue order. -/
def execInsetStart (e : Nat) (s : State) : Out :=
  onWork s fun h w =>
    let en := w.engine e
    match en.ops.find? isInset with
    | none => w
    | some o =>
      if working h w e && o.phase == .issued && mayStart en o then
        w.setEngine e (fun en => en.setOp o.id (fun x => { x with phase := .started }))
      else w

/-- The operands of an inset operation as one weight set and its tokens (06 R151). -/
def readInset (h : Hub) (w : Work) (e : Nat) (p : InsetP) :
    Except (Code × Nat) (WeightSet × List (List Nat × List Nat)) :=
  let g := (p.kLen + 31) / 32
  match readRows h w e p.aFmt p.aAddr p.aStride p.kLen p.m with
  | .error x => .error x
  | .ok acts =>
    match (if p.asAddr = 0 then .ok [] else readByteRows h w e p.asAddr p.asStride g p.m) with
    | .error x => .error x
    | .ok asc =>
      match readRows h w e p.wFmt p.wAddr p.wStride p.nCols p.kLen with
      | .error x => .error x
      | .ok rows =>
        match (if p.wsAddr = 0 then .ok [] else readByteRows h w e p.wsAddr 512 p.nCols g) with
        | .error x => .error x
        | .ok wsc =>
          match readDescs h w e p.rdAddr p.kLen with
          | .error x => .error x
          | .ok ds =>
            .ok (⟨p.wFmt, 1, p.wAddr, p.wStride, p.kLen, p.nCols, p.wsAddr, p.rdAddr, rows, wsc, ds⟩, pairUp acts asc)

/-- An inset operation faults after its start (06 R154). -/
def faultInset (h : Hub) (w : Work) (e : Nat) (o : Op) (p : InsetP) (code : Code) (addr : Nat)
    (detail : Option (Nat × Nat × Nat)) : Work :=
  let w1 := if p.empty then w else
    (spoil w e p.tile p.row0 p.m p.nCols).setEngine e (fun en => en.setTile p.tile releaseTile)
  faultOp h w1 e o code addr detail 0

/-- Steps in which a read of the inset path was not granted (06 R168). -/
def addInsetWaits (w : Work) (e waited : Nat) : Work :=
  w.setEngine e (fun en => { en with insetWaits := en.insetWaits + BitVec.ofNat 64 waited })

/-- The number of those steps is free where the operation ends before its completion (06 R168, log 80). -/
def freeInsetWaits (w : Work) (e : Nat) : Work := (addInsetWaits w e (Config.freeWord w.freeIx).toNat).tick

/-- The last element is added (06 R152), after `waited` steps in which a read was not granted (06 R168). -/
def finishInset (h : Hub) (w : Work) (e waited : Nat) : Work :=
  match (w.engine e).ops.find? isInset with
  | none => w
  | some o =>
    match o.kind with
    | .inset p =>
      if !working h w e || o.phase != .started then w
      else
        let w0 := addInsetWaits w e waited
        if p.empty then completeOp h w e o
        else
          match readInset h w0 e p with
          | .error (c, a) => faultInset h w0 e o p c a none
          | .ok (s, toks) =>
            let ev := tokensNans p.aFmt s (fun _ _ => 0) p.row0 toks
            let w1 := trapNans w0 e o 2 0 ev
            if trapHalts o ev then faultInset h w1 e o p 0x0301 0 none
            else
              completeOp h
                (w1.setEngine e (fun en =>
                  en.setTile p.tile (fun t => releaseTile (addTokens p.aFmt s p.row0 toks t)))) e o
    | _ => w

def execInsetComplete (e waited : Nat) (s : State) : Out := onWork s fun h w => finishInset h w e waited

end Sys2Proof.Machine
end

