-- ==== Sys2Proof/Machine/TilePort.lean ====
section
/-!
DEFINITION. Preloads and drains (05 R131 to R137, R140, 07 R192), with their legends and the numeric trap (08).
-/

namespace Sys2Proof.Machine

/-- A storage format of an encoded field (02 R40, R41). -/
def storageFmt (code : Nat) : Option Fmt := (fmtOfCode code).filter storageOk

/-- A tile rectangle out of range (05 R131, R133). -/
def rectBad (row0 rows cols : Nat) : Bool := 256 < row0 + rows || 512 < cols

/-- Write bytes to the engine's own SRAM (04 R109). -/
def Work.sram (w : Work) (a : Nat) (bs : List Byte) : Work := { w with mem := memWrite w.mem a bs }

/-- An FP32 value in the engine's own SRAM. -/
def sramFp32 (w : Work) (a : Nat) : Val := fp32Val (leNat (memRead w.mem a 4))

/-- Write the leading elements of a packed row: the bits past them keep what they hold, so that no other element changes
(08 R234). -/
def putElems (w : Work) (f : Fmt) (a : Nat) (codes : List Nat) : Work :=
  let n := packedBytes f codes.length
  let bits := 2 ^ (codes.length * memBits f)
  w.sram a (leBytes n (packElems f codes + leNat (memRead w.mem a n) / bits * bits))

/-- A row of packed elements in SRAM. -/
def sramRow (w : Work) (f : Fmt) (a n : Nat) : List Nat := codesOf f (memRead w.mem a (packedBytes f n)) n

def isTileOp (o : Op) : Bool := unitOfKind o.kind == .tile

/-- The tile port's operation that is next, if it may run. -/
def frontTileOp (h : Hub) (w : Work) (e : Nat) : Option Op :=
  let en := w.engine e
  match en.ops.find? isTileOp with
  | some o => if working h w e && mayStart en o then some o else none
  | none => none

/-! ### PRELOAD -/

def PreloadP.empty (p : PreloadP) : Bool := p.rows == 0 || p.cols == 0

/-- The checks of a preload before its tile, in the order of 07 R557. -/
def checkPreload (w : Work) (e q word : Nat) : Except (Code × Nat) PreloadP :=
  let st := w.stream e q
  let kind := bitsOf word 44 2
  let ad := pairN st word 51
  let tid := regN st word 55 % 2 ^ 32
  match (if kind = 0 then some Fmt.fp32 else storageFmt (bitsOf word 46 5)) with
  | none => .error (0x0202, 0)
  | some f =>
    let p : PreloadP := ⟨bitsOf word 16 1, bitsOf word 17 8, bitsOf word 25 9, bitsOf word 34 10, kind, f, ad.1, ad.2, tid⟩
    if tensorIdBad (w.engine e).ttLog2 tid then .error (0x0302, 0)
    else if rectBad p.row0 p.rows p.cols then .error (0x0203, 0)
    else if kind = 2 ∧ ad.2 % rowAlign f ≠ 0 then .error (0x0203, 0)
    else if kind ≠ 0 ∧ !p.empty ∧ !ownRows e ad.1 (if kind = 2 then ad.2 else 0) (packedBytes f p.cols) (if kind = 2 then p.rows else 1)
    then .error (0x0203, ad.1)
    else .ok p

def execPreload (e q : Nat) (s : State) : Out :=
  onWork s fun h w => decideInstr h w e q (opcodeIs 0x30) fun w word =>
    match checkPreload w e q word with
    | .error (c, a) => refuseInstr h w e q c 0x30 a none (regN (w.stream e q) word 55 % 2 ^ 32)
    | .ok p =>
      let kind := OpKind.preload p
      if p.empty then issueOp w e q word none (acquireOf word) (releaseOf word) kind
      else if tileConflict ((w.engine e).tile p.tile) false q then
        refuseInstr h (countConflict w e) e q 0x0208 0x30 0 none p.tensorId
      else
        (issueOp w e q word none (acquireOf word) (releaseOf word) kind).setEngine e
          (fun en => en.setTile p.tile (fun t => holdTile t .preload q))

/-- Source codes of row `r` of a preload. -/
def preloadRow (w : Work) (p : PreloadP) (r : Nat) : List Nat :=
  match p.srcKind with
  | 0 => List.replicate p.cols 0
  | 1 => sramRow w p.srcFmt p.srcAddr p.cols
  | _ => sramRow w p.srcFmt (p.srcAddr + r * p.srcStride) p.cols

/-- A source element as an A48 code (02 R50), counted (05 R132). -/
def preloadElem (f : Fmt) (c : Counts) (code : Nat) : Counts × Nat :=
  let v := decodeVal f code
  let a := toA48 v
  (countElem c .a48 v v v (invalidTernary f code) false ⟨a, false⟩, a)

def preloadElems (f : Fmt) : Counts → List Nat → Counts × List Nat
  | c, [] => (c, [])
  | c, x :: xs =>
    let (c1, a) := preloadElem f c x
    let (c2, as) := preloadElems f c1 xs
    (c2, a :: as)

/-- Rows `r` on, `n` of them, into the tile; the counts of what is written. -/
def preloadRows (w : Work) (p : PreloadP) : Nat → Nat → Tile → Counts → Tile × Counts
  | 0, _, t, c => (t, c)
  | n + 1, r, t, c =>
    let (c1, codes) := preloadElems p.srcFmt c (preloadRow w p r)
    preloadRows w p n (r + 1) (tileSetRow t (p.row0 + r) 0 codes) c1

/-- NaN source elements (08 R232, R234): a broadcast vector is met once, at its first row. -/
def preloadNans (w : Work) (p : PreloadP) : List NanEvent :=
  if p.srcKind = 0 then []
  else
    (List.range (if p.srcKind = 1 then 1 else p.rows)).flatMap (fun r =>
      ((preloadRow w p r).zipIdx.filter (fun x => isNan (decodeVal p.srcFmt x.1))).map (fun x => ⟨r, p.row0 + r, x.2, none⟩))

/-- Merge an operation's counts; a failing merge faults the operation (08 R221, 11 R331). -/
def mergeOp (h : Hub) (w : Work) (e : Nat) (tid : Nat) (c : Counts) : Except (Code × Nat) Work :=
  mergeLegend h w (w.engine e).ttBase tid c

/-- A preload writes its rows (05 R132); with an end, its code and address. -/
def runPreload (h : Hub) (w : Work) (e : Nat) (o : Op) (p : PreloadP) : Work × Option (Code × Nat) :=
  if p.empty then (w, none)
  else
    let ev := preloadNans w p
    let w1 := trapNans w e o 5 p.tensorId ev
    let halt := trapHalts o ev
    let rows := if halt then ((firstNan ev).map (fun x => x.step)).getD 0 else p.rows
    let (t, c) := preloadRows w p rows 0 ((w1.engine e).tile p.tile) (emptyCounts .a48)
    let w2 := w1.setEngine e (fun en => en.setTile p.tile (fun _ => t))
    match (if p.srcKind = 0 then .ok w2 else mergeOp h w2 e p.tensorId c) with
    | .error x => (w2, some x)
    | .ok w3 => (w3, if halt then some (0x0301, 0) else none)

/-- A preload is over (05 R127, R140). -/
def endPreload (h : Hub) (w : Work) (e : Nat) (o : Op) (p : PreloadP) (fault : Option (Code × Nat)) : Work :=
  let whole := p.srcKind == 0 && p.row0 == 0 && p.rows == 256 && p.cols == 512
  let w1 :=
    if p.empty then w
    else w.setEngine e (fun en => en.setTile p.tile (fun t =>
      releaseTile { t with faulted := t.faulted && !(whole && fault.isNone) }))
  match fault with
  | none => completeOp h w1 e o
  | some (c, a) => faultOp h w1 e o c a none p.tensorId

/-- The last row is written, and the tile is released. -/
def execPreloadComplete (e : Nat) (s : State) : Out :=
  onWork s fun h w =>
    match frontTileOp h w e with
    | some o =>
      (match o.kind with
       | .preload p =>
         let r := if o.phase == .ran then (w, none) else runPreload h w e o p
         wholeStep w (1, e, o.id) (endPreload h r.1 e o p r.2)
       | _ => w)
    | none => w

/-! ### DRAIN -/

def DrainP.empty (p : DrainP) : Bool := p.rows == 0 || p.cols == 0

/-- CONV_CTRL of a drain; ignored with EU_HANDOFF = 1 (05 R136). -/
def drainConv (word : Nat) : Option ConvCtrl :=
  if bitOf word 45 then some ⟨.a48, .rne, 12, false, false⟩ else convCtrlOf (bitsOf word 64 16) true

/-- Ranges and alignments of a drain that need no operand byte (05 R133, 18 R528). With EU_HANDOFF = 1 it stores nothing
and its CONV_CTRL is ignored, so OUT_ADDR and OUT_STRIDE have no row to hold (DEDUCED, log 75). -/
def drainShapeBad (p : DrainP) : Bool :=
  rectBad p.row0 p.rows p.cols || p.tsAddr % 4 != 0 || p.csAddr % 4 != 0 ||
    (!p.handoff && (p.outStride % rowAlign p.conv.dst != 0 || decide (p.outStride < packedBytes p.conv.dst p.cols)))

/-- The operand of a drain that does not lie in the engine's own window, by its address (05 R133). -/
def drainMisplaced (e : Nat) (p : DrainP) : Option Nat :=
  if p.empty then none
  else if p.tsAddr != 0 && !ownSpan e p.tsAddr (4 * p.rows) then some p.tsAddr
  else if p.csAddr != 0 && !ownSpan e p.csAddr (4 * p.cols) then some p.csAddr
  else if p.handoff then none
  else if !ownRows e p.outAddr p.outStride (packedBytes p.conv.dst p.cols) p.rows then some p.outAddr
  else if p.conv.blockOut && !ownRows e p.bsAddr 16 ((p.cols + 31) / 32) p.rows then some p.bsAddr
  else none

/-- A drain out of range: the address involved, 0 where none is (05 R133, 07 R212). -/
def drainRange (e : Nat) (p : DrainP) : Option Nat := if drainShapeBad p then some 0 else drainMisplaced e p

/-- The oldest operation of the stream with A_KIND = 1 that no drain has bound (06 R164). -/
def unboundEu (en : Engine) (q : Nat) : Option Op :=
  en.ops.find? (fun o => o.stream == q && (match o.kind with
    | .eu p b _ _ _ => p.aHandoff && b.isNone && p.rows != 0 && p.cols != 0
    | _ => false))

/-- The operation that a handoff drain binds; none where the shapes differ or there is none. -/
def bindTarget (en : Engine) (q : Nat) (p : DrainP) : Option Nat :=
  match unboundEu en q with
  | some o =>
    (match o.kind with
     | .eu x _ _ _ _ => if x.rows == p.rows && x.cols == p.cols then some o.id else none
     | _ => none)
  | none => none

/-- The checks of a drain before its tile, in the order of 07 R557. -/
def checkDrain (h : Hub) (w : Work) (e q word : Nat) : Except (Code × Nat) (DrainP × ConvIssue) :=
  let st := w.stream e q
  let out := pairN st word 80
  let tid := regN st word 99 % 2 ^ 32
  match drainConv word with
  | none => .error (0x0202, 0)
  | some cc =>
    let p : DrainP :=
      ⟨bitsOf word 16 1, bitsOf word 17 8, bitsOf word 25 9, bitsOf word 34 10, bitOf word 44, bitOf word 45, cc, out.1, out.2,
        regN st word 84, regN st word 89, regN st word 94, tid⟩
    match convIssue h w e tid (some (min 512 (max 1 p.cols))) with
    | .error x => .error x
    | .ok ci =>
      match drainRange e p with
      | some a => .error (0x0203, a)
      | none => .ok (p, ci)

/-- DRAIN: holds its tile, binds its element-unit operation and reserves its draws. -/
def execDrain (e q : Nat) (s : State) : Out :=
  onWork s fun h w => decideInstr h w e q (opcodeIs 0x31) fun w word =>
    match checkDrain h w e q word with
    | .error (c, a) => refuseInstr h w e q c 0x31 a none (regN (w.stream e q) word 99 % 2 ^ 32)
    | .ok (p, ci) =>
      let draws := !p.handoff && !p.empty && anyDraw p.conv ci.marks
      let conv := some { ci with draws := draws }
      if p.empty then issueOp w e q word conv (acquireOf word) (releaseOf word) (.drain p none)
      else if tileConflict ((w.engine e).tile p.tile) false q then
        refuseInstr h (countConflict w e) e q 0x0208 0x31 0 none p.tensorId
      else
        let bound := if p.handoff then bindTarget (w.engine e) q p else none
        if p.handoff && bound.isNone then refuseInstr h w e q 0x0209 0x31 0 none p.tensorId
        else
          let id := (w.engine e).nextId
          let w1 := issueOp w e q word conv (acquireOf word) (releaseOf word) (.drain p bound)
          let w2 := w1.setEngine e (fun en =>
            let en1 := en.setTile p.tile (fun t => holdTile t .drain q)
            match bound with
            | none => en1
            | some b => en1.setOp b (fun o => match o.kind with
              | .eu x _ rows cl f => { o with kind := .eu x (some id) rows cl f }
              | _ => o))
          if draws then reserve w2 e p.conv ci p.cols (p.rows * p.cols) else w2

/-- Row `r` of a drain before its conversion (05 R134). -/
def drainElems (w : Work) (p : DrainP) (ci : ConvIssue) (t : Tile) (r : Nat) : List ElemIn :=
  let tok := if p.tsAddr = 0 then oneVal else sramFp32 w (p.tsAddr + 4 * r)
  (List.range p.cols).map (fun j =>
    let acc := a48Val (tileGet t (p.row0 + r) j)
    let x := if p.tsAddr = 0 then acc else mulVal acc tok
    let y := if p.csAddr = 0 then x else mulVal x (sramFp32 w (p.csAddr + 4 * j))
    ⟨if ci.scale.isNone then y else mulVal y (outScale ci), y, false⟩)

/-- What a drain has done so far. -/
structure DrainState where
  work : Work
  counts : Counts
  events : List NanEvent
  handed : List (List Nat)
  halted : Bool
  deriving DecidableEq, Repr

/-- Clear row `r` of the tile as it is read (05 R135). -/
def clearRow (w : Work) (e : Nat) (p : DrainP) (r : Nat) : Work :=
  if p.clear then w.setEngine e (fun en => en.setTile p.tile (fun t => tileSetRow t (p.row0 + r) 0 (List.replicate p.cols 0)))
  else w

/-- Row `r` of a drain: read, then handed over, or stored when it is one of the first `stored`, unless a NaN halts it. -/
def drainRow (e : Nat) (o : Op) (p : DrainP) (ci : ConvIssue) (stored : Nat) (s : DrainState) (r : Nat) : DrainState :=
  if s.halted then s
  else
    let xs := drainElems s.work p ci ((s.work.engine e).tile p.tile) r
    let w1 := clearRow s.work e p r
    if p.handoff then { s with work := w1, handed := s.handed ++ [xs.map (fun x => toA48 x.value)] }
    else
      let ev : List NanEvent := (xs.zipIdx.filter (fun x => isNan x.1.value)).map (fun x => ⟨r, p.row0 + r, x.2, none⟩)
      let s1 := { s with work := w1, events := s.events ++ ev }
      if trapHalts o ev then { s1 with halted := true }
      else if stored ≤ r then s1
      else
        let (codes, scales, c) := convertRow p.conv ci p.cols (r * p.cols) xs s.counts
        let w2 := w1.sram (p.outAddr + r * p.outStride) (rowBytesOf p.conv.dst codes)
        let w3 := if p.conv.blockOut then w2.sram (p.bsAddr + r * 16) (scales.map (fun x => BitVec.ofNat 8 x)) else w2
        { s1 with work := w3, counts := c }

/-- Rows 0 to n − 1 of a drain are read, and the first `stored` of them are stored. -/
def drainRows (w : Work) (e : Nat) (o : Op) (p : DrainP) (ci : ConvIssue) (n stored : Nat) : DrainState :=
  (List.range n).foldl (drainRow e o p ci stored) ⟨w, emptyCounts p.conv.dst, [], [], false⟩

/-- Rows stored before the step in which row `n` is read (05 R135: row r is read at r × q and stored at r × q + 8). -/
def storedBefore (p : DrainP) (n : Nat) : Nat :=
  let q := if p.conv.dst = .a48 then 2 else 1
  (n * q - 8 + q - 1) / q

/-- Hand rows to the bound operation; `fin` says how the drain ended (06 R164). -/
def handOver (w : Work) (e : Nat) (b : Option Nat) (rows : List (List Nat)) (fin : Option (Option Code)) : Work :=
  match b with
  | none => w
  | some id =>
    w.setEngine e (fun en => en.setOp id (fun o => match o.kind with
      | .eu x d hd cl f =>
        { o with kind := .eu x d (hd ++ rows) (cl || fin.isSome) (match fin with
          | some c => c
          | none => f) }
      | _ => o))

/-- `n` rows of a drain are read and `stored` of them stored, with their legend and the trap; with an end, its code and
address. -/
def runDrain (h : Hub) (w : Work) (e : Nat) (o : Op) (p : DrainP) (b : Option Nat) (n stored : Nat) :
    Work × Option (Code × Nat) :=
  match o.conv with
  | none => (w, none)
  | some ci =>
    if p.empty then (w, none)
    else
      let s := drainRows w e o p ci n stored
      let w1 := trapNans s.work e o 3 p.tensorId s.events
      let w2 := handOver w1 e b s.handed none
      match (if p.handoff then .ok w2 else mergeOp h w2 e p.tensorId s.counts) with
      | .error x => (w2, some x)
      | .ok w3 => (w3, if s.halted then some (0x0301, 0) else none)

/-- A drain is over: its tile is released (05 R127, R137, R140), and the operation it feeds learns how it ended. -/
def endDrain (h : Hub) (w : Work) (e : Nat) (o : Op) (p : DrainP) (b : Option Nat)
    (fault : Option (Code × Nat × Option (Nat × Nat × Nat))) : Work :=
  let whole := p.clear && p.row0 == 0 && p.rows == 256 && p.cols == 512
  let w1 :=
    if p.empty then w
    else w.setEngine e (fun en => en.setTile p.tile (fun t =>
      releaseTile { t with faulted := (t.faulted && !(whole && fault.isNone)) || fault.isSome }))
  let w2 := handOver w1 e b [] (some (fault.map (fun x => x.1)))
  match fault with
  | none => completeOp h w2 e o
  | some (c, a, d) => faultOp h w2 e o c a d p.tensorId

/-- The last row is stored or handed over, and the tile is released. -/
def execDrainComplete (e : Nat) (s : State) : Out :=
  onWork s fun h w =>
    match frontTileOp h w e with
    | some o =>
      (match o.kind with
       | .drain p b =>
         let r := if o.phase == .ran then (w, none) else runDrain h w e o p b p.rows p.rows
         wholeStep w (1, e, o.id) (endDrain h r.1 e o p b (r.2.map (fun x => (x.1, x.2, none))))
       | _ => w)
    | none => w

end Sys2Proof.Machine
end

