-- ==== Sys2Proof/Machine/ElementUnit.lean ====
section
/-!
DEFINITION. Element-unit operations (06 R155 to R166, 07 R193).
-/

namespace Sys2Proof.Machine

/-- Codes of 06 R159. -/
def knownEuOp (op : Nat) : Bool :=
  decide (op ≤ 0x0C) || (decide (0x10 ≤ op) && decide (op ≤ 0x19)) || (decide (0x20 ≤ op) && decide (op ≤ 0x22)) ||
    op == 0x28 || op == 0x29

/-- Operands that an operation uses: 1, 2 or 3. -/
def euArity (op : Nat) : Nat :=
  match op with
  | 0x03 => 3
  | 0x0B => 3
  | 0x06 => 1
  | 0x07 => 1
  | 0x0C => 1
  | n => if n ≤ 0x0A then 2 else 1

/-- Functions and online softmax run only at PREC = 0 (06 R158). -/
def fp32Only (op : Nat) : Bool := (decide (0x10 ≤ op) && decide (op ≤ 0x19)) || op == 0x28 || op == 0x29

/-- One value per row (06 R159, R162). -/
def rowWise (op : Nat) : Bool := (decide (0x20 ≤ op) && decide (op ≤ 0x22)) || op == 0x28

def isSmax (op : Nat) : Bool := op == 0x28 || op == 0x29

def EuP.empty (p : EuP) : Bool := p.rows == 0 || p.cols == 0

/-- Elements per output row. -/
def EuP.outCols (p : EuP) : Nat := if rowWise p.op then 1 else p.cols

/-- Whether an operand is a tensor or a vector of a format that is not a storage format (02 R41). -/
def operandFmt (used : Bool) (kind code : Nat) : Option Fmt := if !used || kind == 3 then some .fp32 else storageFmt code

def euOperandOf (st : Stream) (word lo kind : Nat) (f : Fmt) : EuOperand :=
  let ad := pairN st word lo
  ⟨kind, f, ad.1, ad.2, ad.1 % 2 ^ 32⟩

/-- An operand's stride off its grid; the part of 06 R156 that needs no operand byte (18 R528). -/
def operandGridBad (x : EuOperand) : Bool := x.kind == 0 && x.stride % rowAlign x.fmt != 0

/-- An operand lies in the engine's own window. -/
def operandPlaced (e : Nat) (x : EuOperand) (rows cols : Nat) : Bool :=
  match x.kind with
  | 0 => ownRows e x.addr x.stride (packedBytes x.fmt cols) rows
  | 1 => ownSpan e x.addr (packedBytes x.fmt cols)
  | 2 => ownSpan e x.addr (packedBytes x.fmt rows)
  | _ => true

/-- Bytes of one output row. -/
def EuP.outRow (p : EuP) : Nat := packedBytes p.conv.dst p.outCols

/-- Ranges and alignments of an operation that need no operand byte (06 R156, R158; 18 R528). -/
def euShapeBad (p : EuP) : Bool :=
  let n := euArity p.op
  (fp32Only p.op && p.prec == 1) || 65536 < p.rows || 65536 < p.cols || 16777216 < p.rows * p.cols ||
    (!p.aHandoff && operandGridBad p.a) || (decide (2 ≤ n) && operandGridBad p.b) || (n == 3 && operandGridBad p.c) ||
    (p.op != 0x28 && (p.outStride % rowAlign p.conv.dst != 0 || decide (p.outStride < p.outRow))) ||
    (isSmax p.op && p.stateAddr % 16 != 0)

/-- The operand that does not lie in the engine's own window, by its address (06 R156). -/
def euMisplaced (e : Nat) (p : EuP) : Option Nat :=
  let n := euArity p.op
  if p.empty then none
  else if !p.aHandoff && !operandPlaced e p.a p.rows p.cols then some p.a.addr
  else if decide (2 ≤ n) && !operandPlaced e p.b p.rows p.cols then some p.b.addr
  else if n == 3 && !operandPlaced e p.c p.rows p.cols then some p.c.addr
  else if p.op != 0x28 && !ownRows e p.outAddr p.outStride p.outRow p.rows then some p.outAddr
  else if isSmax p.op && !ownSpan e p.stateAddr (16 * p.rows) then some p.stateAddr
  else none

/-- An operation out of range: the address involved, 0 where none is (07 R212). -/
def euRange (e : Nat) (p : EuP) : Option Nat := if euShapeBad p then some 0 else euMisplaced e p

/-- The checks of an operation, in the order of 07 R557. They are one list for every operation: TENSOR_ID, its entry and the
channel map of SMAX_UPDATE, which converts nothing, are checked too (DESIGN CHOICE, log 76), and ROW_SUM is accepted with
PREC = 0 as with PREC = 1 (log 77). -/
def checkEu (h : Hub) (w : Work) (e q word : Nat) : Except (Code × Nat) (EuP × ConvIssue) :=
  let st := w.stream e q
  let op := bitsOf word 16 8
  let n := euArity op
  let ak := bitOf word 25
  let bk := bitsOf word 26 2
  let ck := bitsOf word 28 2
  let shape := regN st word 45
  let tid := regN st word 55 % 2 ^ 32
  let out := pairN st word 92
  if !knownEuOp op then .error (0x0202, 0)
  else
    match operandFmt (!ak) 0 (bitsOf word 30 5), operandFmt (decide (2 ≤ n)) bk (bitsOf word 35 5),
      operandFmt (n == 3) ck (bitsOf word 40 5), convCtrlOf (bitsOf word 64 16) false with
    | some fa, some fb, some fc, some cc =>
      let p : EuP :=
        ⟨op, bitsOf word 24 1, bitsOf shape 0 32, bitsOf shape 32 32, ak, euOperandOf st word 80 0 fa,
          euOperandOf st word 84 bk fb, euOperandOf st word 88 ck fc, cc, out.1, out.2, regN st word 50, tid⟩
      match convIssue h w e tid (some (min p.cols 65536)) with
      | .error x => .error x
      | .ok ci =>
        match euRange e p with
        | some a => .error (0x0203, a)
        | none => .ok (p, ci)
    | _, _, _, _ => .error (0x0202, 0)

/-- Issue an element-unit operation and reserve its draws (02 R67). -/
def issueEu (h : Hub) (w : Work) (e q word : Nat) : Work :=
  match checkEu h w e q word with
  | .error (c, a) => refuseInstr h w e q c 0x40 a none (regN (w.stream e q) word 55 % 2 ^ 32)
  | .ok (p, ci) =>
    let draws := !p.empty && p.op != 0x28 && anyDraw p.conv ci.marks
    let w1 := issueOp w e q word (some { ci with draws := draws }) (acquireOf word) (releaseOf word) (.eu p none [] false none)
    if draws then reserve w1 e p.conv ci p.outCols (p.rows * p.outCols) else w1

def euOpIs (f : Nat → Bool) (word : Nat) : Bool := opcodeIs 0x40 word && f (bitsOf word 16 8)

/-- EU: every operation but the two of the online softmax. -/
def execEu (e q : Nat) (s : State) : Out :=
  onWork s fun h w => decideInstr h w e q (euOpIs (fun op => !isSmax op)) fun w word => issueEu h w e q word

/-- SMAX_UPDATE (06 R162). -/
def execSmaxUpdate (e q : Nat) (s : State) : Out :=
  onWork s fun h w => decideInstr h w e q (euOpIs (fun op => op == 0x28)) fun w word => issueEu h w e q word

/-- SMAX_FINAL (06 R162). -/
def execSmaxFinal (e q : Nat) (s : State) : Out :=
  onWork s fun h w => decideInstr h w e q (euOpIs (fun op => op == 0x29)) fun w word => issueEu h w e q word

/-! ### Values (06 R157 to R162) -/

/-- The lane precision; ROW_SUM has only A48, whatever PREC is (06 R159): every operand enters its sum as it is stored (03
R74). -/
def laneFmt (p : EuP) : Fmt := if p.prec == 1 || p.op == 0x20 then .a48 else .fp32

/-- Row `r` of an operand: its values in the lane precision, and whether each is a ternary 0b10. -/
def operandRow (w : Work) (p : EuP) (x : EuOperand) (r : Nat) : List (Val × Bool) :=
  let f (c : Nat) := (rneVal (laneFmt p) (decodeVal x.fmt c), invalidTernary x.fmt c)
  match x.kind with
  | 0 => (sramRow w x.fmt (x.addr + r * x.stride) p.cols).map f
  | 1 => (sramRow w x.fmt x.addr p.cols).map f
  | 2 => List.replicate p.cols (f ((sramRow w x.fmt x.addr p.rows).getD r 0))
  | _ => List.replicate p.cols (rneVal (laneFmt p) (fp32Val x.imm), false)

/-- Row `r` of operand a: handed over as A48 codes, or read. -/
def operandA (w : Work) (p : EuP) (handed : List (List Nat)) (r : Nat) : List (Val × Bool) :=
  if p.aHandoff then (handed.getD r []).map (fun c => (rneVal (laneFmt p) (a48Val c), false)) else operandRow w p p.a r

/-- The row state record (06 R162): RUN_MAX and RUN_SUM as codes. -/
def rowState (w : Work) (p : EuP) (r : Nat) : Nat × Nat :=
  (leNat (memRead w.mem (p.stateAddr + 16 * r) 4), leNat (memRead w.mem (p.stateAddr + 16 * r + 4) 6))

/-- e^x of a value already rounded to FP32. -/
def expVal (x : Val) : Val := fp32Val (unaryFp32 0x10 x)

def subFp32 (a b : Val) : Val := rneVal .fp32 (subVal a b)

/-- The result of one element in the lane precision. -/
def euElem (p : EuP) (st : Nat × Nat) (a b c : Val) : Val :=
  let l := laneFmt p
  let flag (x : Bool) : Val := if x then oneVal else posZero
  match p.op with
  | 0x00 => rneVal l (addVal a b)
  | 0x01 => rneVal l (subVal a b)
  | 0x02 => rneVal l (mulVal a b)
  | 0x03 => rneVal l (addVal (mulVal a b) c)
  | 0x04 => maxVal a b
  | 0x05 => minVal a b
  | 0x06 => absVal a
  | 0x07 => negVal a
  | 0x08 => flag (eqVal a b)
  | 0x09 => flag (ltVal a b)
  | 0x0A => flag (leVal a b)
  | 0x0B => if eqVal a posZero then c else b
  | 0x0C => a
  | 0x29 =>
    let m := fp32Val st.1
    if m == .inf true then .nan
    else rneVal .fp32 (mulVal (expVal (subFp32 a m)) (fp32Val (unaryFp32 0x14 (rneVal .fp32 (a48Val st.2)))))
  | op => fp32Val (unaryFp32 op a)

/-- ROW_MAX and ROW_MIN over a row. -/
def rowFold (f : Val → Val → Val) : List Val → Val
  | [] => posZero
  | x :: xs => xs.foldl f x

/-- The new row record of SMAX_UPDATE: RUN_MAX and RUN_SUM as codes. -/
def smaxUpdate (st : Nat × Nat) (row : List Val) : Nat × Nat :=
  let runMax := fp32Val st.1
  let mNew := maxVal runMax (rowFold maxVal row)
  if mNew == .inf true then st
  else
    let f := expVal (subFp32 runMax mNew)
    let t := datumSum (row.map (fun a => expVal (subFp32 a mNew)))
    (toFp32 mNew, addA48 (toA48 (mulVal (a48Val st.2) f)) t)

/-- A row reduction's result. -/
def euRow (p : EuP) (row : List Val) : Val :=
  match p.op with
  | 0x20 => a48Val (datumSum row)
  | 0x21 => rowFold maxVal row
  | _ => rowFold minVal row

/-! ### Rows run (06 R165, R166; 08 R234) -/

/-- The step of element `i`, or of a handed row (06 R165). -/
def euStep (p : EuP) (r c : Nat) : Nat := if p.aHandoff then r else (r * p.cols + c) / 2048

structure EuState where
  work : Work
  counts : Counts
  events : List NanEvent
  halted : Bool
  deriving DecidableEq, Repr

/-- Store converted values from element index `i` on at row `r`: a whole row, or, at a fault within the row, its leading
elements and no other (06 R166, 08 R234). The value of a row reduction has column 0 (DESIGN CHOICE, log 78). -/
def euStore (w : Work) (p : EuP) (ci : ConvIssue) (r i : Nat) (xs : List ElemIn) (c : Counts) : Work × Counts :=
  let (codes, _, c1) := convertRow p.conv ci p.outCols i xs c
  let a := p.outAddr + r * p.outStride
  (if codes.length < p.outCols then putElems w p.conv.dst a codes else w.sram a (rowBytesOf p.conv.dst codes), c1)

/-- Row `r` of an operation with a result per element: what goes to the conversion, and whether a NaN was met. An output
counts one non-finite value however many ternary 0b10 codes were read for it (DESIGN CHOICE, log 79). -/
def euElems (w : Work) (p : EuP) (ci : ConvIssue) (handed : List (List Nat)) (r : Nat) : List (ElemIn × Bool) :=
  let n := euArity p.op
  let as := operandA w p handed r
  let bs := if 2 ≤ n then operandRow w p p.b r else List.replicate p.cols (posZero, false)
  let cs := if n = 3 then operandRow w p p.c r else List.replicate p.cols (posZero, false)
  let st := if isSmax p.op then rowState w p r else (0, 0)
  (List.zip as (List.zip bs cs)).map (fun x =>
    let v := euElem p st x.1.1 x.2.1.1 x.2.2.1
    (elemIn ci v (x.1.2 || x.2.1.2 || x.2.2.2), isNan x.1.1 || isNan x.2.1.1 || isNan x.2.2.1 || isNan v))

/-- The NaNs of such a row. -/
def elemNans (p : EuP) (r : Nat) (vals : List (ElemIn × Bool)) : List NanEvent :=
  (vals.zipIdx.filter (fun x => x.1.2)).map (fun x => ⟨euStep p r x.2, r, x.2, none⟩)

/-- The first `lim` elements of a row of an operation with a result per element. -/
def euElemRow (o : Op) (p : EuP) (ci : ConvIssue) (handed : List (List Nat)) (lim : Nat) (s : EuState) (r : Nat) : EuState :=
  let vals := (euElems s.work p ci handed r).take lim
  let ev := elemNans p r vals
  let halt := trapHalts o ev
  let good := if halt then vals.takeWhile (fun x => !x.2) else vals
  let (w1, c1) := euStore s.work p ci r (r * p.cols) (good.map (fun x => x.1)) s.counts
  ⟨if good.isEmpty then s.work else w1, if good.isEmpty then s.counts else c1, s.events ++ ev, halt⟩

/-- The record of row `r` after SMAX_UPDATE, as codes. -/
def smaxRow (w : Work) (p : EuP) (handed : List (List Nat)) (r : Nat) : Nat × Nat :=
  smaxUpdate (rowState w p r) ((operandA w p handed r).map (fun x => x.1))

/-- The NaNs of a row of a row operation or of SMAX_UPDATE. A NaN that the row itself makes has column 0. -/
def reduceNans (w : Work) (p : EuP) (handed : List (List Nat)) (r : Nat) : List NanEvent :=
  let row := (operandA w p handed r).map (fun x => x.1)
  let upd := smaxRow w p handed r
  let made := if p.op == 0x28 then isNan (fp32Val upd.1) || isNan (a48Val upd.2) else isNan (euRow p row)
  let ev : List NanEvent := (row.zipIdx.filter (fun x => isNan x.1)).map (fun x => ⟨euStep p r x.2, r, x.2, none⟩)
  if ev.isEmpty && made then [⟨euStep p r 0, r, 0, none⟩] else ev

/-- One row of a row operation or of SMAX_UPDATE: its value is stored, or its record of 16 bytes is written whole, the
reserved bytes as 0 (06 R162, R163). -/
def euReduceRow (o : Op) (p : EuP) (ci : ConvIssue) (handed : List (List Nat)) (s : EuState) (r : Nat) : EuState :=
  let as := operandA s.work p handed r
  let ev := reduceNans s.work p handed r
  let upd := smaxRow s.work p handed r
  if trapHalts o ev then { s with events := s.events ++ ev, halted := true }
  else if p.op == 0x28 then
    { s with
      work := s.work.sram (p.stateAddr + 16 * r) (leBytes 4 upd.1 ++ leBytes 6 upd.2 ++ leBytes 6 0)
      events := s.events ++ ev }
  else
    let (w1, c1) := euStore s.work p ci r r [elemIn ci (euRow p (as.map (fun x => x.1))) (as.any (fun x => x.2))] s.counts
    ⟨w1, c1, s.events ++ ev, false⟩

/-- A row after the one that halted the operation writes nothing; the NaNs that it meets in the halting step still reach
the trap (08 R233). -/
def euLateRow (p : EuP) (ci : ConvIssue) (handed : List (List Nat)) (s : EuState) (r : Nat) : EuState :=
  match firstNan s.events with
  | some f =>
    if euStep p r 0 ≤ f.step then
      { s with
        events := s.events ++
          (if rowWise p.op then reduceNans s.work p handed r else elemNans p r (euElems s.work p ci handed r)) }
    else s
  | none => s

def euRowStep (o : Op) (p : EuP) (ci : ConvIssue) (handed : List (List Nat)) (s : EuState) (r : Nat) : EuState :=
  if s.halted then euLateRow p ci handed s r
  else if rowWise p.op then euReduceRow o p ci handed s r
  else euElemRow o p ci handed p.cols s r

/-- The elements of row `n` that are written when the operation ends within that row. -/
def euPartRow (o : Op) (p : EuP) (ci : ConvIssue) (handed : List (List Nat)) (s : EuState) (n part : Nat) : EuState :=
  if part = 0 ∨ s.halted ∨ rowWise p.op then s else euElemRow o p ci handed part s n

/-- Rows 0 to n − 1 run, and `part` elements of row `n`, with their legend and the trap; with an end, its code and address. -/
def runEu (h : Hub) (w : Work) (e : Nat) (o : Op) (p : EuP) (handed : List (List Nat)) (n part : Nat) :
    Work × Option (Code × Nat) :=
  match o.conv with
  | none => (w, none)
  | some ci =>
    if p.empty then (w, none)
    else
      let s := euPartRow o p ci handed
        ((List.range n).foldl (euRowStep o p ci handed) ⟨w, emptyCounts p.conv.dst, [], false⟩) n part
      let w1 := trapNans s.work e o 4 p.tensorId s.events
      match mergeOp h w1 e p.tensorId s.counts with
      | .error x => (w1, some x)
      | .ok w2 => (w2, if s.halted then some (0x0301, 0) else none)

def isEu (o : Op) : Bool := unitOfKind o.kind == .eu

/-- The element unit's operation, if it may run: with a handoff, once its drain is over. -/
def frontEu (h : Hub) (w : Work) (e : Nat) : Option Op :=
  let en := w.engine e
  match en.ops.find? isEu with
  | some o =>
    (match o.kind with
     | .eu p _ _ closed _ => if working h w e && mayStart en o && (!p.aHandoff || p.empty || closed) then some o else none
     | _ => none)
  | none => none

/-- An element-unit operation is over. -/
def endEu (h : Hub) (w : Work) (e : Nat) (o : Op) (tid : Nat) (fault : Option (Code × Nat)) : Work :=
  match fault with
  | none => completeOp h w e o
  | some (c, a) => faultOp h w e o c a none tid

/-- Steps in which a read of an operation that ended early was not granted: their number is free (06 R168, log 80). -/
def addEuWaits (w : Work) (e waited : Nat) : Work :=
  w.setEngine e (fun en => { en with euWaits := en.euWaits + BitVec.ofNat 64 waited })

def freeEuWaits (w : Work) (e : Nat) : Work := (addEuWaits w e (Config.freeWord w.freeIx).toNat).tick

/-- Rows that the operation processes: all of them, or those that a faulted drain handed over (06 R164). -/
def euRows (p : EuP) (handed : List (List Nat)) : Nat := if p.aHandoff then handed.length else p.rows

/-- The last output or record is written (06 R165), after `waited` steps in which a read was not granted (06 R168). -/
def execEuComplete (e waited : Nat) (s : State) : Out :=
  onWork s fun h w =>
    match frontEu h w e with
    | some o =>
      (match o.kind with
       | .eu p _ handed _ f =>
         let w0 := addEuWaits w e waited
         let r := if o.phase == .ran then (w0, none) else runEu h w0 e o p handed (euRows p handed) 0
         wholeStep w (1, e, o.id)
           (endEu h r.1 e o p.tensorId
             (match r.2 with
              | some x => some x
              | none => f.map (fun c => (c, 0))))
       | _ => w)
    | none => w

/-! ### LEGEND_MERGE (08 R221) -/

/-- An operation that converts runs and merges its counts before it is complete. -/
def mergeEarly (h : Hub) (w : Work) (e id : Nat) : Work :=
  let ran (w : Work) : Work := w.setEngine e (fun en => en.setOp id (fun o => { o with phase := .ran }))
  match (w.engine e).op id with
  | none => w
  | some o =>
    if o.phase == .ran then w
    else
      match o.kind with
      | .preload p =>
        if frontTileOp h w e != some o then w
        else
          (match runPreload h w e o p with
           | (w1, none) => ran w1
           | (w1, some x) => endPreload h w1 e o p (some x))
      | .drain p b =>
        if frontTileOp h w e != some o then w
        else
          (match runDrain h w e o p b p.rows p.rows with
           | (w1, none) => ran w1
           | (w1, some x) => endDrain h w1 e o p b (some (x.1, x.2, none)))
      | .eu p _ handed _ _ =>
        if frontEu h w e != some o then w
        else
          (match runEu h w e o p handed (euRows p handed) 0 with
           | (w1, none) => ran w1
           | (w1, some x) => endEu h (freeEuWaits w1 e) e o p.tensorId (some x))
      | _ => w

def execLegendMerge (e id : Nat) (s : State) : Out := onWork s fun h w => wholeStep w (2, e, id) (mergeEarly h w e id)

end Sys2Proof.Machine
end

