-- ==== Sys2Proof/Machine/Transfer.lean ====
section
/-!
DEFINITION. Bulk transfers, keep windows and ATOMIC (07 R194 to R196, 10 R289 to R297, R311; 12 R374, R375).
-/

namespace Sys2Proof.Machine

/-- A 64-bit value as a signed stride. -/
def signed64 (n : Nat) : Int := if n < 2 ^ 63 then (n : Int) else (n : Int) - 2 ^ 64

/-- Start of row `r` of a block, modulo 2^64. -/
def rowAddr (a : Nat) (stride : Int) (r : Nat) : Nat := (((a : Int) + stride * r) % (2 ^ 64 : Int)).toNat

/-! ### Keep windows (10 R289, R310, R311) -/

def keepOn (k : KeepWindow) : Bool := bitsOf k.size.toNat 6 41 != 0 && k.ctrl.toNat % 4 != 0
def keepFirst (k : KeepWindow) : Nat := k.base.toNat / 64 * 64
def keepEnd (k : KeepWindow) : Nat := keepFirst k + bitsOf k.size.toNat 6 41 * 64

def keepHolds (k : KeepWindow) (a n : Nat) : Bool := keepOn k && decide (keepFirst k ≤ a) && decide (a + n ≤ keepEnd k)
def keepMeets (k : KeepWindow) (a n : Nat) : Bool := keepOn k && decide (a < keepEnd k) && decide (keepFirst k < a + n)

/-- The window that a transfer enters; a store partly inside a window, or inside both, is refused (R289). The place of a block
without bytes is its far address (DESIGN CHOICE, log 89). -/
def windowFor (en : Engine) (load : Bool) (far : Nat) (farStride : Int) (rowBytes rows : Nat) : Except (Code × Nat) (Option KeepWindow) :=
  let all (f : KeepWindow → Nat → Nat → Bool) (k : KeepWindow) := (List.range rows).all (fun r => f k (rowAddr far farStride r) rowBytes)
  let any (f : KeepWindow → Nat → Nat → Bool) (k : KeepWindow) := (List.range rows).any (fun r => f k (rowAddr far farStride r) rowBytes)
  if load || rowBytes = 0 || rows = 0 then .ok (en.keep.find? (fun k => keepHolds k far 1))
  else if en.keep.any (fun k => any keepMeets k && !all keepHolds k) then .error (0x0203, far)
  else
    match en.keep.filter (all keepHolds) with
    | [] => .ok none
    | [k] => .ok (some k)
    | _ => .error (0x0203, far)

/-- The settings of a window that a transfer enters, or its refusal (R290, R311). -/
def keepUse (en : Engine) (load : Bool) (k : KeepWindow) (far rowBytes rows : Nat) : Except (Code × Nat) KeepUse :=
  let c := k.ctrl.toNat
  let u : KeepUse := ⟨bitsOf c 0 2, bitsOf c 2 5, bitsOf c 7 2, bitsOf c 9 20⟩
  if tensorIdBad en.ttLog2 u.entry then .error (0x0302, far)
  else
    match fmtOfCode u.srcFmt with
    | none => .error (0x0203, far)
    | some f =>
      if !keepFmtOk u.mode f || u.randBits == 3 || bitsOf c 29 35 != 0 then .error (0x0203, far)
      else if load then .ok u
      else if far % 64 != 0 || rowBytes % elemBytes f != 0 ||
          (rowBytes != 0 && rows != 0 && !decide (far + frameBound u.mode f rowBytes rows ≤ keepEnd k)) then
        .error (0x0203, far)
      else .ok u

/-! ### Issue (07 R194) -/

/-- A span of the far block touches the register space of its module (01 R29, 07 R194). -/
def hitsRegs (h : Hub) (a n : Nat) : Bool :=
  let hits (l : Nat) : Bool := decide (l < regBase + 0x10000000) && decide (regBase < l + n)
  match targetOf h a with
  | .self l => hits l
  | .remote _ l => hits l
  | .none => false

/-- The conversion of a lossy store: its tensor entry is read at issue (08 R224, 10 R294). -/
def bulkConv (h : Hub) (w : Work) (e : Nat) (load : Bool) (k : Option KeepUse) : Except (Code × Nat) (Option ConvIssue) :=
  match k with
  | some u =>
    if !load && decide (2 ≤ u.mode) then
      match convIssue h w e u.entry none with
      | .error x => .error x
      | .ok ci => .ok (some { ci with draws := true })
    else .ok none
  | none => .ok none

/-- The checks of a bulk transfer, in the order of 07 R557. Those of its window need no operand byte (18 R528). -/
def checkBulk (h : Hub) (w : Work) (e q word : Nat) (load : Bool) : Except (Code × Nat) (BulkP × Option ConvIssue) :=
  let en := w.engine e
  let st := w.stream e q
  let far := regN st word 16
  let farStride := signed64 (regN st word 21)
  let near := pairN st word 26
  let nearStride := signed64 near.2
  let shape := regN st word 30
  let rowBytes := bitsOf shape 0 32
  let rows := bitsOf shape 32 32
  let p (k : Option KeepUse) : BulkP :=
    ⟨load, far, farStride, near.1, nearStride, rowBytes, rows, bitOf word 35, bitOf word 36, k, false, [], [], none⟩
  match (match windowFor en load far farStride rowBytes rows with
         | .error x => (.error x : Except (Code × Nat) (Option KeepUse))
         | .ok none => .ok none
         | .ok (some k) =>
           match keepUse en load k far rowBytes rows with
           | .error x => .error x
           | .ok u => .ok (some u)) with
  | .error x => .error x
  | .ok k =>
    match bulkConv h w e load k with
    | .error x => .error x
    | .ok ci =>
      if rowBytes = 0 ∨ rows = 0 then .ok (p k, ci.map (fun c => { c with draws := false }))
      else if !(List.range rows).all (fun r => inSram e (rowAddr near.1 nearStride r) rowBytes) then .error (0x0203, near.1)
      else if (List.range rows).any (fun r => hitsRegs h (rowAddr far farStride r) rowBytes) then .error (0x0401, far)
      else .ok (p k, ci)

def bulkElems (p : BulkP) : Nat :=
  match p.keep.bind (fun u => fmtOfCode u.srcFmt) with
  | some f => p.rowBytes / elemBytes f
  | none => 0

def issueBulk (h : Hub) (w : Work) (e q word : Nat) (load : Bool) : Work :=
  match checkBulk h w e q word load with
  | .error (c, a) => refuseInstr h w e q c (bitsOf word 0 8) a none 0
  | .ok (p, conv) =>
    let w1 := issueOp w e q word conv (acquireOf word) (releaseOf word) (.bulk p)
    match conv, p.keep with
    | some ci, some u => reserve w1 e (lossyConv u.mode u.randBits) ci (bulkElems p) (p.rows * bulkElems p)
    | _, _ => w1

def execBulkLoad (e q : Nat) (s : State) : Out :=
  onWork s fun h w => decideInstr h w e q (opcodeIs 0x50) fun w word => issueBulk h w e q word true

def execBulkStore (e q : Nat) (s : State) : Out :=
  onWork s fun h w => decideInstr h w e q (opcodeIs 0x51) fun w word => issueBulk h w e q word false

/-! ### Transfers run -/

/-- A span cut at 4,096-byte boundaries, so that each 64-byte word lies in one packet (12 R374): (offset, length). -/
def farSpansFuel : Nat → Nat → Nat → Nat → List (Nat × Nat)
  | 0, _, _, _ => []
  | n + 1, a, off, len =>
    if len = 0 then []
    else
      let k := min len (4096 - (a + off) % 4096)
      (off, k) :: farSpansFuel n a (off + k) (len - k)

def farSpans (a len : Nat) : List (Nat × Nat) := farSpansFuel (len / 4096 + 2) a 0 len

/-- The far block of a plain transfer in packets: (far address, near address, length). -/
def bulkSpans (p : BulkP) : List (Nat × Nat × Nat) :=
  (List.range p.rows).flatMap (fun r =>
    let f := rowAddr p.far p.farStride r
    let n := rowAddr p.near p.nearStride r
    (farSpans f p.rowBytes).map (fun s => ((f + s.1) % 2 ^ 64, n + s.1, s.2)))

def isRemote (h : Hub) (a : Nat) : Bool :=
  match targetOf h a with
  | .remote .. => true
  | _ => false

def minFault (a b : Option (Code × Nat)) : Option (Code × Nat) :=
  match a, b with
  | none, x => x
  | x, none => x
  | some x, some y => if y.2 < x.2 then some y else some x

/-- The transfer may begin: it and every earlier one of the unit (07 R184, R186). -/
def mayTransfer (en : Engine) (o : Op) : Bool :=
  (unitOps en .transfer o.stream).all (fun x => decide (o.id < x.id) || mayStart en x)

def setBulk (w : Work) (e : Nat) (o : Op) (f : BulkP → BulkP) : Work :=
  w.setEngine e (fun en => en.setOp o.id (fun x => match x.kind with
    | .bulk p => { x with kind := .bulk (f p) }
    | _ => x))

/-- Send one request packet of a bulk transfer; a packet refused at its origin is a failing access. -/
def sendBulk (h : Hub) (e : Nat) (o : Op) (p : BulkP) (w : Work) (far len : Nat) (payload : List Byte) : Work :=
  match targetOf h far with
  | .remote m a =>
    let tag := w.fabric.nextTag
    (match sendRequest h w 0xFFFF m (if p.background then 3 else 2) (if p.load then 0x01 else 0x02) a len payload (.bulk e o.id far) with
     | (w1, c) =>
       if c = 0 then setBulk w1 e o (fun p => { p with waiting := p.waiting ++ [tag] })
       else setBulk w1 e o (fun p => { p with fail := minFault p.fail (some (c, far)) }))
  | _ => w

/-- Bytes of the far block: read here, or come back from another module. -/
def farRead (h : Hub) (w : Work) (e : Nat) (p : BulkP) (far n : Nat) : Except (Code × Nat) (List Byte) :=
  match targetOf h far with
  | .self a =>
    (match engineRead h w e a n with
     | .ok b => .ok b
     | .error (c, x) => .error (c, far + (x - a)))
  | .remote .. => .ok ((List.range n).map (fun i => alGet 0#8 p.got (far + i)))
  | .none => .error (0x0401, far)

/-- Lines of a local far block are taken into the edge cache (07 R194). -/
def allocFar (h : Hub) (w : Work) (e : Nat) (p : BulkP) (far n : Nat) : Work :=
  match targetOf h far with
  | .self a =>
    if p.noAlloc then w
    else
      (match engineAddr h w e false a with
       | .ok x => cacheRead h w (agentOf e) x n
       | .error _ => w)
  | _ => w

/-- Write one span of the far block that lies here. -/
def farWrite (h : Hub) (w : Work) (e : Nat) (p : BulkP) (far : Nat) (bs : List Byte) : Except (Code × Nat) Work :=
  match targetOf h far with
  | .self a =>
    (match engineStore h w e p.noAlloc a bs with
     | .ok w1 => .ok w1
     | .error (c, x) => .error (c, far + (x - a)))
  | .remote .. => .ok w
  | .none => .error (0x0401, far)

/-- 64-byte words of a span: (address, bytes). -/
def wordParts (a : Nat) (bs : List Byte) : List (Nat × List Byte) :=
  (lineParts a bs).flatMap (fun x =>
    let k := 64 - x.1 % 64
    if x.2.length ≤ k then [x] else [(x.1, x.2.take k), (x.1 + k, x.2.drop k)])

/-- A transfer that faulted after its start: each 64-byte word of the destination is old or new (07 R195). -/
def partialWords (w : Work) (parts : List (Nat × List Byte)) (store : Work → Nat → List Byte → Work) : Work :=
  let ix := w.freeIx
  (parts.foldl (fun w x => if Config.freeKeepsOld ix (x.1 / 64) then w else store w x.1 x.2) w).tick

/-- The parts of the 64-byte words that have all their bytes: a word of which a part is missing stays old (07 R195). -/
def wholeWords (parts : List (Nat × Option (List Byte))) : List (Nat × List Byte) :=
  let missing (a : Nat) : Bool := parts.any (fun x => x.1 / 64 == a / 64 && x.2.isNone)
  parts.filterMap (fun x => if missing x.1 then none else x.2.map (fun b => (x.1, b)))

/-- The translations that an access to these far addresses takes are kept (11 R325). -/
def keepFar (h : Hub) (w : Work) (e : Nat) (spans : List Nat) : Work :=
  spans.foldl (fun w a => match targetOf h a with
    | .self l => keepPage h w e l
    | _ => w) w

/-- Spans written here that fail, by ascending address. -/
def storeFault (h : Hub) (w : Work) (e : Nat) (p : BulkP) (spans : List (Nat × List Byte)) : Option (Code × Nat) :=
  spans.foldl (fun acc x =>
    minFault acc (match farWrite h w e p x.1 x.2 with
      | .error y => some y
      | .ok _ => none)) p.fail

/-- The words of the far block that a store that faults may write, without those that take in a byte that `bad` names by its
place in `spans` and its far address, or that cannot be written. -/
def storeWords (h : Hub) (w : Work) (e : Nat) (p : BulkP) (spans : List (Nat × List Byte)) (bad : Nat → Nat → Bool) :
    List (Nat × List Byte) :=
  let cut := (spans.foldl (fun (acc : Nat × List (Nat × Nat × List Byte)) x =>
    (acc.1 + x.2.length, acc.2 ++ (wordParts x.1 x.2).map (fun y => (acc.1 + (y.1 - x.1), y)))) (0, [])).2
  wholeWords (cut.map (fun x =>
    let ok := !(List.range x.2.2.length).any (fun i => bad (x.1 + i) (x.2.1 + i)) && (match farWrite h w e p x.2.1 x.2.2 with
      | .ok _ => true
      | .error _ => false)
    (x.2.1, if ok then some x.2.2 else none)))

/-- Write every span, or end the operation with the first failing access. -/
def finishStore (h : Hub) (w : Work) (e : Nat) (o : Op) (p : BulkP) (spans : List (Nat × List Byte)) (tid : Nat)
    (counts : Option Counts) : Work :=
  let put (w : Work) (a : Nat) (bs : List Byte) : Work :=
    match farWrite h w e p a bs with
    | .ok w1 => w1
    | .error _ => w
  match storeFault h w e p spans with
  | some (c, a) => faultOp h (partialWords w (storeWords h w e p spans (fun _ _ => false)) put) e o c a none tid
  | none =>
    let w1 := spans.foldl (fun w x => put w x.1 x.2) (keepFar h w e (spans.map (fun x => x.1)))
    match counts with
    | none => completeOp h w1 e o
    | some c =>
      match mergeOp h w1 e tid c with
      | .ok w2 => completeOp h w2 e o
      | .error (cd, a) => faultOp h w1 e o cd a none tid

/-- Raw rows of the near block. -/
def nearRows (w : Work) (p : BulkP) : List (List Byte) :=
  (List.range p.rows).map (fun r => memRead w.mem (rowAddr p.near p.nearStride r) p.rowBytes)

/-- The frame that a store through the codec writes, with its counts. -/
def storeFrame (w : Work) (o : Op) (p : BulkP) (u : KeepUse) : List Byte × Option Counts :=
  match fmtOfCode u.srcFmt, o.conv with
  | some f, some ci =>
    let r := lossyFrame u.mode u.randBits ci f p.rowBytes (nearRows w p)
    (r.1, some r.2)
  | some f, none => (losslessFrame f p.rowBytes (nearRows w p), none)
  | none, _ => ([], none)

/-- What a store writes: spans of the far block with their bytes, and the counts of a lossy frame. -/
def storeSpans (w : Work) (o : Op) (p : BulkP) : List (Nat × List Byte) × Option Counts :=
  match p.keep with
  | none => ((bulkSpans p).map (fun s => (s.1, memRead w.mem s.2.1 s.2.2)), none)
  | some u =>
    let fr := storeFrame w o p u
    ((farSpans p.far fr.1.length).map (fun s => (p.far + s.1, (fr.1.drop s.1).take s.2)), fr.2)

/-- BULK_STORE: the packets of a remote far block leave first; when every write is accepted, the store is complete. -/
def runStore (h : Hub) (w : Work) (e : Nat) (o : Op) (p : BulkP) : Work :=
  if p.rowBytes = 0 ∨ p.rows = 0 then completeOp h w e o
  else
    let sp := storeSpans w o p
    if !p.sent && sp.1.any (fun x => isRemote h x.1) then
      sp.1.foldl (fun w x => sendBulk h e o p w x.1 x.2.length x.2) (setBulk w e o (fun p => { p with sent := true }))
    else if !p.waiting.isEmpty then w
    else finishStore h w e o p sp.1 (((p.keep.map (fun u => u.entry)).getD 0)) sp.2

/-- Near rows written, or each of their words old or new. -/
def writeNear (w : Work) (p : BulkP) (rows : List (List Byte)) : Work :=
  (rows.zipIdx).foldl (fun w x => w.sram (rowAddr p.near p.nearStride x.2) x.1) w

/-- The first failing read of a list of spans. -/
def loadFault (h : Hub) (w : Work) (e : Nat) (p : BulkP) (spans : List (Nat × Nat × Nat)) : Option (Code × Nat) :=
  spans.foldl (fun acc x =>
    minFault acc (match farRead h w e p x.1 x.2.2 with
      | .error y => some y
      | .ok _ => none)) p.fail

def farBytes (h : Hub) (w : Work) (e : Nat) (p : BulkP) (far n : Nat) : List Byte :=
  match farRead h w e p far n with
  | .ok b => b
  | .error _ => []

/-- A span of the far block that lies here or has come. -/
def spanHere (h : Hub) (p : BulkP) (far : Nat) : Bool := !isRemote h far || p.got.any (fun x => x.1 == far)

/-- The words of the near block that a plain load that faults may write: those whose bytes are all here, could be read, and do
not come from an address of this module that `bad` names. -/
def loadParts (h : Hub) (w : Work) (e : Nat) (p : BulkP) (bad : Nat → Bool) : List (Nat × List Byte) :=
  wholeWords ((bulkSpans p).flatMap (fun x =>
    (wordParts x.2.1 (List.replicate x.2.2 0)).map (fun y =>
      let f := x.1 + (y.1 - x.2.1)
      let spoilt := match targetOf h f with
        | .self l => (List.range y.2.length).any (fun i => bad (l + i))
        | _ => false
      (y.1, if spanHere h p x.1 && !spoilt then (farRead h w e p f y.2.length).toOption else none))))

/-- A plain BULK_LOAD, its words all here. -/
def finishLoad2 (h : Hub) (w : Work) (e : Nat) (o : Op) (p : BulkP) : Work :=
  let spans := bulkSpans p
  let put (w : Work) (a : Nat) (bs : List Byte) : Work := w.sram a bs
  match loadFault h w e p spans with
  | some (c, a) =>
    faultOp h (partialWords w (loadParts h w e p (fun _ => false)) put) e o c a none 0
  | none =>
    let w1 := spans.foldl (fun v x => v.sram x.2.1 (farBytes h w e p x.1 x.2.2)) (keepFar h w e (spans.map (fun x => x.1)))
    completeOp h (spans.foldl (fun w x => allocFar h w e p x.1 x.2.2) w1) e o

/-- Spans of the frame that a codec load needs next: its header, then its payload. -/
def frameSpans (p : BulkP) (header : Option (List Byte)) : List (Nat × Nat × Nat) :=
  match header with
  | none => [(p.far, 0, 64)]
  | some b => (farSpans (p.far + 64) (fld b 0x10 8)).map (fun s => (p.far + 64 + s.1, 0, s.2))

/-- The payload of a frame, and whether each byte of it could not be read, or lies at an address that `bad` names. -/
def framePayload (h : Hub) (w : Work) (e : Nat) (p : BulkP) (hd : List Byte) (bad : Nat → Bool) : List (Byte × Bool) :=
  (frameSpans p (some hd)).flatMap (fun x => (List.range x.2.2).map (fun i =>
    let spoilt := match targetOf h (x.1 + i) with
      | .self l => bad (l + i)
      | _ => !spanHere h p x.1
    match farRead h w e p (x.1 + i) 1 with
    | .ok b => (b.headD 0, spoilt)
    | .error _ => (0, true)))

/-- The words of the near block that a load through the codec that faults may write (10 R296). -/
def frameParts (h : Hub) (w : Work) (e : Nat) (p : BulkP) (hd : List Byte) (bad : Nat → Bool) : List (Nat × List Byte) :=
  let pl := framePayload h w e p hd bad
  let payload := pl.map (fun x => x.1)
  let lost (k : Nat) : Bool := (pl.getD k (0, true)).2
  wholeWords (((decodeFrame hd payload p.rowBytes p.rows).zipIdx).flatMap (fun x =>
    let a := rowAddr p.near p.nearStride x.2
    (wordParts a x.1).map (fun y =>
      (y.1,
        if (List.range y.2.length).all (fun i => decodedGood hd payload p.rowBytes p.rows lost x.2 (y.1 - a + i)) then some y.2
        else none))))

/-- A BULK_LOAD through the codec, header first (10 R295). -/
def runFrameLoad (h : Hub) (w : Work) (e : Nat) (o : Op) (p : BulkP) : Work :=
  let remote := isRemote h p.far
  let have_ (a : Nat) : Bool := !remote || p.got.any (fun x => x.1 == a)
  let ask (sp : List (Nat × Nat × Nat)) : Work := sp.foldl (fun w x => sendBulk h e o p w x.1 x.2.2 []) (setBulk w e o (fun p => { p with sent := true }))
  match p.fail with
  | some (c, a) =>
    let parts := match (if have_ p.far then farRead h w e p p.far 64 else .error (0, 0)) with
      | .ok hd => frameParts h w e p hd (fun _ => false)
      | .error _ => []
    faultOp h (partialWords w parts (fun w a bs => w.sram a bs)) e o c a none 0
  | none =>
    if !have_ p.far then ask (frameSpans p none)
    else
      match farRead h w e p p.far 64 with
      | .error (c, a) => faultOp h w e o c a none 0
      | .ok hd =>
        if headerRefused hd p.rowBytes p.rows then faultOp h w e o 0x0203 p.far none 0
        else if !have_ (p.far + 64) then ask (frameSpans p (some hd))
        else
          match loadFault h w e p (frameSpans p (some hd)) with
          | some (c, a) =>
            faultOp h (partialWords w (frameParts h w e p hd (fun _ => false)) (fun w a bs => w.sram a bs)) e o c a none 0
          | none =>
            let sp := (p.far, 0, 64) :: frameSpans p (some hd)
            let payload := (frameSpans p (some hd)).flatMap (fun x => farBytes h w e p x.1 x.2.2)
            let w1 := writeNear (keepFar h w e (sp.map (fun x => x.1))) p (decodeFrame hd payload p.rowBytes p.rows)
            completeOp h (sp.foldl (fun w x => allocFar h w e p x.1 x.2.2) w1) e o

/-- BULK_LOAD: the requests of a remote far block leave first; when the last byte is in SRAM, the load is complete. -/
def runLoad (h : Hub) (w : Work) (e : Nat) (o : Op) (p : BulkP) : Work :=
  if p.rowBytes = 0 ∨ p.rows = 0 then completeOp h w e o
  else if !p.waiting.isEmpty then w
  else
    match p.keep with
    | some _ => runFrameLoad h w e o p
    | none =>
      if !p.sent && (bulkSpans p).any (fun x => isRemote h x.1) then
        (bulkSpans p).foldl (fun w x => sendBulk h e o p w x.1 x.2.2 []) (setBulk w e o (fun p => { p with sent := true }))
      else finishLoad2 h w e o p

def execBulkLoadComplete (e id : Nat) (s : State) : Out :=
  onWork s fun h w =>
    match (w.engine e).op id with
    | some o =>
      (match o.kind with
       | .bulk p => if p.load && working h w e && mayTransfer (w.engine e) o then wholeStep w (1, e, id) (runLoad h w e o p) else w
       | _ => w)
    | none => w

def execBulkStoreComplete (e id : Nat) (s : State) : Out :=
  onWork s fun h w =>
    match (w.engine e).op id with
    | some o =>
      (match o.kind with
       | .bulk p => if !p.load && working h w e && mayTransfer (w.engine e) o then wholeStep w (1, e, id) (runStore h w e o p) else w
       | _ => w)
    | none => w

/-! ### ATOMIC (07 R196, 12 R375) -/

/-- A value of `width` bytes as a signed number. -/
def signedW (width v : Nat) : Int := if v < 2 ^ (8 * width - 1) then (v : Int) else (v : Int) - 2 ^ (8 * width)

/-- The new value of an atomic operation of R375 on `width` bytes. -/
def atomicNew (aop width old operand compare : Nat) : Nat :=
  let m := 2 ^ (8 * width)
  let o := operand % m
  match aop with
  | 0 => (old + o) % m
  | 1 => o
  | 2 => if old = compare % m then o else old
  | 3 => old &&& o
  | 4 => old ||| o
  | 5 => old ^^^ o
  | 6 => if signedW width o < signedW width old then o else old
  | 7 => if signedW width old < signedW width o then o else old
  | 8 => min old o
  | _ => max old o

/-- An atomic operation at a physical address: the old value (11 R338, 12 R378). -/
def atomicAt (h : Hub) (w : Work) (a aop width operand compare : Nat) : Except (Code × Nat) (Work × Nat) :=
  match physRead h w a width with
  | .error x => .error x
  | .ok b =>
    let old := leNat b
    match physStore h w a (leBytes width (atomicNew aop width old operand compare)) with
    | .error x => .error x
    | .ok w1 => .ok (w1, old)

def execAtomic (e q : Nat) (s : State) : Out :=
  onWork s fun h w => decideInstr h w e q (opcodeIs 0x52) fun w word =>
    let st := w.stream e q
    let a := regN st word 21
    if a % 8 ≠ 0 then refuseInstr h w e q 0x0203 0x52 a none 0
    else
      issueOp w e q word none (acquireOf word) (releaseOf word)
        (.atomic ⟨bitsOf word 16 5, a, st.reg (bitsOf word 26 5), st.reg (bitsOf word 31 5), bitsOf word 36 3, false, none⟩)

/-- The old value is in its register. -/
def endAtomic (h : Hub) (w : Work) (e : Nat) (o : Op) (p : AtomicP) (old : Word) : Work :=
  completeOp h (w.setStream e o.stream (fun st => st.setReg p.dst old)) e o

/-- Payload of an ATOMIC packet (12 R375). -/
def atomicPayload (aop width : Nat) (operand compare : Word) : List Byte :=
  leBytes 1 aop ++ leBytes 1 width ++ leBytes 6 0 ++ leBytes 8 operand.toNat ++ leBytes 8 (if aop = 2 then compare.toNat else 0)

/-- ATOMIC: performed here, or sent and answered. -/
def runAtomic (h : Hub) (w : Work) (e : Nat) (o : Op) (p : AtomicP) : Work :=
  match targetOf h p.addr with
  | .none => faultOp h w e o 0x0401 p.addr none 0
  | .self a =>
    (match engineAddr h w e true a with
     | .error c => faultOp h w e o c p.addr none 0
     | .ok x =>
       match atomicAt h (keepPage h w e a) x p.aop 8 p.src.toNat p.cmp.toNat with
       | .error (c, _) => faultOp h w e o c p.addr none 0
       | .ok (w1, old) => endAtomic h w1 e o p (BitVec.ofNat 64 old))
  | .remote m a =>
    let set (w : Work) (p : AtomicP) : Work := w.setEngine e (fun en => en.setOp o.id (fun x => { x with kind := .atomic p }))
    match p.answer with
    | some (c, v) => if c = 0 then endAtomic h w e o p v else faultOp h w e o c p.addr none 0
    | none =>
      if p.sent then w
      else
        match sendRequest h (set w { p with sent := true }) 0xFFFF m 2 0x03 a 24 (atomicPayload p.aop 8 p.src p.cmp) (.atomicOp e o.id) with
        | (w1, c) => if c = 0 then w1 else faultOp h w e o c p.addr none 0

def execAtomicComplete (e id : Nat) (s : State) : Out :=
  onWork s fun h w =>
    match (w.engine e).op id with
    | some o =>
      (match o.kind with
       | .atomic p => if working h w e && mayTransfer (w.engine e) o then wholeStep w (1, e, id) (runAtomic h w e o p) else w
       | _ => w)
    | none => w

end Sys2Proof.Machine
end

