-- ==== Sys2Proof/Machine/Sync.lean ====
section
/-!
DEFINITION. Tokens and reductions across engines: SIGNAL, WAIT and REDUCE (07 R198 to R204, R84 to R88).
-/

namespace Sys2Proof.Machine

/-! ### Tokens -/

/-- Add to a token counter; past 2^32 − 1 it saturates and TOKEN_SAT is set (07 R199). -/
def addToken32 (en : Engine) (c inc : Nat) : Engine :=
  let v := (en.tokens.getD c 0).toNat + inc
  { en with
    tokens := en.tokens.set c (BitVec.ofNat 32 (min v max32))
    tokenSat := en.tokenSat || decide (max32 < v)
    selfParked := false }

/-- An engine that takes SIGNALs: present, not retired, not resetting (07 R199). -/
def takesTokens (h : Hub) (w : Work) (e : Nat) : Bool := present h e && !(w.engine e).resetting

/-- A SIGNAL at its target engine of this module (07 R199, 15 R484): the engine wakes, the counter moves, and WAITs are
served. -/
def signalHere (h : Hub) (w : Work) (e c inc : Nat) : Work × Code :=
  if !takesTokens h w e then (w, 0x020E)
  else (serveTokens h (w.setEngine e (fun en => addToken32 en c inc)) e, 0)

def execSignal (e q : Nat) (s : State) : Out :=
  onWork s fun h w => decideInstr h w e q (opcodeIs 0x60) fun w word =>
    let st := w.stream e q
    if bitsOf word 64 32 = 0 then w.setStream e q (fun st => advance st (st.pc + 16))
    else
      issueOp w e q word none (acquireOf word) true
        (.signal ⟨regN st word 16 % 2 ^ 17, bitsOf word 21 7, bitsOf word 28 6, bitsOf word 64 32, false, none⟩)

/-- Payload of a SIGNAL packet (12 R374). -/
def signalPayload (p : SignalP) : List Byte := leBytes 1 p.engine ++ leBytes 1 p.counter ++ leBytes 2 0 ++ leBytes 4 p.inc

/-- A SIGNAL of this module leaves its engine, and arrives here or goes out on C1 (07 R199, 12 R379). -/
def runSignal (h : Hub) (w : Work) (e : Nat) (o : Op) (p : SignalP) : Work :=
  let done (w : Work) (c : Code) : Work := if c = 0 then completeOp h w e o else faultOp h w e o c 0 none 0
  if isSelf h p.module then
    match signalHere h w p.engine p.counter p.inc with
    | (w1, c) => done w1 c
  else if !h.ident.numberValid then done w 0x0401
  else
    match p.answer with
    | some c => done w c
    | none =>
      if p.sent then w
      else
        let w1 := w.setEngine e (fun en => en.setOp o.id (fun x => { x with kind := .signal { p with sent := true } }))
        match sendRequest h w1 0xFFFF p.module 1 0x04 0 8 (signalPayload p) (.signalOp e o.id) with
        | (w2, c) => if c = 0 then w2 else done w2 c

/-- A SIGNAL of another module is delivered here (12 R374, R376, R379). -/
def remoteSignal (h : Hub) (w : Work) (k : Nat) (p : Packet) : Work :=
  if targetDown h then answer h w k p 0x0503 []
  else
    match signalHere h w (fld p.payload 0 1) (fld p.payload 1 1 % 64) (fld p.payload 4 4) with
    | (w1, c) => answer h w1 k p c []

def execSignalArrival (src : SignalSource) (s : State) : Out :=
  onWork s fun h w =>
    match src with
    | .engineOp e id =>
      (match (w.engine e).op id with
       | some o =>
         (match o.kind with
          | .signal p => if working h w e && priorDone (w.engine e) o then runSignal h w e o p else w
          | _ => w)
       | none => w)
    | .packet k =>
      (match inboxAt w k (fun p => p.op == 0x04) with
       | some p => remoteSignal h w k p
       | none => w)

/-! ### WAIT -/

def execWait (e q : Nat) (s : State) : Out :=
  onWork s fun h w => decideInstr h w e q (opcodeIs 0x61) fun w word =>
    if bitsOf word 64 32 = 0 then w.setStream e q (fun st => advance st (st.pc + 16))
    else
      serveTokens h
        (issueOp w e q word none true (releaseOf word)
          (.wait ⟨bitsOf word 28 6, bitsOf word 64 32, bitOf word 34, BitVec.ofNat 64 (regN (w.stream e q) word 16), 0⟩))
        e

/-! ### REDUCE: issue -/

/-- The checks of a REDUCE in the order of 07 R557; the tensor entry is member 0's alone (07 R203). -/
def checkReduce (h : Hub) (w : Work) (e q word : Nat) : Except (Code × Nat) (ReduceP × Option ConvIssue) :=
  let st := w.stream e q
  let mr := regN st word 16
  let me := bitsOf mr 0 16
  let n := bitsOf mr 16 16
  let tab := regN st word 21
  let src := (pairN st word 26).1
  let dst := (pairN st word 30).1
  let elems := regN st word 34
  let tid := regN st word 49 % 2 ^ 32
  match (if me = 0 then (convIssue h w e tid none).map some else .ok none) with
  | .error x => .error x
  | .ok conv =>
    if n < 1 ∨ 72 < n ∨ n ≤ me then .error (0x0203, 0)
    else if !ownSpan e tab (2 * n) then .error (0x0203, tab)
    else
      let bytes := memRead w.mem tab (2 * n)
      let table := (List.range n).map (fun i => fld bytes (2 * i) 2)
      if table.any (fun x => !present h x) || table.eraseDups.length != n || table.getD me 0 != e then .error (0x0203, 0)
      else if !ownSpan e src (6 * elems) then .error (0x0203, src)
      else if me = 0 ∧ !ownSpan e dst (6 * elems) then .error (0x0203, dst)
      else
        .ok
          (⟨me, n, table, src, dst, elems, bitsOf word 39 2, bitsOf word 41 8, tid,
            BitVec.ofNat 64 (regN st word 54), none, 0⟩, conv)

def execReduce (e q : Nat) (s : State) : Out :=
  onWork s fun h w => decideInstr h w e q (opcodeIs 0x62) fun w word =>
    match checkReduce h w e q word with
    | .error (c, a) => refuseInstr h w e q c 0x62 a none (regN (w.stream e q) word 49 % 2 ^ 32)
    | .ok (p, conv) =>
      let w1 := issueOp w e q word conv (acquireOf word) (releaseOf word) (.reduce p)
      match (w.engine e).notices.find? (fun x => x.1 == p.reduceId), (w1.engine e).op (w.engine e).nextId with
      | some (_, c), some o =>
        faultOp h (w1.setEngine e (fun en => { en with notices := alDel en.notices p.reduceId })) e o c 0 none p.tensorId
      | _, _ => w1

/-! ### REDUCE: the member tree (07 R203, R204) -/

def reduceOf (o : Op) : Option ReduceP :=
  match o.kind with
  | .reduce p => some p
  | _ => none

/-- A REDUCE that is issued and not complete. -/
structure LiveReduce where
  engine : Nat
  op : Op
  par : ReduceP
  deriving DecidableEq, Repr

def liveReduces (w : Work) (rid : Nat) : List LiveReduce :=
  (List.range 72).flatMap (fun e => (w.engine e).ops.filterMap (fun o =>
    (reduceOf o).bind (fun p => if p.reduceId = rid then some ⟨e, o, p⟩ else none)))

/-- Engines whose partials a member holds: they have issued. -/
def joinedEngines (p : ReduceP) : List Nat := (p.table.drop p.member).take (2 ^ p.level)

/-- End a reduction with a code: every named engine that has issued faults, every other keeps a notice (07 R204). -/
def endReduction (h : Hub) (w : Work) (rid : Nat) (code : Code) (named issued : List Nat) : Work :=
  let live := (liveReduces w rid).filter (fun x => named.contains x.engine)
  let known := issued ++ live.flatMap (fun x => joinedEngines x.par)
  let w1 := (named.filter (fun x => !known.contains x)).foldl
    (fun w x => w.setEngine x (fun en => { en with notices := alSet en.notices rid code })) w
  live.foldl (fun w x => faultOp h w x.engine x.op code 0 none x.par.tensorId) w1

/-- A member's REDUCE ends with a fault of its own, and the reduction is abandoned (07 R204). -/
def faultReduce (h : Hub) (w : Work) (e : Nat) (o : Op) (p : ReduceP) (code : Code) (addr : Nat) : Work :=
  endReduction h (faultOp h w e o code addr none p.tensorId) p.reduceId 0x0213 p.table (joinedEngines p)

/-- The level of the next node of a member: levels without a right-hand partner are passed (03 R84). -/
def climb (n m : Nat) : Nat → Nat → Nat
  | 0, l => l
  | fuel + 1, l => if 2 ^ l < n ∧ m % 2 ^ (l + 1) = 0 ∧ n ≤ m + 2 ^ l then climb n m fuel (l + 1) else l

def nextLevel (p : ReduceP) : Nat := climb p.members p.member 8 p.level

/-- The value that a member holds: its own partial in the partials format (03 R87), until others have joined. -/
def reduceValue (w : Work) (p : ReduceP) : List Nat :=
  match p.value with
  | some v => v
  | none =>
    let f := (partialFmt p.partialFmt).getD .a48
    (codesOf .a48 (memRead w.mem p.srcAddr (6 * p.elems)) p.elems).map (fun c => (convertTo f .rne false (a48Val c)).code)

def sameHeader (a b : ReduceP) : Bool :=
  a.members == b.members && a.elems == b.elems && a.partialFmt == b.partialFmt && a.table == b.table

/-- Two subtrees meet at the engine of the lower member (03 R84, R87). -/
def joinValues (f : Fmt) : List Nat → List Nat → List Nat
  | x :: xs, y :: ys => addPartial f x y :: joinValues f xs ys
  | _, _ => []

def joinSubtrees (h : Hub) (w : Work) (child parent : LiveReduce) (l : Nat) : Work :=
  let f := (partialFmt child.par.partialFmt).getD .a48
  let v := joinValues f (reduceValue w parent.par) (reduceValue w child.par)
  let w1 := w.setEngine parent.engine (fun en =>
    en.setOp parent.op.id (fun x => { x with kind := .reduce { parent.par with value := some v, level := l + 1 } }))
  completeOp h w1 child.engine child.op

/-- NaN root elements for the trap, source 6 (08 R232). -/
def rootNans (root : List Val) : List NanEvent :=
  (root.zipIdx.filter (fun x => isNan x.1)).map (fun x => ⟨0, x.2, 0, none⟩)

/-- The root is written as A48 by RNE (07 R203). -/
def rootConv : ConvCtrl := ⟨.a48, .rne, 12, false, false⟩

/-- The root of a reduction as member 0 converts it: its values, the codes, and the counts. -/
def rootRow (w : Work) (e : Nat) (o : Op) (p : ReduceP) : List Val × List Nat × Counts :=
  let root := (reduceValue w p).map (fun c => decodeVal ((partialFmt p.partialFmt).getD .a48) c)
  let ci := o.conv.getD ⟨p.tensorId, none, none, (w.engine e).gen, false⟩
  let (codes, _, c) := convertRow rootConv ci p.elems 0 (root.map (fun v => elemIn ci v false)) (emptyCounts .a48)
  (root, codes, c)

/-- Member 0 writes the root, with the output scale of its tensor applied once (03 R86), and its legend (07 R203, 08
R234). -/
def writeRoot (h : Hub) (w : Work) (e : Nat) (o : Op) (p : ReduceP) : Work :=
  let (root, codes, c) := rootRow w e o p
  let ev := rootNans root
  let w1 := trapNans w e o 6 p.tensorId ev
  if trapHalts o ev then faultOp h w1 e o 0x0301 0 none p.tensorId
  else
    let w2 := w1.sram p.dstAddr (rowBytesOf .a48 codes)
    match mergeOp h w2 e p.tensorId { c with departure := c.departure || p.partialFmt != 0 } with
    | .error (code, a) => faultOp h w2 e o code a none p.tensorId
    | .ok w3 => completeOp h w3 e o

/-- The REDUCE of the engine that a member's value goes to. -/
def parentReduce (h : Hub) (w : Work) (pe rid : Nat) : Option LiveReduce :=
  if working h w pe then
    (liveReduces w rid).find? (fun x => x.engine == pe && queueMayStart (w.engine pe) x.op)
  else none

/-- A member's REDUCE goes on: its value is taken by its parent, or member 0 writes the root (07 R203, R204). -/
def runReduce (h : Hub) (w : Work) (e : Nat) (o : Op) (p : ReduceP) : Work :=
  let l := nextLevel p
  if p.members ≤ 2 ^ l then writeRoot h w e o p
  else if p.member % 2 ^ (l + 1) = 0 then w
  else
    match parentReduce h w (p.table.getD (p.member - 2 ^ l) 0) p.reduceId with
    | none => w
    | some x =>
      if !sameHeader x.par p then
        endReduction h w p.reduceId 0x0210 (x.par.table ++ p.table).eraseDups []
      else if nextLevel x.par = l then joinSubtrees h w ⟨e, o, p⟩ x l
      else w

def execReduceComplete (e id : Nat) (s : State) : Out :=
  onWork s fun h w =>
    match (w.engine e).op id with
    | some o =>
      (match o.kind with
       | .reduce p => if working h w e && queueMayStart (w.engine e) o then wholeStep w (1, e, id) (runReduce h w e o p) else w
       | _ => w)
    | none => w

/-! ### Timeouts (07 R200, R204) -/

/-- The steps of a WAIT's timeout that no idle step has counted yet are steps in STATE 2 (10 R285, R309). -/
def waitOut (w : Work) (e : Nat) (o : Op) (p : WaitP) : Work :=
  let n := p.timeout - p.spent
  w.setStream e o.stream (fun st => { st with tokenWait := st.tokenWait + n, runTokenWait := st.runTokenWait + n })

/-- The timeout of a WAIT or a REDUCE passes; a parked or stopped engine counts no steps (15 R476). -/
def execWaitTimeout (e id : Nat) (s : State) : Out :=
  onWork s fun h w =>
    match (w.engine e).op id with
    | some o =>
      (match o.kind with
       | .wait p =>
         if working h w e && !(w.engine e).stopped && p.timeout != 0 then faultOp h (waitOut w e o p) e o 0x020F 0 none 0 else w
       | .reduce p => if working h w e && p.timeout != 0 then faultReduce h w e o p 0x020F 0 else w
       | _ => w)
    | none => w

end Sys2Proof.Machine
end

