-- ==== Sys2Proof/Machine/Gazetteer.lean ====
section
/-!
DEFINITION. The gazetteer (12 R384) and the CONTROL messages of this model (12 R374, log 11). The gazetteer and its member
arrays lie at physical addresses for every agent (DEDUCED, log 23).
-/

namespace Sys2Proof.Machine

def gazAddr (w : Work) (g : Nat) : Nat := w.fabric.gazBase + 128 * g

/-- The entry of a group. -/
def gazEntry (h : Hub) (w : Work) (g : Nat) : Except (Code × Nat) (List Byte) := physRead h w (gazAddr w g) 128

def gazValid (b : List Byte) : Bool := bitOf (fld b 0 4) 0 && fld b 4 4 != 0

/-- `n` module numbers of a member array, which lies in LPDDR5X (01 R27). -/
def memberArray (h : Hub) (w : Work) (a n : Nat) : Except (Code × Nat) (List Nat) :=
  if !inLpddr h a (4 * n) then .error (0x0401, a)
  else
    match physRead h w a (4 * n) with
    | .error e => .error e
    | .ok m => .ok ((List.range n).map (fun i => fld m (4 * i) 4 % 2 ^ 17))

/-- The modules of an entry, by member index. -/
def gazMembers (h : Hub) (w : Work) (b : List Byte) : Except (Code × Nat) (List Nat) :=
  memberArray h w (fld b 0x10 8) (fld b 4 4)

/-- Clean flag: kind 1. -/
def flagPayload (group member : Nat) (step : Word) (clean : Bool) : List Byte :=
  leBytes 1 1 ++ leBytes 1 (if clean then 1 else 0) ++ leBytes 2 group ++ leBytes 4 member ++ leBytes 8 step.toNat

/-- Vote outcome: kind 2. -/
def outcomePayload (group : Nat) (step : Word) (outcome : Nat) : List Byte :=
  leBytes 1 2 ++ leBytes 1 outcome ++ leBytes 2 group ++ leBytes 4 0 ++ leBytes 8 step.toNat

/-- Records of a member array. -/
def memberBytes (ms : List Nat) : List Byte := ms.flatMap (leBytes 4)

/-- Group control: kind 3 (12 R385): one part of the new member list, of `total` members, from member `first` on, and this
member's index in it. -/
def groupPayload (group epoch : Nat) (changeSeq : BitVec 32) (addr total index first : Nat) (part : List Nat) : List Byte :=
  leBytes 2 3 ++ leBytes 2 group ++ leBytes 4 epoch ++ leBytes 4 changeSeq.toNat ++ leBytes 4 total ++ leBytes 4 index ++
    leBytes 8 addr ++ leBytes 4 first ++ memberBytes part

/-- Members that one C0 packet of at most 256 bytes carries (12 R368). -/
def groupPart : Nat := 56

/-- The parts of a member list, each with its first index. -/
def groupParts (ms : List Nat) : List (Nat × List Nat) :=
  (List.range ((ms.length + groupPart - 1) / groupPart)).map (fun i => (groupPart * i, (ms.drop (groupPart * i)).take groupPart))

/-- Collective abort: kind 4 (12 R394). -/
def abortPayload (group : Nat) (collSeq : BitVec 32) : List Byte :=
  leBytes 2 4 ++ leBytes 2 group ++ leBytes 4 collSeq.toNat

end Sys2Proof.Machine
end

