-- ==== Sys2Proof/Machine/Collective.lean ====
section
/-!
DEFINITION. Collective queues and collectives (12 R386 to R394, 14 R435 to R439): ring intake, checks and start, the member
tree, completion, aborts and timeouts. Header and data of a COLLECTIVE payload are laid out as this model's own (log 24).
-/

namespace Sys2Proof.Machine

def collQ (w : Work) (k : Nat) : CollQueue := w.colls.queues.getD k resetCollQueue

def Work.setColls (w : Work) (f : Collectives → Collectives) : Work := { w with colls := f w.colls }

def Work.setCollQ (w : Work) (k : Nat) (f : CollQueue → CollQueue) : Work :=
  w.setColls (fun c => { c with queues := c.queues.modify k f })

def Work.setColl (w : Work) (k : Nat) (f : Coll → Coll) : Work := w.setCollQ k (fun q => { q with cur := q.cur.map f })

/-! ### Ring intake (R386, R387; 14 R435 to R438) -/

def reducing (kind : Nat) : Bool := kind == 0x0C01 || kind == 0x0C02 || kind == 0x0C03

def knownColl (kind : Nat) : Bool := decide (0x0C01 ≤ kind ∧ kind ≤ 0x0C06)

/-- The queue stops (14 R436, R468), with its log record. -/
def stopQueue (h : Hub) (w : Work) (k : Nat) (code : Code) : Work :=
  emit h (w.setCollQ k (fun q => { q with stopped := true, stopCode := code, rereads := 0 }))
    ⟨if code = 0x0102 then 1 else 5, code, 53, unitOf 7 k, 0, []⟩

/-- A sealed descriptor at the head: a group that is held makes the queue wait at its slot (R394). -/
def takeColl (w : Work) (k : Nat) (d : Desc) : Work :=
  if knownColl d.kind && w.colls.heldGroups.contains (fld d.payload 0x20 2) then
    w.setCollQ k (fun q => { q with rereads := 0, groupHeld := true })
  else w.setCollQ k (fun q => { q with rereads := 0, groupHeld := false, desc := some d, nextSeq := q.nextSeq + 1 })

/-- A queue without a descriptor reads the slot of NEXT_SEQ. -/
def readColl (h : Hub) (w : Work) (k : Nat) : Work :=
  let q := collQ w k
  if !q.enabled || q.stopped || q.desc.isSome || q.cur.isSome || q.unsealed then w
  else
    match (match physRead h w (slotAddr q.base q.log2 q.nextSeq) 64 with
           | .error (c, x) => SlotRead.failed c x
           | .ok b => judgeSlot q.nextSeq b) with
    | .failed _ _ => stopQueue h w k 0x0102
    | .badCrc _ _ => stopQueue h w k 0x0102
    | .sealed d => takeColl w k d
    | .unsealed =>
      if q.rereads = 0 then
        w.setCollQ k (fun q => { q with rereads := if hintClaims q.hint q.nextSeq q.log2 then 1 else 0 })
      else if q.rereads + 1 < 64 then w.setCollQ k (fun q => { q with rereads := q.rereads + 1 })
      else
        emit h (w.setCollQ k (fun q => { q with rereads := 0, unsealed := true }))
          ⟨1, 0x0101, 53, unitOf 7 k, 0, leBytes 4 q.nextSeq.toNat ++ leBytes 8 q.base⟩

/-- The collective logic works. -/
def collWorks (h : Hub) : Bool := h.ident.powered && h.ident.powerState != 2

/-- A store to the doorbell of a collective queue; discarded while the queue is disabled (14 R437, R439, R464). -/
def storeCqDoorbell (h : Hub) (w : Work) (k : Nat) (v : Word) : Work :=
  let q := collQ w k
  if !q.enabled || !collWorks h then w
  else
    let w1 := w.setCollQ k (fun q => { q with hint := some (v.setWidth 32), unsealed := false,
                                              rereads := if q.unsealed then 0 else q.rereads })
    if q.rereads ≠ 0 && !q.unsealed then w1 else readColl h w1 k

def execCqDoorbell (k : Nat) (v : Word) (s : State) : Out := onWork s fun h w => storeCqDoorbell h (w.reply 0 []) k v

/-- A descriptor of another type stops the queue; its slot counts as taken (R387). -/
def execCollectiveUnknownType (k : Nat) (s : State) : Out :=
  onWork s fun h w =>
    match (collQ w k).desc with
    | some d =>
      if collWorks h && !knownColl d.kind then stopQueue h (w.setCollQ k (fun q => { q with desc := none })) k 0x020B else w
    | none => w

/-! ### The end of a collective (R393) -/

/-- The completion record. -/
def collRecord (k nonf : Nat) (first : Option Nat) (departure : Bool) (code : Code) : List Byte :=
  leBytes 4 (min nonf max32) ++ leBytes 4 (first.getD 0) ++ leBytes 2 code.toNat ++ leBytes 1 k ++
    leBytes 1 ((if first.isSome then 1 else 0) + (if departure then 2 else 0)) ++ leBytes 3 0 ++ [1]

/-- Record, SIGNAL, and the next descriptor. -/
def endColl (h : Hub) (w : Work) (k : Nat) (complAddr signal : Nat) (departure : Bool) (seq : BitVec 32) (code : Code)
    (nonf : Nat) (first : Option Nat) : Work :=
  let w1 := if complAddr = 0 then w else physPut h w complAddr (collRecord k nonf first departure code)
  let w2 := if bitOf signal 13 then (signalHere h w1 (bitsOf signal 0 7) (bitsOf signal 7 6) 1).1 else w1
  let w3 := trace h (w2.setCollQ k (fun q => { q with desc := none, cur := none })) 2 (unitOf 7 k) seq.toNat
  readColl h w3 k

def finishColl (h : Hub) (w : Work) (k : Nat) (c : Coll) (code : Code) (nonf : Nat) (first : Option Nat) : Work :=
  endColl h w k c.complAddr c.signal (reducing c.kind && c.partialCode != 0) c.collSeq code nonf first

/-! ### Results (R391, R392) -/

def partFmt (c : Coll) : Fmt := (partialFmt c.partialCode).getD .a48

/-- Elements of the values that travel: REDUCE_SCATTER reduces n slices. -/
def totalElems (c : Coll) : Nat := if c.kind = 0x0C03 then c.members.length * c.count else c.count

/-- What the conversion of a member's elements gives. -/
structure CollOut where
  codes : List Nat
  counts : Counts
  nonf : Nat
  first : Option Nat
  deriving DecidableEq, Repr

/-- Convert root values with member 0's scale (R60, R86, R391). -/
def convertRoot (cc : ConvCtrl) (scale : Val) : Nat → List Val → CollOut → CollOut
  | _, [], o => o
  | i, v :: vs, o =>
    let x := mulVal v scale
    let r := convertTo cc.dst (modeOf cc.round 0 0) cc.e5Ovf x
    convertRoot cc scale (i + 1) vs
      { codes := o.codes ++ [r.code]
        counts := countElem o.counts cc.dst x v x false false r
        nonf := if isNan v || isInf v then o.nonf + 1 else o.nonf
        first := if o.first.isNone && isNan v then some i else o.first }

/-- The scale that travels with the root: 8 bytes, bit 32 set when there is one. -/
def scaleBytes (s : Option Nat) : List Byte :=
  match s with
  | none => leBytes 8 0
  | some x => leBytes 8 (2 ^ 32 + x)

def scaleFrom (b : List Byte) : Val := if bitOf (fld b 0 8) 32 then fp32Val (fld b 0 4) else oneVal

def collConv (c : Coll) : ConvCtrl := (convCtrlOf c.convWord false).getD ⟨.fp32, .rne, 12, false, false⟩

/-- The elements of a reduction that this member writes, out of all of them. -/
def mySlice {α : Type} (c : Coll) (all : List α) : List α :=
  if c.kind = 0x0C03 then (all.drop (c.index * c.count)).take c.count else all

/-- What member 0 answers for a reduction: the root converted once, then the root itself with the output scale, from which
each member counts the elements it writes (R391, R392; the layout is the model's, log 24). -/
def rootConverted (c : Coll) : List Byte :=
  let cc := collConv c
  let root := (codesOf (partFmt c) c.data (totalElems c)).map (decodeVal (partFmt c))
  let scale := scaleBytes c.scale
  rowBytesOf cc.dst (convertRoot cc (scaleFrom scale) 0 root ⟨[], emptyCounts cc.dst, 0, none⟩).codes ++ scale ++ c.data

/-- The part of an answer behind the converted elements. -/
def answerTail (c : Coll) (bytes : List Byte) : List Byte := bytes.drop (packedBytes (collConv c).dst (totalElems c))

/-- What this member counts of a reduction's root (R392), with the ternary codes 0b10 that it read itself (02 R48; DESIGN
CHOICE, log 79). -/
def collOut (c : Coll) (bytes : List Byte) : CollOut :=
  let cc := collConv c
  let tail := answerTail c bytes
  let mine := mySlice c (codesOf (partFmt c) (tail.drop 8) (totalElems c))
  let vals := if c.kind = 0x0C02 ∧ c.index ≠ 0 then [] else mine.map (decodeVal (partFmt c))
  let o := convertRoot cc (scaleFrom tail) 0 vals ⟨[], emptyCounts cc.dst, 0, none⟩
  { o with
    counts := { o.counts with departure := c.partialCode != 0, nonfinite := o.counts.nonfinite + c.badRead } }

/-- The bytes of DST: for a reduction the elements as member 0 converted them. -/
def dstBytes (c : Coll) (bytes : List Byte) : List Byte :=
  if reducing c.kind then
    (if c.kind = 0x0C02 ∧ c.index ≠ 0 then []
     else rowBytesOf (collConv c).dst (mySlice c (codesOf (collConv c).dst bytes (totalElems c))))
  else if c.kind = 0x0C06 then []
  else bytes

/-- DST, legend, numeric log record and completion (R392, R393). -/
def writeResult (h : Hub) (w : Work) (k : Nat) (c : Coll) (bytes : List Byte) : Work :=
  match physStore h w c.dstAddr (dstBytes c bytes) with
  | .error (code, a) => finishColl h (emitMemError h w code (unitOf 7 k) a) k c code 0 none
  | .ok w1 =>
    if !reducing c.kind then finishColl h w1 k c 0 0 none
    else
      let o := collOut c bytes
      match mergeLegend h w1 w1.tables.ttBase c.tensorId o.counts with
      | .error (code, a) => finishColl h (emitMemError h w1 code (unitOf 7 k) a) k c code o.nonf o.first
      | .ok w2 =>
        let w3 := match o.first with
          | none => w2
          | some f =>
            emit h w2.tick
              ⟨3, freeCode w2, 53, unitOf 7 k, 0,
                leBytes 2 c.group ++ leBytes 2 0 ++ leBytes 4 c.collSeq.toNat ++ leBytes 4 f⟩
        finishColl h w3 k c 0 o.nonf o.first

/-- No message of the queue's collective waits for its response. -/
def collSettled (w : Work) (k : Nat) : Bool := !w.fabric.requests.any (fun r => r.2 == .collective k)

def execCollectiveComplete (k : Nat) (s : State) : Out :=
  onWork s fun h w =>
    match (collQ w k).cur with
    | none => w
    | some c =>
      match c.result with
      | none => w
      | some (code, bytes) =>
        if !collWorks h || !collSettled w k then w
        else if code = 0 then wholeStep w (4, k, 0) (writeResult h w k c bytes)
        else finishColl h w k c code 0 none

/-! ### Aborts and timeouts (R394) -/

/-- Each 64-byte word of DST is old or new. -/
def partDst (h : Hub) (w : Work) (c : Coll) : Work :=
  match c.result with
  | some (0, bytes) =>
    let ix := w.freeIx
    let bs := dstBytes c bytes
    ((List.range ((c.dstAddr % 64 + bs.length + 63) / 64)).foldl
      (fun w i =>
        if Config.freeKeepsOld ix i then w
        else
          let lo := 64 * i - c.dstAddr % 64
          let hi := 64 * (i + 1) - c.dstAddr % 64
          physPut h w (c.dstAddr + lo) ((bs.take hi).drop lo))
      w).tick
  | _ => w

/-- The collective is abandoned here: its group waits for SET_NEXT_SEQ. -/
def abandonColl (h : Hub) (w : Work) (k : Nat) (c : Coll) (code : Code) : Work :=
  let w1 := (partDst h w c).setColls (fun x =>
    { x with
      heldGroups := addOnce x.heldGroups c.group
      dead := (c.group, c.collSeq) :: x.dead })
  let w2 := { w1 with fabric := { w1.fabric with requests := w1.fabric.requests.filter (fun r => r.2 != .collective k) } }
  finishColl h w2 k c code 0 none

/-- The same with an abort on C0 to every other member. -/
def abortColl (h : Hub) (w : Work) (k : Nat) (c : Coll) (code : Code) : Work :=
  let others := (c.members.zipIdx.filter (fun m => m.2 != c.index)).map (fun m => m.1)
  abandonColl h (others.foldl (fun w m => (sendControl h w m (abortPayload c.group c.collSeq) .alarm).1) w) k c code

def execCollectiveTimeout (k : Nat) (s : State) : Out :=
  onWork s fun h w =>
    match (collQ w k).cur with
    | some c => if collWorks h && c.tmoUs != 0 then abortColl h w k c 0x0507 else w
    | none => w

/-- The queue that runs a collective. -/
def collOf (w : Work) (group : Nat) (seq : BitVec 32) : Option (Nat × Coll) :=
  (List.range 16).findSome? (fun k =>
    match (collQ w k).cur with
    | some c => if c.group = group ∧ c.collSeq = seq then some (k, c) else none
    | none => none)

/-- This member has not started the collective yet. -/
def notStarted (h : Hub) (w : Work) (group : Nat) (seq : BitVec 32) : Bool :=
  match gazEntry h w group with
  | .error _ => true
  | .ok b => decide ((seq - BitVec.ofNat 32 (fld b 0x20 4)).toNat < 2 ^ 31)

/-- An abort reaches this member. -/
def takeAbort (h : Hub) (w : Work) (group : Nat) (seq : BitVec 32) : Work :=
  match collOf w group seq with
  | some (k, c) => abandonColl h w k c 0x050B
  | none => if notStarted h w group seq then w.setColls (fun x => { x with dead := (group, seq) :: x.dead }) else w

def execCollectiveAbort (group : Nat) (collSeq : BitVec 32) (s : State) : Out :=
  onWork s fun h w => if collWorks h then takeAbort h w group collSeq else w

/-! ### Messages and the member tree (R389, R390) -/

/-- The header of a message: direction (0 up, 1 down), status, then what R389 compares, the sender's index, the length of the
whole message and the offset of this part in it. -/
def collHeader (c : Coll) (dir : Nat) (code : Code) (total offset : Nat) : List Byte :=
  leBytes 2 dir ++ leBytes 2 code.toNat ++ leBytes 4 c.collSeq.toNat ++ leBytes 2 c.group ++ leBytes 2 c.kind ++
    leBytes 4 c.index ++ leBytes 8 c.count ++
    (if reducing c.kind then leBytes 2 c.convWord ++ leBytes 1 c.srcFmt ++ leBytes 1 c.partialCode else leBytes 4 0) ++
    leBytes 4 0 ++ leBytes 8 total ++ leBytes 8 offset

/-- The fields that R389 compares: type, COUNT, CONV_CTRL, SRC_FMT and PARTIAL_FMT. -/
def callFields (b : List Byte) : List Byte := (b.drop 10).take 2 ++ (b.drop 16).take 12

def sameCall (c : Coll) (b : List Byte) : Bool := callFields (collHeader c 0 0 0 0) == callFields b

/-- A message in packets on C1, in order; the code is that of the first one refused. -/
def sendColl (h : Hub) (w : Work) (k : Nat) (c : Coll) (dir : Nat) (code : Code) (peer : Nat) (data : List Byte) : Work × Code :=
  (List.range (max 1 ((data.length + 4031) / 4032))).foldl
    (fun (acc : Work × Code) i =>
      if acc.2 != 0 then acc
      else
        let body := collHeader c dir code data.length (4032 * i) ++ (data.drop (4032 * i)).take 4032
        sendRequest h acc.1 c.portMask (c.members.getD peer 0) 1 0x10 0 body.length body (.collective k))
    (w, 0)

/-- Two subtree values of a node: partials are added, gathered bytes are joined (R84, R87, R390). -/
def joinData (c : Coll) (child : List Byte) : List Byte :=
  if reducing c.kind then
    let f := partFmt c
    let n := totalElems c
    rowBytesOf f (joinValues f (codesOf f c.data n) (codesOf f child n))
  else if c.kind = 0x0C05 then c.data ++ child
  else c.data

/-- Join the children that have come, level by level. -/
def climbColl : Nat → Coll → Coll
  | 0, c => c
  | n + 1, c =>
    let child := c.index + 2 ^ c.level
    if c.index % 2 ^ (c.level + 1) ≠ 0 ∨ c.members.length ≤ 2 ^ c.level then c
    else if c.members.length ≤ child then climbColl n { c with level := c.level + 1 }
    else
      match c.early.find? (fun x => x.1 == child) with
      | none => c
      | some (_, code, data) =>
        let bad := if c.code = 0 then code else c.code
        climbColl n
          { c with
            level := c.level + 1
            early := c.early.filter (fun x => x.1 != child)
            code := bad
            data := if bad = 0 then joinData c data else c.data }

/-- The members that this one answers on the way down, the farthest first. -/
def treeChildren (c : Coll) : List Nat :=
  ((List.range c.level).map (fun l => c.index + 2 ^ l)).filter (fun i => decide (i < c.members.length)) |>.reverse

/-- The root's answer goes down the tree in reverse. -/
def sendDown (h : Hub) (w : Work) (k : Nat) (c : Coll) (code : Code) (data : List Byte) : Work × Code :=
  (treeChildren c).foldl
    (fun (acc : Work × Code) i => if acc.2 != 0 then acc else sendColl h acc.1 k c 1 code i data) (w, 0)

/-- The answer is known here: kept for COLLECTIVE_COMPLETE and sent on; the members of a REDUCE write nothing and get the
status alone. -/
def haveResult (h : Hub) (w : Work) (k : Nat) (c : Coll) (code : Code) (data : List Byte) : Work :=
  let c1 := { c with result := some (code, data) }
  match sendDown h (w.setColl k (fun _ => c1)) k c1 code (if c.kind = 0x0C02 then [] else data) with
  | (w1, bad) => if bad = 0 then w1 else abortColl h w1 k c1 bad

/-- What member 0 answers. -/
def rootAnswer (c : Coll) : List Byte :=
  if c.code ≠ 0 then []
  else if reducing c.kind then rootConverted c
  else c.data

/-- The tree at this member goes as far as what has come allows. -/
def advanceColl (h : Hub) (w : Work) (k : Nat) : Work :=
  match (collQ w k).cur with
  | none => w
  | some c0 =>
    let c := climbColl 18 c0
    let w1 := w.setColl k (fun _ => c)
    if c.sentUp || c.result.isSome then w1
    else if c.index % 2 ^ (c.level + 1) ≠ 0 then
      let c1 := { c with sentUp := true }
      match sendColl h (w1.setColl k (fun _ => c1)) k c1 0 c.code (c.index - 2 ^ c.level) (if c.code = 0 then c.data else []) with
      | (w2, bad) => if bad = 0 then w2 else abortColl h w2 k c1 bad
    else if c.members.length ≤ 2 ^ c.level then haveResult h w1 k c c.code (rootAnswer c)
    else w1

/-- A message is whole. -/
def wholeMessage (h : Hub) (w : Work) (k : Nat) (c : Coll) (b : List Byte) (data : List Byte) : Work :=
  let code : Code := if sameCall c b then BitVec.ofNat 16 (fld b 2 2) else 0x0505
  if fld b 0 2 = 1 then (if c.result.isSome then w else haveResult h w k c code data)
  else advanceColl h (w.setColl k (fun x => { x with early := x.early ++ [(fld b 12 4, code, data)] })) k

/-- One packet of a message for a running collective: elements take their places by the part's offset (R390). -/
def takeMessage (h : Hub) (w : Work) (k : Nat) (c : Coll) (b : List Byte) : Work :=
  let key := 2 * fld b 12 4 + fld b 0 2
  let total := fld b 32 8
  let all := c.parts.filter (fun x => x.1 != key || x.2.1 != fld b 40 8) ++ [(key, fld b 40 8, b.drop 48)]
  let mine := all.filter (fun x => x.1 == key)
  if total ≤ (mine.map (fun x => x.2.2.length)).sum then
    let c1 := { c with parts := all.filter (fun x => x.1 != key) }
    wholeMessage h (w.setColl k (fun _ => c1)) k c1 b
      (memRead (mine.foldl (fun m x => memWrite m x.2.1 x.2.2) []) 0 total)
  else w.setColl k (fun x => { x with parts := all })

/-- A message goes to its collective, or waits for it to start; one of an abandoned collective is dropped. -/
def routeMessage (h : Hub) (w : Work) (b : List Byte) : Work :=
  let group := fld b 8 2
  let seq := BitVec.ofNat 32 (fld b 4 4)
  match collOf w group seq with
  | some (k, c) => takeMessage h w k c b
  | none =>
    if w.colls.dead.contains (group, seq) || !notStarted h w group seq then w
    else w.setColls (fun x => { x with waiting := x.waiting ++ [b] })

/-- PORT_MASK of the group that a message belongs to (R384). -/
def messageMask (h : Hub) (w : Work) (b : List Byte) : Nat :=
  match gazEntry h w (fld b 8 2) with
  | .ok e => if fld e 0x1C 2 = 0 then 0xFFFF else fld e 0x1C 2
  | .error _ => 0xFFFF

/-- COLLECTIVE_PACKET: acknowledged, and taken by the collective logic (R374, R390). -/
def execCollectivePacket (k : Nat) (s : State) : Out :=
  onWork s fun h w =>
    match inboxAt w k (fun p => p.op == 0x10) with
    | none => w
    | some p =>
      if p.payload.isEmpty then answer h w k p 0x0401 []
      else
        causedBy p.causal (sendResponse h (dropInbox w k) (messageMask h w p.payload) p 0 []) (fun w =>
          routeMessage h w p.payload)

/-! ### Checks and start (R85, R385, R388, R389) -/

/-- The group as the collective finds it: with a change due at this COLL_SEQ, the pending membership (R385). -/
structure CollGroup where
  members : List Nat
  index : Nat
  switch : Bool
  addr : Nat
  nextSeq : Nat
  portMask : Nat
  deriving DecidableEq, Repr

def readGroup (h : Hub) (w : Work) (g seq : Nat) : Except Code CollGroup :=
  match gazEntry h w g with
  | .error (c, _) => .error c
  | .ok b =>
    if !bitOf (fld b 0 4) 0 ∨ bitsOf (fld b 0 4) 1 2 = 3 then .error 0x0509
    else
      let sw := bitOf (fld b 0x28 4) 0 && fld b 0x24 4 == seq
      let n := if sw then fld b 0x38 4 else fld b 4 4
      let a := if sw then fld b 0x30 8 else fld b 0x10 8
      let ix := if sw then fld b 0x3C 4 else fld b 8 4
      let mask := if fld b 0x1C 2 = 0 then 0xFFFF else fld b 0x1C 2
      if n = 0 ∨ 65536 < n ∨ n ≤ ix ∨ !inLpddr h a (4 * n) then .error 0x0509
      else
        match memberArray h w a n with
        | .error (c, _) => .error c
        | .ok ms => .ok ⟨ms, ix, sw, a, fld b 0x20 4, mask⟩

/-- The membership switch, and NEXT_SEQ rises (R385, R389). -/
def enterGroup (h : Hub) (w : Work) (g seq : Nat) (x : CollGroup) : Work :=
  let a := gazAddr w g
  let w1 :=
    if x.switch then
      let w2 := physPut h w (a + 4) (leBytes 4 x.members.length ++ leBytes 4 x.index)
      let w3 := physPut h w2 (a + 0x10) (leBytes 8 x.addr ++ leBytes 4 (x.members.getD 0 0))
      physPut h w3 (a + 0x28) (leBytes 4 0)
    else w
  physPut h w1 (a + 0x20) (leBytes 4 (seq + 1))

/-- A descriptor as a collective, before its group is known. -/
def collFrom (d : Desc) : Coll :=
  let b := d.payload
  { kind := d.kind
    srcAddr := fld b 0x00 8
    dstAddr := fld b 0x08 8
    complAddr := fld b 0x10 8
    count := fld b 0x18 8
    group := fld b 0x20 2
    collSeq := BitVec.ofNat 32 (fld b 0x24 4)
    convWord := fld b 0x28 2
    srcFmt := fld b 0x2A 1
    partialCode := fld b 0x2B 1
    tensorId := fld b 0x2C 4
    signal := fld b 0x30 4
    tmoUs := fld b 0x34 4
    members := []
    index := 0
    portMask := 0xFFFF
    data := []
    level := 0
    early := []
    parts := []
    badRead := 0
    code := 0
    sentUp := false
    result := none
    scale := none }

/-- The fields of R388 that need no group. -/
def collFieldsBad (h : Hub) (d : Desc) (c : Coll) : Option Code :=
  if !complOk h c.complAddr ∨ fld d.payload 0x22 2 ≠ 0 ∨ 2 ^ 14 ≤ c.signal ∨ 2 ^ 32 < c.count ∨ 4096 ≤ c.group then
    some 0x0509
  else if !reducing c.kind then none
  else if 2 < c.partialCode ∨ !((fmtOfCode c.srcFmt).any storageOk) then some 0x0509
  else if bitsOf c.convWord 5 2 = 1 then some 0x0508
  else if (convCtrlOf c.convWord false).isNone then some 0x0509
  else none

/-- TENSOR_ID: the entry's output scale (08 R216, R224), without a channel map (R391). -/
def collScale (h : Hub) (w : Work) (c : Coll) : Except Code (Option Nat) :=
  if !reducing c.kind then .ok none
  else if tensorIdBad w.tables.ttLog2 c.tensorId then .error 0x0302
  else if bitsOf c.tensorId 0 20 = 0 then .ok none
  else
    match moduleRead h w (entryAddr w.tables.ttBase (bitsOf c.tensorId 0 20)) 256 with
    | .error (e, _) => .error e
    | .ok b =>
      let sc := scaleCtrlOf (fld b 0x80 8)
      if scaleCtrlBad sc then .error 0x0304 else .ok (if sc.apply then some (fld b 0x88 4) else none)

/-- Bytes of SRC and DST on this member (R387). -/
def collSpans (c : Coll) : Nat × Nat :=
  let n := c.members.length
  if reducing c.kind then
    (packedBytes ((fmtOfCode c.srcFmt).getD .fp32) (totalElems c),
      if c.kind = 0x0C02 ∧ c.index ≠ 0 then 0 else packedBytes ((fmtOfCode (bitsOf c.convWord 0 5)).getD .fp32) c.count)
  else if c.kind = 0x0C04 then (if c.index = 0 then c.count else 0, c.count)
  else if c.kind = 0x0C05 then (c.count, n * c.count)
  else (0, 0)

def spanOk (h : Hub) (a n : Nat) : Bool := n == 0 || inOneRegion h a n

/-- All checks of a descriptor: the collective with its group, or the code of the refusal. -/
def checkColl (h : Hub) (w : Work) (d : Desc) : Except Code (Coll × CollGroup) :=
  let c := collFrom d
  match collFieldsBad h d c with
  | some e => .error e
  | none =>
    match readGroup h w c.group c.collSeq.toNat with
    | .error e => .error e
    | .ok g =>
      if g.nextSeq ≠ c.collSeq.toNat then .error 0x0506
      else
        match collScale h w c with
        | .error e => .error e
        | .ok sc =>
          let c1 := { c with members := g.members, index := g.index, scale := sc, portMask := g.portMask }
          if spanOk h c1.srcAddr (collSpans c1).1 && spanOk h c1.dstAddr (collSpans c1).2 then .ok (c1, g)
          else .error 0x0509

/-- This member's own value (R390 step 1). -/
def ownData (c : Coll) (src : List Byte) : List Byte :=
  if reducing c.kind then
    let f := (fmtOfCode c.srcFmt).getD .fp32
    let n := totalElems c
    rowBytesOf (partFmt c) ((codesOf f src n).map (fun x => (convertTo (partFmt c) .rne false (decodeVal f x)).code))
  else src

/-- Ternary codes 0b10 among the SRC elements. -/
def badCodes (c : Coll) (src : List Byte) : Nat :=
  let f := (fmtOfCode c.srcFmt).getD .fp32
  if reducing c.kind then (codesOf f src (totalElems c)).countP (invalidTernary f) else 0

/-- A collective that passed its checks. -/
def runColl (h : Hub) (w : Work) (k : Nat) (c : Coll) (g : CollGroup) : Work :=
  let w1 := trace h (enterGroup h w c.group c.collSeq.toNat g) 2 (unitOf 7 k) c.collSeq.toNat
  let w2 := w1.setCollQ k (fun q => { q with desc := none, cur := some c })
  if w2.colls.dead.contains (c.group, c.collSeq) then abandonColl h w2 k c 0x050B
  else
    match physRead h w2 c.srcAddr (collSpans c).1 with
    | .error (e, a) => abortColl h (emitMemError h w2 e (unitOf 7 k) a) k c e
    | .ok src =>
      let w3 := w2.setColl k (fun x => { x with data := ownData c src, badRead := badCodes c src })
      let mine (b : List Byte) : Bool := fld b 8 2 == c.group && fld b 4 4 == c.collSeq.toNat
      let w4 := w3.setColls (fun x => { x with waiting := x.waiting.filter (fun b => !mine b) })
      advanceColl h ((w3.colls.waiting.filter mine).foldl (routeMessage h) w4) k

/-- A queue runs the descriptor of one type that it has taken. -/
def startColl (h : Hub) (w : Work) (k kind : Nat) : Work :=
  let q := collQ w k
  match q.desc with
  | none => w
  | some d =>
    if d.kind ≠ kind ∨ !collWorks h then w
    else if w.colls.heldGroups.contains (fld d.payload 0x20 2) then
      w.setCollQ k (fun q => { q with desc := none, nextSeq := q.nextSeq - 1, groupHeld := true })
    else
      match checkColl h w d with
      | .ok (c, g) => runColl h w k c g
      | .error e =>
        let c := collFrom d
        endColl h w k (if complOk h c.complAddr then c.complAddr else 0) (if 2 ^ 14 ≤ c.signal then 0 else c.signal)
          (reducing c.kind && c.partialCode != 0) c.collSeq e 0 none

def execAllReduce (k : Nat) (s : State) : Out := onWork s fun h w => startColl h w k 0x0C01
def execCollectiveReduce (k : Nat) (s : State) : Out := onWork s fun h w => startColl h w k 0x0C02
def execReduceScatter (k : Nat) (s : State) : Out := onWork s fun h w => startColl h w k 0x0C03
def execBroadcast (k : Nat) (s : State) : Out := onWork s fun h w => startColl h w k 0x0C04
def execAllGather (k : Nat) (s : State) : Out := onWork s fun h w => startColl h w k 0x0C05
def execBarrier (k : Nat) (s : State) : Out := onWork s fun h w => startColl h w k 0x0C06

end Sys2Proof.Machine
end

