-- ==== Sys2Proof/Machine/Queues.lean ====
section
/-!
DEFINITION. Engine queues: doorbells and the descriptors RUN, SET_GEN, RESUME and unknown types (07 R171 to R177, 14 R435
to R439).
-/

namespace Sys2Proof.Machine

/-! ### DOORBELL (07 R207, 14 R437, R439, 15 R484, R485) -/

/-- The effect of a doorbell on a queue with ENABLE = 1. -/
def ringQueue (h : Hub) (w : Work) (e q : Nat) (hint : Seq) : Work :=
  let w1 := w.setEngine e (fun en =>
    { en.setStream q (fun s => { s with hint := some hint }) with selfParked := false })
  let st := w1.stream e q
  if !working h w1 e then w1.setStream e q (fun s => { s with ringWaits := true })
  else if st.unsealed then readQueue h (w1.setStream e q (fun s => { s with unsealed := false, rereads := 0 })) e q
  else if st.rereads ≠ 0 then w1
  else readQueue h w1 e q

/-- A store to DOORBELL_q: refused for an absent or retired engine (01 R27), discarded with ENABLE = 0. -/
def storeDoorbell (h : Hub) (w : Work) (e q : Nat) (v : Word) : Work :=
  if !present h e then w.reply 0x0401 []
  else if !(w.stream e q).enable then w.reply 0 []
  else ringQueue h (w.reply 0 []) e q (v.setWidth 32)

def execDoorbell (e q : Nat) (v : Word) (s : State) : Out :=
  onWork s fun h w => if q < 4 then storeDoorbell h w e q v else w

/-! ### Descriptors (07 R173, R174) -/

/-- The descriptor of type `kind` that stream `q` holds and has not begun. -/
def heldDesc (h : Hub) (w : Work) (e q : Nat) (mine : Nat → Bool) : Option Desc :=
  let st := w.stream e q
  match st.desc with
  | some d => if mine d.kind && !st.running && st.faulting.isNone && working h w e then some d else none
  | none => none

/-- A reserved range of the payload holds a nonzero byte. -/
def rangeSet (b : List Byte) (off n : Nat) : Bool := ((b.drop off).take n).any (fun x => x != 0)

/-- The checks that every descriptor passes first: reserved bytes, then COMPL_ADDR (07 R173, R174). `run` goes on with
COMPL_ADDR held. -/
def openDesc (h : Hub) (w : Work) (e q : Nat) (d : Desc) (reserved : Bool) (run : Work → Work) : Work :=
  let a := fld d.payload 8 8
  let w1 := w.setStream e q (fun s => { s with complAddr := if complOk h a then BitVec.ofNat 64 a else 0 })
  if reserved then refuseDescriptor h w1 e q 0x0201 0
  else if !complOk h a then refuseDescriptor h w1 e q 0x0203 a
  else run w1

/-! ### RUN (07 R175) -/

/-- The program header breaks its table. -/
def headerBad (b : List Byte) : Bool :=
  fld b 0 4 != 0x5A32 || fld b 4 2 != 1 || fld b 6 2 != 0 || fld b 8 8 % 16 != 0 || fld b 8 8 < 16 ||
    fld b 16 8 % 16 != 0 || fld b 8 8 ≤ fld b 16 8

/-- An argument is above its bound. -/
def argsBad (b payload : List Byte) : Bool :=
  (List.range 5).any (fun i => decide (fld b (24 + 8 * i) 8 < fld payload (16 + 8 * i) 8))

/-- The stream's state when a RUN starts: D1 to D26 are 0, D27 to D31 the arguments. -/
def runStart (st : Stream) (prog len entry : Nat) (payload : List Byte) : Stream :=
  { st with
    running := true
    endIssued := false
    acquire := none
    tileWait := []
    pc := BitVec.ofNat 64 entry
    isn := 0
    progAddr := BitVec.ofNat 64 prog
    length := len
    d := List.replicate 27 0 ++ (List.range 5).map (fun i => BitVec.ofNat 64 (fld payload (16 + 8 * i) 8))
    runTokenWait := 0 }

def startRun (h : Hub) (w : Work) (e q : Nat) (d : Desc) : Work :=
  let prog := fld d.payload 0 8
  if prog % 64 ≠ 0 ∨ !inOneRegion h prog 64 then refuseDescriptor h w e q 0x0203 prog
  else
    let w1 := keepPage h w e prog
    match engineRead h w1 e prog 64 with
    | .error (c, a) => refuseDescriptor h w1 e q c a
    | .ok b =>
      if headerBad b || !inOneRegion h prog (64 + fld b 8 8) then refuseDescriptor h w1 e q 0x020C prog
      else if argsBad b d.payload then refuseDescriptor h w1 e q 0x020D 0
      else
        trace h (w1.setStream e q (fun st => runStart st prog (fld b 8 8) (fld b 16 8) d.payload)) 1 (unitOf 1 e) prog

/-- RUN: the header and the arguments are checked, and the program starts. -/
def execRun (e q : Nat) (s : State) : Out :=
  onWork s fun h w =>
    match heldDesc h w e q (fun k => k == 0x0E01) with
    | some d => if (w.engine e).stopped then w else openDesc h w e q d false (fun w => startRun h w e q d)
    | none => w

/-! ### SET_GEN (07 R176) -/

/-- SET_GEN begins to wait: no stream issues from now on. -/
def execSetGen (e q : Nat) (s : State) : Out :=
  onWork s fun h w =>
    match heldDesc h w e q (fun k => k == 0x0E02) with
    | some d =>
      if (w.engine e).genHold.isSome then w
      else
        openDesc h w e q d (rangeSet d.payload 0x12 6 || rangeSet d.payload 0x20 24 || decide (4096 ≤ fld d.payload 0x10 2))
          (fun w => w.setEngine e (fun en => { en with genHold := some q }))
    | none => w

/-- An issued instruction that draws and is not complete (02 R67). -/
def drawsOutstanding (en : Engine) : Bool :=
  en.ops.any (fun o => match o.conv with
    | some c => c.draws
    | none => false)

/-- The seed, the unit and every counter are written, and the streams resume. -/
def execSetGenApply (e : Nat) (s : State) : Out :=
  onWork s fun h w =>
    let en := w.engine e
    match en.genHold with
    | none => w
    | some q =>
      if drawsOutstanding en || !working h w e then w
      else
        match (en.stream q).desc with
        | none => w
        | some d =>
          let g : GenState :=
            ⟨BitVec.ofNat 64 (fld d.payload 0 8), BitVec.ofNat 12 (fld d.payload 0x10 2), BitVec.ofNat 64 (fld d.payload 0x18 8), []⟩
          finishDescriptor h (w.setEngine e (fun en => { en with gen := g, genHold := none })) e q 0 0

/-! ### Unknown types (07 R173) -/

def knownDesc (k : Nat) : Bool := decide (0x0E01 ≤ k ∧ k ≤ 0x0E05)

/-- A descriptor of any other type stops the stream. Its record goes to payload offset 8, where every type has COMPL_ADDR,
when that meets R174. -/
def execUnknownDescriptor (e q : Nat) (s : State) : Out :=
  onWork s fun h w =>
    match heldDesc h w e q (fun k => !knownDesc k) with
    | some d =>
      let a := fld d.payload 8 8
      refuseDescriptor h (w.setStream e q (fun st => { st with complAddr := if complOk h a then BitVec.ofNat 64 a else 0 }))
        e q 0x020B 0
    | none => w

/-! ### Streams that wait to read their rings -/

/-- Read the ring of each stream whose read waited for the engine (07 R177, 15 R485); a doorbell that came meanwhile ends an
unsealed-slot hold (14 R439). -/
def wakeStreams (h : Hub) (w : Work) (e : Nat) : Work :=
  if !working h w e then w
  else
    (List.range 4).foldl
      (fun w q =>
        let st := w.stream e q
        if st.ringWaits then
          readQueue h
            (w.setStream e q (fun s =>
              { s with ringWaits := false, unsealed := false, rereads := if s.unsealed then 0 else s.rereads })) e q
        else w)
      w

end Sys2Proof.Machine
end

