-- ==== Sys2Proof/Machine/Context.lean ====
section
/-!
DEFINITION. Context save, restore and RESUME (05 R142 to R147, 07 R177 to R179, 02 R68).
-/

namespace Sys2Proof.Machine

def ctxSize : Nat := 0x1B0000

/-- The local address that CTX_ADDR names, if it names this module (01 R37): its MODULE is 0x1_FFFF or the module's own
number. While no number is valid, an address without a MODULE is a local one (DEDUCED, log 85). -/
def ctxLocal (h : Hub) (a : Nat) : Option Nat :=
  match targetOf h a with
  | .self l => some l
  | _ => if a < 2 ^ 47 ∧ h.ident.numberValid = false then some a else none

/-- CTX_ADDR: 64 KiB aligned, the whole area in LPDDR5X or one engine's window of this module (05 R142). -/
def ctxAddr (h : Hub) (a : Nat) : Option Nat :=
  match ctxLocal h a with
  | some l => if l % 0x10000 = 0 ∧ inOneRegion h l ctxSize = true then some l else none
  | none => none

/-! ### RESUME (07 R177) -/

/-- The streams restart where they stopped. -/
def restart (en : Engine) : Engine := { en with stopped := false, saving := none }

def execResume (e q : Nat) (s : State) : Out :=
  onWork s fun h w =>
    match heldDesc h w e q (fun k => k == 0x0E05) with
    | some d =>
      if (w.engine e).saving.isSome then w
      else
      openDesc h w e q d (rangeSet d.payload 0 8 || rangeSet d.payload 0x10 40) (fun w =>
        if (w.engine e).stopped then
          wakeStreams h (finishDescriptor h (w.setEngine e restart) e q 0 0) e
        else finishDescriptor h w e q 0 0)
    | none => w

/-! ### CTX_SAVE (05 R144, R145) -/

/-- The first token that does not enter: `entered` have, or those whose planes had begun to enter before. -/
def firstOut (o : Op) (p : ArrayP) (s : WeightSet) (t entered : Nat) : Nat :=
  let per := stepsPerToken p s
  min p.m (max entered (t + (o.planes + per - 1) / per))

/-- The interruption: the operation and the first token that does not enter, if any token is left. -/
def interruptAt (en : Engine) (entered : Nat) : Option (Nat × Nat) :=
  match runningArray en with
  | some o => (match o.kind with
    | .array p _ (some s) _ t => let n := firstOut o p s t entered
                                 if n < p.m then some (o.id, n) else none
    | _ => none)
  | none => none

/-- The array takes the tokens below the interruption, and its feeders fill behind them (04 R110, R118). -/
def takeTokens (h : Hub) (w : Work) (e entered : Nat) : Work :=
  match runningArray (w.engine e) with
  | none => w
  | some o =>
    match o.kind with
    | .array p _ (some s) _ t =>
      let n := firstOut o p s t entered
      (match feedOp h w e o (n + feederDepth) with
       | (w1, true) => enterPlanes w1 e o ((n - t) * stepsPerToken p s)
       | (w1, false) => w1)
    | _ => w

/-- A weight load in progress stops: it is to start again, from its first row (05 R144 step 2). -/
def stopLoad (en : Engine) : Engine :=
  { en with
    ops := en.ops.map (fun o => match o.kind with
      | .wload p _ => { o with phase := .issued, kind := .wload p (some (emptySet p)) }
      | _ => o) }

/-- A tile is held, and Config says that this refuses a context save or restore (05 R128). -/
def contextConflict (en : Engine) : Bool := en.tiles.any (fun t => t.holder != .none) && Config.contextNeedsFreeTiles

/-- A free tile is held by the save or restore (05 R127). -/
def holdFree (en : Engine) : Engine :=
  { en with tiles := en.tiles.map (fun t => if t.holder == .none then { t with holder := .context, count := 1 } else t) }

def releaseContext (en : Engine) : Engine :=
  { en with tiles := en.tiles.map (fun t => if t.holder == .context then releaseTile t else t) }

/-- CTX_SAVE: the sequencer stops, and the array takes no token from `entered` on. -/
def execCtxSave (e q entered : Nat) (s : State) : Out :=
  onWork s fun h w =>
    match heldDesc h w e q (fun k => k == 0x0E03) with
    | some d =>
      if (w.engine e).stopped then w
      else
        openDesc h w e q d (rangeSet d.payload 0x10 40) (fun w =>
          match ctxAddr h (fld d.payload 0 8) with
          | none => refuseDescriptor h w e q 0x0203 (fld d.payload 0 8)
          | some a =>
            if contextConflict (w.engine e) then refuseDescriptor h (countConflict w e) e q 0x0208 0
            else
              (takeTokens h w e entered).setEngine e (fun en =>
                { holdFree (stopLoad en) with stopped := true, saving := some ⟨q, a, interruptAt en entered⟩ }))
    | none => w

/-- An operation that cannot begin: a release with earlier instructions outstanding, or an element-unit operation whose
drain is not issued. -/
def stuck (en : Engine) (o : Op) : Bool :=
  (o.release && !priorDone en o) ||
    (match o.kind with
     | .eu p b _ _ _ => p.aHandoff && b.isNone
     | _ => false)

/-- An operation that a save does not wait for: array work that has not entered or is interrupted, waits and fences, and
what cannot begin, with what stands behind it in its unit (05 R144, log 16). A save waits for every issued REDUCE (07
R204). -/
def mayStay (en : Engine) (o : Op) : Bool :=
  match o.kind with
  | .wload .. => o.phase == .issued
  | .array .. => o.phase == .issued || (en.saving.bind (fun j => j.resume)).map (fun r => r.1) == some o.id
  | .wait _ => true
  | .fence => true
  | .reduce _ => false
  | _ => (unitOps en (unitOfKind o.kind) o.stream).any (fun x => decide (x.id ≤ o.id) && stuck en x)

/-! The area's bytes (05 R142, R143; 07 R179; 02 R68) -/

/-- A weight-set record of 64 bytes. -/
def setRecord (s : Option WeightSet) : List Byte :=
  match s with
  | none => List.replicate 64 0
  | some s =>
    padTo 64 (leBytes 1 (fmtCode s.fmt) ++ leBytes 1 s.passes ++ leBytes 2 s.kRows ++ leBytes 2 s.nCols ++ leBytes 2 0 ++
      leBytes 8 s.wAddr ++ leBytes 8 s.wStride ++ leBytes 8 s.wsAddr ++ leBytes 8 s.rdAddr)

/-- The shadow set, loaded or loading. -/
def shadowSet (en : Engine) : Option WeightSet :=
  match en.arr.shadow with
  | some s => some s
  | none =>
    match en.ops.find? isWload with
    | some o => (match o.kind with
      | .wload _ s => s
      | _ => none)
    | none => none

/-- A feeder entry of an activation (05 R143): significand, exponent field, sign. -/
def feedEntry (f : Fmt) (code : Nat) : Nat :=
  match f with
  | .int4 => significand f code + (if 8 ≤ code then 2 ^ 20 else 0)
  | .int2 => significand f code + (if 2 ≤ code then 2 ^ 20 else 0)
  | .ternary => significand f code + (if code = 3 then 2 ^ 20 else 0)
  | .binary => 1 + (if code = 1 then 0 else 2 ^ 20)
  | .w12 =>
    let c := (convertTo .w12 .rne false (fp32Val code)).code
    significand f code + bitsOf c 11 8 * 2 ^ 12 + bitsOf c 19 1 * 2 ^ 20
  | f =>
    match fpParams f with
    | some (eb, _, fb) => significand f code + bitsOf code fb eb * 2 ^ 12 + bitsOf code (fb + eb) 1 * 2 ^ 20
    | none => 0

/-- The activation code of a feeder entry: the inverse of `feedEntry` but for the invalid ternary code, which is 0. -/
def feedCode (f : Fmt) (x : Nat) : Nat :=
  let sig := bitsOf x 0 12
  let ex := bitsOf x 12 8
  let neg := bitOf x 20
  match f with
  | .int4 => if neg then 16 - sig else sig
  | .int2 => if neg then 4 - sig else sig
  | .ternary => if sig = 0 then 0 else if neg then 3 else 1
  | .binary => if neg then 0 else 1
  | .w12 => (sig % 2048 + ex * 2 ^ 11 + (if neg then 2 ^ 19 else 0)) * 2 ^ 12
  | f =>
    match fpParams f with
    | some (eb, _, fb) => sig % 2 ^ fb + ex * 2 ^ fb + (if neg then 2 ^ (fb + eb) else 0)
    | none => 0

/-- The instruction, token and stream of the interrupted operation, 64 bytes. -/
def resumeRecord (en : Engine) (r : Option (Nat × Nat)) : List Byte :=
  match r.bind (fun x => (en.op x.1).map (fun o => (o, x.2))) with
  | none => List.replicate 64 0
  | some (o, n) => padTo 64 (leBytes 16 o.word ++ leBytes 2 n ++ leBytes 1 o.stream)

/-- An operation that the area holds: the interrupted one, or the load whose parameters are SHADOW_SET (05 R142). -/
def inArea (en : Engine) (o : Op) : Bool :=
  (en.saving.bind (fun j => j.resume)).map (fun r => r.1) == some o.id ||
    (isWload o && en.arr.shadow.isNone && (en.ops.find? isWload).map (fun x => x.id) == some o.id)

/-- Go back over the instructions last issued that have not been carried out and that the area does not hold. -/
def rewind (en : Engine) (q : Nat) : Nat → Word × Word → Word × Word
  | 0, pt => pt
  | n + 1, (pc, isn) =>
    match en.ops.find? (fun o => o.stream == q && o.isn == isn && !inArea en o) with
    | some o => rewind en q n (o.pc, o.isn - 1)
    | none => (pc, isn)

/-- Where stream `q` goes on after a restore: a TILE_WAIT or END that is not complete is issued again, and so are the
instructions before it that have not been carried out (log 16). -/
def savePoint (en : Engine) (q : Nat) : Word × Word :=
  let st := en.stream q
  rewind en q en.ops.length
    (if st.endIssued || !st.tileWait.isEmpty then (st.pc - 16, st.isn - 1) else (st.pc, st.isn))

def faultCodeReg (r : FaultRec) : Nat := r.code.toNat + r.opcode * 2 ^ 16 + r.later * 2 ^ 24

/-- The record of one stream, 0x300 bytes. -/
def streamRecord (en : Engine) (q : Nat) : List Byte :=
  let st := en.stream q
  let pt := savePoint en q
  leBytes 8 pt.1.toNat ++ leBytes 8 pt.2.toNat ++
    leBytes 8 ((if st.running then 1 else 0) + (if st.fault then 2 else 0)) ++
    leBytes 8 st.progAddr.toNat ++ leBytes 8 st.complAddr.toNat ++ leBytes 8 (faultCodeReg st.record) ++
    leBytes 8 st.record.isn.toNat ++ List.replicate 200 0 ++ st.d.flatMap (fun x => leBytes 8 x.toNat) ++
    List.replicate 256 0

/-- Generator state of 16,448 bytes (02 R68). -/
def genBytes (g : GenState) : List Byte :=
  leBytes 8 g.seed.toNat ++ leBytes 2 g.unit.toNat ++ List.replicate 54 0 ++
    (List.range 2048).flatMap (fun l => leBytes 8 (laneCounter g l).toNat)

def tileBytes (t : Tile) : List Byte := (List.range 131072).flatMap (fun i => leBytes 6 (alGet 0#48 t.elems i).toNat)

/-- Codes that the feeders hold for the interrupted operation, by token, at most 64 tokens. -/
def feedTokens (en : Engine) (r : Option (Nat × Nat)) : Option (Fmt × List (List Nat)) :=
  match r.bind (fun x => en.op x.1) with
  | some o => (match o.kind with
    | .array p _ _ acts _ => some (p.aFmt, (acts.take 64).map (fun x => x.1))
    | _ => none)
  | none => none

/-- FEED_PTR: heads 0, and the number of entries of each queue. -/
def feedPtrs (x : Option (Fmt × List (List Nat))) : List Byte :=
  match x with
  | none => List.replicate 1024 0
  | some (_, toks) => (List.range 512).flatMap (fun i => leBytes 2 (toks.countP (fun l => decide (i < l.length)) * 64))

/-- FEED_ENTRIES: entry `k` of queue `i`. -/
def feedBytes (x : Option (Fmt × List (List Nat))) : List Byte :=
  match x with
  | none => List.replicate 131072 0
  | some (f, toks) =>
    (List.range 512).flatMap (fun i => (List.range 64).flatMap (fun k =>
      match (toks.getD k [])[i]? with
      | some c => leBytes 4 (feedEntry f c)
      | none => leBytes 4 0))

/-- The whole area, CTX_COMPLETE written. -/
def ctxBytes (en : Engine) (e : Nat) (r : Option (Nat × Nat)) : List Byte :=
  let sh := shadowSet en
  let flags := (if en.arr.active.isSome then 1 else 0) + (if sh.isSome then 2 else 0) + (if r.isSome then 4 else 0) +
    (if (en.tile 0).faulted then 8 else 0) + (if (en.tile 1).faulted then 16 else 0)
  let feed := feedTokens en r
  leBytes 4 1 ++ leBytes 2 e ++ leBytes 2 0 ++ leBytes 8 flags ++ List.replicate 232 0 ++ leBytes 8 1 ++
    setRecord en.arr.active ++ setRecord sh ++ resumeRecord en r ++ List.replicate 3648 0 ++
    (List.range 4).flatMap (streamRecord en) ++ en.tokens.flatMap (fun x => leBytes 4 x.toNat) ++ List.replicate 768 0 ++
    genBytes en.gen ++ List.replicate 8128 0 ++ feedPtrs feed ++ List.replicate 31744 0 ++ feedBytes feed ++
    tileBytes (en.tile 0) ++ tileBytes (en.tile 1)

/-- The tokens below the interruption are added, their planes have left, and the operation keeps the rest (05 R145). -/
def cutOperation (w : Work) (e n : Nat) (o : Op) (p : ArrayP) (s : WeightSet) (acts : List (List Nat × List Nat))
    (t : Nat) : Work :=
  (leaveArray w e o ((n - t) * stepsPerToken p s)).setEngine e (fun en =>
    (en.setTile p.tile (fun x => addTokens p.aFmt s t (acts.take (n - t)) x)).setOp o.id (fun x =>
      { x with planes := 0, kind := .array p none (some s) (acts.drop (n - t)) n }))

/-- A save that ends before its area is whole: CTX_COMPLETE holds 0, and each other word of the area is old or new
(05 R144, 07 R214). `spoilt` names addresses whose bytes could not be read. -/
def cutSave (h : Hub) (w : Work) (e : Nat) (j : CtxJob) (spoilt : Nat → Bool) : Work :=
  let put (w : Work) (a : Nat) (bs : List Byte) : Work :=
    match engineStore h w e false a bs with
    | .ok w1 => w1
    | .error _ => w
  let parts := (wordParts j.addr (ctxBytes (w.engine e) e j.resume)).filter
    (fun x => !(List.range x.2.length).any (fun i => spoilt (x.1 + i)))
  put (partialWords w parts put) (j.addr + 0xF8) (leBytes 8 0)

/-- CTX_SAVE completes: the area is written, CTX_COMPLETE last, and the engine stays stopped. Where a part of the area
cannot be written, CTX_COMPLETE keeps the 0 of step 3 and the save ends with the code (05 R144). -/
def finishSave (h : Hub) (w : Work) (e : Nat) (j : CtxJob) : Work :=
  let free (w : Work) : Work := w.setEngine e (fun en => { releaseContext en with saving := none })
  match engineStore h w e false j.addr (ctxBytes (w.engine e) e j.resume) with
  | .error (c, a) =>
    finishDescriptor h (recordFault h (free (cutSave h w e j (fun _ => false))) e j.stream c (descFaultAt a)) e j.stream 0 c
  | .ok w1 => finishDescriptor h (free w1) e j.stream 0 0

/-- Operations in flight are complete: the entered tokens are added and the area is written (05 R144). -/
def endSave (h : Hub) (w : Work) (e : Nat) (j : CtxJob) : Work :=
  let en := w.engine e
  match j.resume.bind (fun x => (en.op x.1).map (fun o => (o, x.2))) with
  | none => finishSave h w e { j with resume := none }
  | some (o, n) =>
    match o.kind with
    | .array p _ (some st) acts t =>
      let ev := tokenEvents p st t t (acts.take (n - t))
      let w1 := trapNans w e o 1 0 ev
      if trapHalts o ev then
        finishSave h
          (faultArray h (w1.setEngine e (fun en => { en with saving := some { j with resume := none } })) e o 0 0x0301 0 none)
          e { j with resume := none }
      else finishSave h (cutOperation w1 e n o p st acts t) e j
    | _ => finishSave h w e { j with resume := none }

/-- CTX_SAVE completes once no operation is in flight. -/
def execCtxSaveComplete (e : Nat) (s : State) : Out :=
  onWork s fun h w =>
    let en := w.engine e
    match en.saving with
    | none => w
    | some j =>
      if !working h w e || !en.ops.all (mayStay en) then w else wholeStep w (6, e, 0) (endSave h w e j)

/-! ### CTX_RESTORE (05 R146, 07 R177, R178) -/

/-- Bits of a little-endian field that must be 0. -/
def bitsSet (b : List Byte) (off n lo : Nat) : Bool := decide (2 ^ lo ≤ fld b off n)

/-- The area is refused (05 R146): incomplete, another version, or a reserved field that is not 0. -/
def ctxBad (b : List Byte) : Bool :=
  let strm (q : Nat) : Bool :=
    let o := 0x1000 + q * 0x300
    bitsSet b (o + 0x10) 8 2 || bitsSet b (o + 0x28) 8 32 || rangeSet b (o + 0x38) 200 || rangeSet b (o + 0x200) 256
  let setBad (o : Nat) : Bool := rangeSet b (o + 6) 2 || rangeSet b (o + 0x28) 24
  fld b 0xF8 8 != 1 || fld b 0 4 != 1 || rangeSet b 6 2 || bitsSet b 8 8 5 || rangeSet b 0x10 232 ||
    setBad 0x100 || setBad 0x140 || rangeSet b (0x180 + 0x13) 45 || rangeSet b 0x1C0 3648 || (List.range 4).any strm ||
    rangeSet b 0x1D00 768 || bitsSet b 0x2008 2 12 || rangeSet b 0x200A 54 || rangeSet b 0x6040 8128 ||
    (List.range 512).any (fun i => bitsSet b (0x8000 + 2 * i) 2 13) || rangeSet b 0x8400 31744 ||
    (List.range 32768).any (fun i => bitsSet b (0x10000 + 4 * i) 4 21)

/-- A saved weight set, read again from its SRAM (04 R105); none where the area has none. A record whose W_FMT is no format
gives no set. -/
def reloadSet (h : Hub) (w : Work) (e : Nat) (b : List Byte) (valid : Bool) (o : Nat) : Except (Code × Nat) (Option WeightSet) :=
  match valid, fmtOfCode (fld b o 1) with
  | true, some f =>
    let p : WloadP :=
      ⟨f, fld b (o + 1) 1, fld b (o + 8) 8, fld b (o + 16) 8, fld b (o + 2) 2, fld b (o + 4) 2, fld b (o + 24) 8, fld b (o + 32) 8⟩
    (loadRows h w e (emptySet p) p.kRows).map some
  | _, _ => .ok none

/-- Stream `q` of the area; a running one holds the RUN that was saved. -/
def restoreStream (h : Hub) (w : Work) (e : Nat) (b : List Byte) (q : Nat) (st : Stream) : Stream :=
  let o := 0x1000 + q * 0x300
  let word (off : Nat) : Word := BitVec.ofNat 64 (fld b (o + off) 8)
  let fc := fld b (o + 0x28) 8
  let run := bitOf (fld b (o + 0x10) 8) 0
  let prog := fld b (o + 0x18) 8
  { st with
    pc := word 0
    isn := word 8
    running := run
    fault := bitOf (fld b (o + 0x10) 8) 1
    faulting := none
    progAddr := word 0x18
    length := (match engineNat h w e (prog + 8) 8 with
      | .ok n => n
      | .error _ => 0)
    complAddr := word 0x20
    record :=
      { noFaultRec with code := BitVec.ofNat 16 fc, opcode := bitsOf fc 16 8, later := bitsOf fc 24 8, isn := word 0x30 }
    d := (List.range 32).map (fun i => word (0x100 + 8 * i))
    desc := if run then some ⟨0x0E01, [], 0⟩ else none
    endIssued := false
    acquire := none
    tileWait := [] }

def restoreTile (b : List Byte) (o : Nat) (faulted : Bool) : Tile :=
  { resetTile with
    elems := ((List.range 131072).map (fun i => (i, BitVec.ofNat 48 (fld b (o + 6 * i) 6)))).filter (fun x => x.2 != 0)
    faulted := faulted }

def restoreGen (b : List Byte) : GenState :=
  { seed := BitVec.ofNat 64 (fld b 0x2000 8)
    unit := BitVec.ofNat 12 (fld b 0x2008 2)
    base := 0
    counters := ((List.range 2048).map (fun l => (l, BitVec.ofNat 64 (fld b (0x2040 + 8 * l) 8)))).filter (fun x => x.2 != 0) }

/-- The code that queue `i` holds for its `k`-th token. -/
def feederCode (b : List Byte) (f : Fmt) (i k : Nat) : Option Nat :=
  let ptr := fld b (0x8000 + 2 * i) 2
  if k < bitsOf ptr 6 7 then some (feedCode f (fld b (0x10000 + 256 * i + 4 * ((bitsOf ptr 0 6 + k) % 64)) 4)) else none

/-- The tokens that every queue of the first `rows` holds: their codes, oldest first. -/
def feederTokens (b : List Byte) (f : Fmt) (rows : Nat) : List (List Nat) :=
  (List.range feederDepth).filterMap (fun k => (List.range rows).mapM (fun i => feederCode b f i k))

/-- The interrupted operation of an area: its stream, its word, its parameters, RESUME_TOKEN, and the tokens that the
feeders hold, with their block scales read again (05 R143, R145). The operands are those of the saved registers
(DEDUCED, log 16). -/
def resumedOp (h : Hub) (w : Work) (e : Nat) (b : List Byte) (s : WeightSet) :
    Except (Code × Nat) (Option (ArrayP × List (List Nat × List Nat))) :=
  let word := fld b 0x180 16
  let n := fld b 0x190 2
  match multiplyFmt (bitsOf word 16 5) with
  | none => .ok none
  | some f =>
    let st : Stream :=
      { resetStream with
        d := (List.range 32).map (fun i => BitVec.ofNat 64 (fld b (0x1100 + fld b 0x192 1 * 0x300 + 8 * i) 8)) }
    let ad := pairN st word 21
    let p : ArrayP :=
      ⟨f, ad.1, ad.2, regN st word 25, bitsOf word 30 9, regN st word 39, bitsOf word 44 1, bitOf word 45⟩
    let toks := (feederTokens b f s.kRows).take (p.m - n)
    match readScales h w e p s n toks.length with
    | .error x => .error x
    | .ok sc => .ok (some (p, pairUp toks sc))

/-- The interrupted operation goes on at RESUME_TOKEN (05 R146 step 4), under its stream's saved ISN and PC. -/
def resumeArray (w : Work) (e : Nat) (b : List Byte) (s : WeightSet) (p : ArrayP) (toks : List (List Nat × List Nat)) : Work :=
  let word := fld b 0x180 16
  let q := fld b 0x192 1
  let st := w.stream e q
  let id := (w.engine e).nextId
  (issueOp w e q word none (acquireOf word) (releaseOf word) (.array p none (some s) toks (fld b 0x190 2))).setEngine e (fun en =>
    let en1 := en.setOp id (fun o => { o with phase := .started, isn := st.isn, pc := st.pc - 16 })
    let en2 := en1.setStream q (fun x => { x with pc := st.pc, isn := st.isn })
    en2.setTile p.tile (fun t => holdTile t .array q))

/-- What a restore reads beside the area before it changes any state: the weight sets (05 R146 steps 2 and 3) and the
interrupted operation. A memory error refuses the restore (DESIGN CHOICE, log 86). -/
def reloads (h : Hub) (w : Work) (e : Nat) (b : List Byte) :
    Except (Code × Nat) (Option WeightSet × Option WeightSet × Option (ArrayP × List (List Nat × List Nat))) :=
  let flags := fld b 8 8
  match reloadSet h w e b (bitOf flags 0) 0x100 with
  | .error x => .error x
  | .ok act =>
    match reloadSet h w e b (bitOf flags 1) 0x140 with
    | .error x => .error x
    | .ok sh =>
      match act with
      | some s =>
        if bitOf flags 2 && decide (fld b 0x192 1 < 4) then (resumedOp h w e b s).map (fun r => (act, sh, r)) else .ok (act, sh, none)
      | none => .ok (none, sh, none)

/-- An accepted restore (05 R146): tiles, generator, sequencer, sets, the interrupted operation. A plane whose VALID flag is 0
holds no set (DESIGN CHOICE, log 87). -/
def loadContext (h : Hub) (w : Work) (e : Nat) (b : List Byte)
    (x : Option WeightSet × Option WeightSet × Option (ArrayP × List (List Nat × List Nat))) : Work :=
  let flags := fld b 8 8
  let w1 := w.setEngine e (fun en =>
    { en with
      ops := []
      stopped := false
      saving := none
      selfParked := false
      gen := restoreGen b
      tokens := (List.range 64).map (fun c => BitVec.ofNat 32 (fld b (0x1C00 + 4 * c) 4))
      tiles := [restoreTile b 0x30000 (bitOf flags 3), restoreTile b 0xF0000 (bitOf flags 4)]
      streams := en.streams.mapIdx (fun q st => restoreStream h w e b q st)
      arr := { en.arr with active := x.1, shadow := x.2.1 } })
  match x.1, x.2.2 with
  | some s, some r => resumeArray w1 e b s r.1 r.2
  | _, _ => w1

/-- Streams other than `q` hold no descriptor (07 R177). -/
def othersIdle (en : Engine) (q : Nat) : Bool :=
  (List.range 4).all (fun i => i == q || ((en.stream i).desc.isNone && !(en.stream i).fault))

/-- The restore is accepted: the record goes to the descriptor's COMPL_ADDR before the stream takes its saved state, and the
restored streams go on. -/
def restoreContext (h : Hub) (w : Work) (e q : Nat) (b : List Byte)
    (x : Option WeightSet × Option WeightSet × Option (ArrayP × List (List Nat × List Nat))) : Work :=
  let st := w.stream e q
  let w1 := finishDescriptor h (w.setStream e q (fun s => { s with enable := false })) e q 0 0
  let failed := (w1.stream e q).fault
  let w2 := loadContext h w1 e b x
  let w3 := w2.setStream e q (fun s => { s with enable := st.enable })
  let w4 := if failed then w3.setStream e q (fun s => { s with fault := true, record := (w1.stream e q).record }) else w3
  wakeStreams h ((List.range 4).foldl (fun w i => if (w.stream e i).desc.isNone then readQueue h w e i else w) w4) e

/-- CTX_RESTORE: checked, read, and carried out. -/
def execCtxRestore (e q : Nat) (s : State) : Out :=
  onWork s fun h w =>
    match heldDesc h w e q (fun k => k == 0x0E04) with
    | some d =>
      if (w.engine e).saving.isSome then w
      else
      openDesc h w e q d (rangeSet d.payload 0x10 40) (fun w =>
        let en := w.engine e
        match ctxAddr h (fld d.payload 0 8) with
        | none => refuseDescriptor h w e q 0x0203 (fld d.payload 0 8)
        | some a =>
          if !(othersIdle en q || en.stopped) then refuseDescriptor h w e q 0x0212 0
          else if (!en.stopped && en.tiles.any (fun t => t.holder != .none)) || contextConflict en then
            refuseDescriptor h (countConflict w e) e q 0x0208 0
          else
            match engineRead h w e a ctxSize with
            | .error (c, x) => refuseDescriptor h w e q c x
            | .ok b =>
              if ctxBad b then refuseDescriptor h w e q 0x020A a
              else
                match reloads h w e b with
                | .error (c, x) => refuseDescriptor h w e q c x
                | .ok x => restoreContext h w e q b x)
    | none => w

end Sys2Proof.Machine
end

