-- ==== Sys2Proof/Machine/Registers.lean ====
section
/-!
DEFINITION. What every register of register space reads (01 R28 to R36, 04 R117, 05 R138, 06 R167, 07 R207 to R213,
08 R238, 09 R272, 10 R308, 11 R358, 13 R426, 14 R464, 15 R479, 16 R506, 17 R524). Fields that only trigger an action read
as zero (00 R10), reserved fields read as zero (00 R8).
-/

namespace Sys2Proof.Machine

/-- A field of a register: `v` from bit `lo` on. -/
def at_ (lo v : Nat) : Nat := v * 2 ^ lo

def bit1 (lo : Nat) (b : Bool) : Nat := if b then 2 ^ lo else 0

/-- Bit `i` of a mask for each index below `n` with the property. -/
def maskOf (n : Nat) (p : Nat → Bool) : Nat := ((List.range n).map (fun i => bit1 i (p i))).sum

/-! ### Identity, security and logs (01, 16, 17) -/

def moduleIdent (h : Hub) : Nat :=
  match h.ident.variant with
  | .a768 => 0x0000030001B00002
  | .a384 => 0x0000018002B00002

def linkUp (h : Hub) : Bool := h.ident.links.all id

def moduleState (h : Hub) : Nat :=
  let i := h.ident
  at_ 0 i.powerState + bit1 2 i.cfg.coherenceMode + bit1 3 i.cfg.testMode + at_ 4 i.flashBank + bit1 5 (linkUp h) +
    bit1 6 i.complexReady + at_ 8 ((List.range 72).countP (retired h)) + at_ 16 (maskOf 6 (fun n => i.fwAlive.getD n false))

def securityStatus (h : Hub) : Nat :=
  let s := h.sec
  at_ 0 s.bootBank + bit1 1 s.fallback + at_ 2 s.cfgSource + bit1 4 s.debugOpen + bit1 5 s.lmsReady +
    at_ 16 s.bootCode.toNat + at_ 32 s.lmsBlock

def identRegister (h : Hub) (w : Work) (o : Nat) : Option Nat :=
  let l := w.logs
  if o = 0x000 then some (moduleIdent h)
  else if o = 0x008 then some (h.ident.number.toNat + bit1 17 h.ident.numberValid)
  else if o = 0x010 then some (moduleState h)
  else if o = 0x018 then some (maskOf 64 (present h))
  else if o = 0x020 then some (maskOf 8 (fun i => present h (64 + i)))
  else if o = 0x028 then some h.ident.serial.toNat
  else if o = 0x030 then some (securityStatus h)
  else if o = 0x040 then some (at_ 0 l.queue.length + at_ 16 l.alarmUnsent)
  else if o = 0x048 then some l.traceEnable
  else if 0x050 ≤ o ∧ o < 0x070 then
    let d := l.alarmDest.getD ((o - 0x050) / 8) (0, false)
    some (d.1 + bit1 17 d.2)
  else if o = 0x070 then some l.fwdAddr
  else if o = 0x078 then some (l.fwdLog2 + bit1 5 l.fwdEnable + at_ 6 l.fwdClasses + at_ 32 l.fwdFails)
  else if o = 0x080 then some l.causal.toNat
  else if 0x100 ≤ o ∧ o < 0x160 then some (l.heads.getD ((o - 0x100) / 8) 0).toNat
  else if 0x180 ≤ o ∧ o < 0x1E0 then some (l.drops.getD ((o - 0x180) / 8) 0)
  else if 0x200 ≤ o ∧ o < 0x3E0 then some (l.domainCounts.getD ((o - 0x200) / 8) 0).toNat
  else none

/-! ### Engine status and fault block (07 R208 to R213 and the tables of 04, 05, 06, 08, 10, 11) -/

/-- STATE of STREAM_STATUS (07 R212). State 5: the next instruction waits for its unit's queue. -/
def streamState (h : Hub) (w : Work) (e q : Nat) : Nat :=
  let en := w.engine e
  let st := en.stream q
  let word := engineNat h w e (fetchAddr st) 16
  if st.fault then 6
  else if st.desc.isNone then (if st.enable then 0 else 8)
  else if en.stopped then 7
  else if waitsForToken en q then 2
  else if st.tileWait.any (fun t => tileHeld en t) then 3
  else if (st.acquire.bind en.op).any (fun o => (reduceOf o).isSome) then 4
  else
    match word with
    | .ok x =>
      if streamReady h w e q && st.pc.toNat < st.length && unitOfOpcode (bitsOf x 0 8) != .control &&
          unitFull en (unitOfOpcode (bitsOf x 0 8)) q then 5 else 1
    | .error _ => 1

def holderCode : Holder → Nat
  | .none => 0
  | .array => 1
  | .inset => 2
  | .preload => 3
  | .drain => 4
  | .context => 5

/-- The byte of ACC_STATE for one tile (05 R139): while a context save runs it holds every tile that no operation holds
(R127). -/
def tileState (saving : Bool) (tile : Tile) : Nat :=
  let t := if saving && tile.holder == .none then { tile with holder := .context } else tile
  bit1 0 (t.holder != .none) + at_ 1 (holderCode t.holder) +
    at_ 4 (if t.holder == .none || t.holder == .context then 0 else t.stream) + bit1 6 t.faulted

def needsDrain (o : Op) : Bool :=
  match o.kind with
  | .eu p b _ _ _ => p.aHandoff && b.isNone && !p.empty
  | _ => false

/-- UNIT_STATE (06 R169). -/
def unitState (en : Engine) : Nat :=
  bit1 0 (en.ops.any (fun o => isInset o && o.phase != .issued)) +
    at_ 1 (min 7 (en.ops.countP (fun o => isInset o && o.phase == .issued))) +
    bit1 4 ((en.ops.find? isEu).any (fun o => mayStart en o && !needsDrain o)) +
    bit1 5 (en.ops.any needsDrain)

/-- ARRAY_STATE (04 R121). -/
def arrayState (en : Engine) : Nat :=
  let a := en.arr.active
  bit1 0 (en.ops.any isArray) + bit1 1 (en.ops.any (fun o => isWload o && o.phase == .started)) +
    bit1 2 en.arr.shadow.isSome + bit1 3 a.isSome + at_ 4 ((a.map (fun s => s.passes)).getD 0) +
    at_ 6 ((a.map (fun s => fmtCode s.fmt)).getD 0)

/-- One of a stream's eight registers (07 R211, R212). -/
def streamRegister (h : Hub) (w : Work) (e q k : Nat) : Option Nat :=
  let st := w.stream e q
  let r := st.record
  match k with
  | 0x00 => some (st.log2 + bit1 5 st.enable + st.base)
  | 0x08 => some st.nextSeq.toNat
  | 0x10 => some (streamState h w e q + bit1 4 st.fault + bit1 5 st.unsealed)
  | 0x18 => some (faultCodeReg r)
  | 0x20 => some r.isn.toNat
  | 0x28 => some r.pc.toNat
  | 0x30 => some r.addr.toNat
  | 0x38 => some (r.tile + at_ 1 r.row + at_ 9 r.col + bit1 19 r.detailValid + at_ 32 r.tensorId)
  | _ => none

/-- The trap record (08 R242). -/
def trapRegister (t : TrapState) (e o : Nat) : Option Nat :=
  match o with
  | 0x508 => some (bit1 0 t.enable + bit1 1 t.record)
  | 0x510 => some (bit1 0 t.fired + at_ 32 t.count.toNat)
  | 0x518 =>
    some (if t.where_ then e + at_ 7 t.stream + at_ 9 t.source + at_ 16 t.opcode + at_ 32 t.tensorId else 0)
  | 0x520 => some t.isn.toNat
  | 0x528 => some t.pc.toNat
  | 0x530 => some (t.row.toNat + at_ 32 t.col.toNat)
  | 0x538 => some (t.group + bit1 16 t.groupValid)
  | _ => none

/-- The reserved bits of KEEP_CTRL read 0 (00 R8); they are held, for 10 R311 refuses a transfer by them. -/
def keepRegister (en : Engine) (o : Nat) : Option Nat :=
  let kw := en.keep.getD ((o - 0x640) / 0x18) ⟨0, 0, 0⟩
  match (o - 0x640) % 0x18 with
  | 0x00 => some kw.base.toNat
  | 0x08 => some kw.size.toNat
  | 0x10 => some (bitsOf kw.ctrl.toNat 0 29)
  | _ => none

def engineRegister (h : Hub) (w : Work) (e o : Nat) : Option Nat :=
  let en := w.engine e
  if o = 0x000 then
    some
      (bit1 0 (en.streams.any (fun s => s.desc.isSome)) + bit1 1 en.stopped + bit1 2 en.resetting + bit1 3 (retired h e) +
        bit1 4 en.tokenSat + at_ 5 en.gen.unit.toNat)
  else if o = 0x008 then some 0
  else if 0x040 ≤ o ∧ o < 0x140 then streamRegister h w e ((o - 0x040) / 0x40) ((o - 0x040) % 0x40)
  else if 0x200 ≤ o ∧ o < 0x400 then some (en.tokens.getD ((o - 0x200) / 8) 0).toNat
  else if o = 0x400 then some en.arr.steps.toNat
  else if o = 0x408 then some en.arr.starved.toNat
  else if o = 0x410 then some en.arr.activeUnits.toNat
  else if o = 0x418 then some (arrayState en)
  else if o = 0x420 then some (tileState en.saving.isSome (en.tile 0) + at_ 8 (tileState en.saving.isSome (en.tile 1)))
  else if o = 0x428 then some en.accConflicts.toNat
  else if o = 0x430 then some en.insetWaits.toNat
  else if o = 0x438 then some en.euWaits.toNat
  else if o = 0x440 then some (unitState en)
  else if o = 0x500 then some (en.ttLog2 + bitsOf en.ttBase 12 35 * 2 ^ 12)
  else if 0x508 ≤ o ∧ o < 0x540 then trapRegister en.trap e o
  else if 0x600 ≤ o ∧ o < 0x620 then some (en.stream ((o - 0x600) / 8)).tokenWait.toNat
  else if 0x620 ≤ o ∧ o < 0x640 then some (en.stream ((o - 0x620) / 8)).runTokenWait.toNat
  else if 0x640 ≤ o ∧ o < 0x670 then keepRegister en o
  else if o = 0x700 then some (bit1 0 en.xl.enable + bitsOf en.xl.base 13 34 * 2 ^ 13)
  else if o = 0x708 then some (bit1 1 en.xl.pending)
  else if o = 0x710 then some (en.xl.parity + at_ 16 en.xl.read + at_ 32 en.xl.xlate)
  else none

/-! ### Update and copier (09 R272 to R275, 13 R426, R427) -/

def unitRegister (u : UnitRegs) (k : Nat) : Option Nat :=
  match k with
  | 0x00 => some u.elems
  | 0x08 => some (u.nanGroup + bit1 16 u.nanValid + at_ 32 u.nanCount)
  | 0x10 => some u.nanElem
  | _ => none

def copierRegister (c : Copier) (o : Nat) : Option Nat :=
  match o with
  | 0x8000 => some c.descAddr
  | 0x8008 => some 0
  | 0x8010 =>
    some (c.phase + bit1 3 c.restoreBad + bit1 4 c.verifyFail + at_ 5 c.verifyResult + at_ 16 c.lastStatus.toNat)
  | 0x8018 => some c.epoch.toNat
  | 0x8020 => some (c.done + at_ 32 c.total)
  | 0x8028 => some (c.errCode.toNat + at_ 16 c.errEntry)
  | 0x8030 => some c.errAddr.toNat
  | 0x8038 => some (c.aside + at_ 32 c.stageWaits)
  | 0x8040 => some 0
  | 0x8048 => some c.verifyStep.toNat
  | 0x8050 => some c.verifyAddr
  | 0x8058 => some c.ledgerStep.toNat
  | 0x8060 => some 0
  | _ =>
    if 0x8400 ≤ o ∧ o < 0x8800 then
      let en := c.ledger.getD ((o - 0x8400) / 16) (BitVec.allOnes 64, 0)
      some (if o % 16 = 0 then en.1.toNat else en.2.toNat)
    else none

def updateRegister (w : Work) (o : Nat) : Option Nat :=
  let u := w.upd
  match o with
  | 0x000 => some u.groupBase
  | 0x008 => some u.groupCount
  | 0x010 => some u.contourBase
  | 0x018 => some u.contourCount
  | 0x020 => some u.surveyBase
  | 0x028 => some u.surveyCount
  | 0x030 => some u.seed.toNat
  | 0x038 => some u.stepDesc
  | 0x040 => some 0
  | 0x048 => some (u.phase + bit1 3 u.goRefused + at_ 8 u.lastOutcome + at_ 16 u.lastStatus.toNat)
  | 0x050 => some u.lastStep.toNat
  | _ =>
    if 0x1000 ≤ o ∧ o < 0x1300 then unitRegister (u.units.getD ((o - 0x1000) / 0x20) resetUnit) (o % 0x20)
    else if 0x2000 ≤ o ∧ o < 0x3800 then some (alGet 0#64 u.counters ((o - 0x2000) / 8)).toNat
    else copierRegister w.copier o

/-! ### Mailboxes, firmware and collective queues (14 R464 to R468) -/

def mailboxRegister (h : Hub) (w : Work) (o : Nat) : Option Nat :=
  let f := h.fw
  if o < 0x80 then some 0
  else if 0x100 ≤ o ∧ o < 0x180 then
    let m := f.mailboxes.getD ((o - 0x100) / 8) resetMailbox
    some (bit1 0 m.isOpen + bit1 1 m.priv + bit1 2 m.unsealed + bit1 3 m.cmd.isSome)
  else if 0x200 ≤ o ∧ o < 0x230 then
    let p := f.procs.getD ((o - 0x200) / 8) resetFwProc
    some (p.st + at_ 8 p.lastReason + at_ 16 (min p.restarts 65535) + bit1 32 p.dump.valid)
  else if o = 0x230 then
    let u := f.update
    some
      (u.stage + bit1 3 u.deferred + bit1 4 u.trial + at_ 5 (1 - h.ident.flashBank) + at_ 16 u.lastResult.toNat +
        at_ 32 u.stagedKib)
  else if 0x8000 ≤ o ∧ o < 0x8080 then some 0
  else if 0x8100 ≤ o ∧ o < 0x8180 then
    let k := (o - 0x8100) / 8
    let q := w.colls.queues.getD k resetCollQueue
    some
      (bit1 0 q.enabled + bit1 1 q.unsealed + bit1 2 q.stopped + bit1 3 q.groupHeld +
        at_ 16 (if q.stopped then q.stopCode.toNat else 0) + at_ 32 q.nextSeq.toNat)
  else none

/-! ### Safety partition (15 R479 to R482) -/

def overCurrent (s : Safety) : Bool := s.ocPeak || s.ocSustained || s.ocParked

/-- EMERGENCY (15 R478): some response is in force. -/
def emergency (s : Safety) : Bool := overCurrent s || s.thermalPark || s.stopping || s.refFail

def setpointMv (s : Safety) : Nat := min s.requestMv s.capMv

def safetyRegister (h : Hub) (w : Work) (o : Nat) : Option Nat :=
  let s := h.safety
  if o = 0x000 then
    some
      (bit1 0 (emergency s) + bit1 1 (overCurrent s) + bit1 2 s.thermalPark + bit1 3 s.stopping +
        bit1 4 (decide (s.capMv < 750)) + bit1 5 s.refFail + at_ 16 s.lastCode.toNat)
  else if o = 0x008 then some (s.sustainedW + at_ 16 s.peakW + at_ 32 s.windowMs + at_ 40 s.underV + at_ 50 s.overV)
  else if o = 0x010 then some (s.voltage + at_ 16 s.power)
  else if o = 0x018 then some (s.requestMv + at_ 10 s.capMv + at_ 20 (setpointMv s) + at_ 30 s.measuredMv)
  else if 0x020 ≤ o ∧ o < 0x060 then
    let r := s.rails.getD ((o - 0x020) / 8) ⟨0, 0, 0⟩
    some (r.low + at_ 16 r.high + at_ 32 r.measured)
  else if o = 0x060 then some (s.parkC + at_ 8 s.releaseC + at_ 16 s.stopC)
  else if o = 0x068 then some (leNat ((s.temps.take 8).map (fun t => BitVec.ofNat 8 (min t 255))))
  else if o = 0x070 then some (min (s.temps.getD 8 0) 255)
  else if o = 0x078 then some (maskOf 64 (parked h w))
  else if o = 0x080 then some (maskOf 8 (fun i => parked h w (64 + i)))
  else if o = 0x088 then some s.tripCount
  else if 0x100 ≤ o ∧ o < 0x200 then
    let t := s.tripLog.getD ((o - 0x100) / 16) ⟨0, 0, 0, 0⟩
    some (if o % 16 = 0 then t.code.toNat + at_ 16 t.source + at_ 32 t.value else t.count.toNat)
  else none

/-! ### Crash dump windows (14 R455) -/

/-- The 0x218 leading bytes of a dump window; a region that no dump was written to reads as zeros (DESIGN CHOICE, log 68). -/
def dumpHead (n : Nat) (d : CrashDump) : List Byte :=
  leBytes 4 (if d.dumpSeq = 0 then 0 else 0x4450) ++ leBytes 2 (if d.dumpSeq = 0 then 0 else 1) ++
    leBytes 1 (if d.dumpSeq = 0 then 0 else n) ++ leBytes 1 d.reason ++ leBytes 4 d.dumpSeq ++ leBytes 4 d.lost ++
    leBytes 8 d.imageVersion.toNat ++ leBytes 8 d.domainCount.toNat ++ leBytes 4 d.body.panicCode.toNat ++
    leBytes 4 d.causal.toNat ++ List.replicate 216 0 ++ padTo 32 (d.body.csrs.flatMap (fun x => leBytes 8 x.toNat)) ++
    padTo 248 (d.body.xregs.flatMap (fun x => leBytes 8 x.toNat))

/-- Eight bytes of a region of a dump window. -/
def dumpSlice (bs : List Byte) (o : Nat) : Nat := leNat (padTo 8 (bs.drop o))

def dumpRegister (n : Nat) (d : CrashDump) (o : Nat) : Nat :=
  if o = 0xFFFF8 then (if d.valid then 1 else 0)
  else if o < 0x218 then dumpSlice (dumpHead n d) o
  else if 0x1000 ≤ o ∧ o < 0x1040 then dumpSlice d.inFlight (o - 0x1000)
  else if 0x2000 ≤ o ∧ o < 0x12000 then dumpSlice d.body.trace (o - 0x2000)
  else if 0x12000 ≤ o ∧ o < 0x22000 then dumpSlice d.body.logTail (o - 0x12000)
  else if 0x22000 ≤ o ∧ o < 0xA2000 then dumpSlice d.body.data (o - 0x22000)
  else 0

/-! ### All of register space (01 R28, R29) -/

/-- What a 64-bit load at an offset of register space returns; none where the offset is unmapped. -/
def readRegister (h : Hub) (w : Work) (o : Nat) : Option Nat :=
  if o % 8 ≠ 0 then none
  else if o < 0x1000 then identRegister h w o
  else if 0x10000 ≤ o ∧ o < 0x58000 then
    let e := (o - 0x10000) / 0x1000
    if present h e && decide (o % 0x1000 < 0x20) then some 0 else none
  else if 0x1000000 ≤ o ∧ o < 0x1010000 then mailboxRegister h w (o - 0x1000000)
  else if 0x2000000 ≤ o ∧ o < 0x2048000 then engineRegister h w ((o - 0x2000000) / 0x1000) (o % 0x1000)
  else if 0x3000000 ≤ o ∧ o < 0x3010000 then safetyRegister h w (o - 0x3000000)
  else if 0x4000000 ≤ o ∧ o < 0x4600000 then
    let n := (o - 0x4000000) / 0x100000
    some (dumpRegister n (h.fw.procs.getD n resetFwProc).dump (o % 0x100000))
  else if 0x5000000 ≤ o ∧ o < 0x5100000 then updateRegister w (o - 0x5000000)
  else none

end Sys2Proof.Machine
end

