-- ==== Sys2Proof/Machine/Boot.lean ====
section
/-!
DEFINITION. Identity, signatures and the boot chain (16 R494 to R503), and what the firmware processors set up at a boot
(14 R440 to R442, 12 R384, 01 R33). ECDSA, HSS, SHA-384 and HMAC are external algorithms (`Config`).
-/

namespace Sys2Proof.Machine

/-! ### Signature pairs (R496, R497) -/

/-- The code of a signature pair over a message, 0 when both verify. -/
def pairCode (ecdsaKey hssKey msg sig : List Byte) : Code :=
  let n := fld sig 0x60 4
  if !Config.ecdsaVerifies ecdsaKey msg (sig.take 96) then 0x0801
  else if 4092 < n || ((sig.drop (0x64 + n)).take (4092 - n)).any (fun b => b != 0) ||
      !Config.hssVerifies hssKey msg ((sig.drop 0x64).take n) then 0x0802
  else 0

/-! ### Flash banks and bundles (R499) -/

def bankBytes (m : List Host.Cell) (a n : Nat) : List Byte := (memRead m a n).map (fun b => ~~~b)

def bankWrite (m : List Host.Cell) (a : Nat) (bs : List Byte) : List Host.Cell := memWrite m a (bs.map (fun b => ~~~b))

def Flash.bank (f : Flash) (b : Nat) : List Host.Cell := if b = 0 then f.bank0 else f.bank1

def maxBundle : Nat := 0x4000000

/-- Where an image lies, and its digest. -/
structure ImageRef where
  offset : Nat
  length : Nat
  digest : List Byte
  deriving DecidableEq, Repr

def imageRefs (hd : List Byte) : List ImageRef :=
  (List.range 6).map (fun n =>
    let o := 0x20 + 64 * n
    ⟨fld hd o 8, fld hd (o + 8) 8, (hd.drop (o + 16)).take 48⟩)

/-- The header and the layout keep to R499. -/
def headerOk (hd : List Byte) : Bool :=
  let total := fld hd 0x10 8
  let sig := fld hd 0x18 8
  fld hd 0 4 == 0x5A42 && fld hd 4 2 == 1 && decide (total ≤ maxBundle) && sig % 4096 == 0 && decide (sig + 4192 ≤ total) &&
    (imageRefs hd).all (fun i => i.offset % 4096 == 0 && decide (4096 ≤ i.offset) && decide (i.offset + i.length ≤ sig))

/-- The code of the bundle in a bank, 0 when it verifies: header, signature pair, then the digest of each image. -/
def bundleCode (m : List Host.Cell) : Code :=
  let hd := bankBytes m 0 4096
  let sig := fld hd 0x18 8
  if !headerOk hd then 0x0803
  else
    let c := pairCode Config.vendorEcdsaKey Config.vendorHssKey (bankBytes m 0 sig) (bankBytes m sig 4192)
    if c ≠ 0 then c
    else if (imageRefs hd).all (fun i => Config.sha384 (bankBytes m i.offset i.length) == i.digest) then 0
    else 0x0803

/-- The digests of a bundle's images, as found when they are read. -/
def imageDigests (m : List Host.Cell) : List Byte :=
  (imageRefs (bankBytes m 0 4096)).flatMap (fun i => Config.sha384 (bankBytes m i.offset i.length))

/-- Version and digest of the signed bytes. -/
def bundleId (m : List Host.Cell) : BundleId :=
  let hd := bankBytes m 0 4096
  ⟨BitVec.ofNat 64 (fld hd 8 8), Config.sha384 (bankBytes m 0 (fld hd 0x18 8))⟩

/-! ### The bank-select records (14 R456) -/

/-- The committed record with the higher RECORD_SEQ; without one, the erased record's bank 0 (DESIGN CHOICE, log 26). -/
def bankRecord (f : Flash) : BankRecord :=
  match f.select0.commit, f.select1.commit with
  | true, true => if f.select0.seq < f.select1.seq then f.select1 else f.select0
  | true, false => f.select0
  | false, true => f.select1
  | false, false => erasedRecord

/-- Write the other record, COMMIT last. -/
def writeRecord (f : Flash) (r : BankRecord) : Flash :=
  let cur := bankRecord f
  let r1 := { r with magic := 0x4253, seq := cur.seq + 1, commit := true }
  if f.select0.commit ∧ f.select0 = cur then { f with select1 := r1 } else { f with select0 := r1 }

/-! ### The configuration record (R500) -/

def cfgBytes : Nat := 8896

/-- A limit of a record: a value above the default is clamped to it (15 R473). -/
def clampLimit (v d : Nat) : Nat := min v d

/-- Reserved bytes of the record. -/
def cfgReserved (b : List Byte) : Bool :=
  let zero (o n : Nat) : Bool := ((b.drop o).take n).all (fun x => x == 0)
  zero 6 2 && decide (fld b 0x18 8 < 64) && decide (fld b 0x20 4 < 2 ^ 17) && decide (fld b 0x30 8 < 256) &&
    decide (fld b 0x38 8 < 2 ^ 60) && decide (fld b 0x40 8 < 2 ^ 24) && zero 0x50 176 && zero 0x194 108

/-- Values within their ranges. -/
def cfgRanges (b : List Byte) : Bool :=
  let wd := fld b 0x24 2
  let rt := fld b 0x26 2
  (wd == 0 || (decide (10 ≤ wd) && decide (wd ≤ 1000))) && decide (rt ≤ 255) &&
    (!bitOf (fld b 0x18 8) 5 || decide (fld b 0x20 4 ≤ 0x1FFFE))

/-- The code of a record, 0 when it verifies: form, vendor signature, owner signature, fields, serial (the order is a
DESIGN CHOICE, log 26). -/
def cfgCode (serial : Word) (b : List Byte) : Code :=
  if b.length ≠ cfgBytes ∨ fld b 0 4 ≠ 0x4346 ∨ fld b 4 2 ≠ 1 then 0x0805
  else if pairCode Config.vendorEcdsaKey Config.vendorHssKey ((b.drop 0x100).take 0x100) ((b.drop 0x200).take 4192) ≠ 0 then
    0x0804
  else
    let msg := (b.take 0x48) ++ List.replicate 8 0 ++ ((b.drop 0x50).take (0x1260 - 0x50))
    let c := pairCode ((b.drop 0x100).take 96) ((b.drop 0x160).take 52) msg ((b.drop 0x1260).take 4192)
    if c ≠ 0 then c
    else if !cfgReserved b || !cfgRanges b then 0x0805
    else if fld b 0x10 8 ≠ 0 ∧ fld b 0x10 8 ≠ serial.toNat then 0x0806
    else 0

def cfgCommitted (b : List Byte) : Bool := b.length == cfgBytes && fld b 0x22C0 8 == 1
def cfgSeq (b : List Byte) : Nat := fld b 0x48 8

/-- A verified record as the module uses it. -/
def cfgOf (b : List Byte) : CfgRecord :=
  let f := fld b 0x18 8
  let wd := fld b 0x24 2
  let rt := fld b 0x26 2
  { version := BitVec.ofNat 64 (fld b 8 8)
    coherenceMode := bitOf f 0
    testMode := bitOf f 1
    debugEnable := bitOf f 2
    ethP14 := bitOf f 3
    ethP15 := bitOf f 4
    numberSet := bitOf f 5
    number := BitVec.ofNat 17 (fld b 0x20 4)
    watchdogMs := if wd = 0 then 100 else wd
    retireThreshold := if rt = 0 then 4 else rt
    retired := (List.range 72).filter (fun e => bitOf (fld b 0x28 16) e)
    inputLimits := BitVec.ofNat 64 (fld b 0x38 8)
    tempTrips := BitVec.ofNat 64 (fld b 0x40 8)
    digest := Config.sha384 b }

/-- What the check of the two copies gives: the record, its CONFIG_SOURCE, and the first code met. -/
structure CfgChoice where
  cfg : CfgRecord
  source : Nat
  code : Code
  deriving DecidableEq, Repr

/-- The verified committed copy with the higher CFG_SEQ, else the defaults. -/
def chooseCfg (serial : Word) (f : Flash) : CfgChoice :=
  let copies := [(0, f.config0), (1, f.config1)].filter (fun x => cfgCommitted x.2)
  let order := if cfgSeq f.config0 < cfgSeq f.config1 then copies.reverse else copies
  let codes := order.map (fun x => cfgCode serial x.2)
  let bad := (codes.find? (fun c => c != 0)).getD 0
  match order.find? (fun x => cfgCode serial x.2 == 0) with
  | some x => ⟨cfgOf x.2, x.1, if (codes.head?.getD 0) = 0 then 0 else bad⟩
  | none => ⟨{ defaultCfg with digest := Config.defaultRecordDigest }, 2, bad⟩

/-! ### LMS index blocks (R502, R503) -/

def counterLimit : Nat := 2 ^ 23

/-- Reserve the next block: the counter rises, the record is committed, and signing is possible. The code is 0x0807 or
0x0808 when it is not. -/
def reserveLms (h : Hub) : Hub × Code :=
  let f := h.fw.flash
  let stop : Hub := { h with sec := { h.sec with lmsReady := false } }
  if !f.counterOk then (stop, 0x0808)
  else if counterLimit ≤ f.counter + 1 then (stop, 0x0807)
  else
    let c := f.counter + 1
    let dump := (h.fw.procs.getD 0 resetFwProc).restarts
    ({ h with
        fw := { h.fw with flash := { f with counter := c, reservation := (c, dump, true) } }
        sec := { h.sec with lmsReady := true, lmsBlock := c, nextIndex := 4096 * c } }, 0)

/-! ### The boot chain (R498) -/

/-- Boot stops: no processor runs, and SECURITY_STATUS holds the code. -/
def stopBoot (h : Hub) (code : Code) : Hub :=
  { h with
    ident := { h.ident with bootDone := true }
    sec := { h.sec with stoppedBoot := true, bootCode := code } }

/-- The bank to boot: the bank, whether it is a fallback, and the active bank's code. -/
def chooseBank (f : Flash) : Option Nat × Bool × Code :=
  let a := (bankRecord f).active
  let c := bundleCode (f.bank a)
  if c = 0 then (some a, false, 0)
  else if bundleCode (f.bank (1 - a)) = 0 then (some (1 - a), true, c)
  else (none, false, c)

/-- The compound device identifier of step 4. -/
def cdiOf (uds : List Byte) (bundle : BundleId) (cfg : CfgRecord) : List Byte :=
  Config.hmacSha384 uds (bundle.digest ++ cfg.digest ++ [if cfg.testMode then 1 else 0])

def firstCode (a b : Code) : Code := if a = 0 then b else a

/-- The limits of a configuration record reach the safety controller at cold power-on (R500, 15 R473). -/
def loadLimits (s : Safety) (c : CfgRecord) : Safety :=
  let i := c.inputLimits.toNat
  let t := c.tempTrips.toNat
  { s with
    sustainedW := clampLimit (bitsOf i 0 16) 2300
    peakW := clampLimit (bitsOf i 16 16) 2800
    windowMs := clampLimit (bitsOf i 32 8) 20
    underV := clampLimit (bitsOf i 40 10) 440
    overV := clampLimit (bitsOf i 50 10) 660
    parkC := clampLimit (bitsOf t 0 8) 110
    releaseC := clampLimit (bitsOf t 8 8) 100
    stopC := clampLimit (bitsOf t 16 8) 120 }

/-- Steps 2 to 6 for a bank that verifies. -/
def bootBank (h : Hub) (cold : Bool) (uds : List Byte) (bank : Nat) (fallback : Bool) (code : Code) : Hub :=
  let f := h.fw.flash
  let id := bundleId (f.bank bank)
  let ch := chooseCfg h.ident.serial f
  let cfg := ch.cfg
  let rec_ := bankRecord f
  let flash := if fallback then writeRecord f { rec_ with active := bank, trial := false, actMailbox := 0xFF } else f
  let h1 : Hub :=
    { ident :=
        { h.ident with
          bootDone := true
          flashBank := bank
          cfgRetired := cfg.retired
          fwAlive := List.replicate 6 true
          number := if cfg.numberSet then cfg.number else h.ident.number
          numberValid := h.ident.numberValid || cfg.numberSet
          cfg := cfg }
      fw :=
        { h.fw with
          flash := flash
          procs := h.fw.procs.map (fun p => { p with st := 1 })
          update := { h.fw.update with trial := (bankRecord flash).trial } }
      safety := if cold then loadLimits h.safety cfg else h.safety
      sec :=
        { h.sec with
          bootBank := bank
          fallback := fallback
          cfgSource := ch.source
          debugOpen := cfg.testMode && cfg.debugEnable
          cdi := cdiOf uds id cfg
          secret := uds
          booted := id
          running := id } }
  let (h2, lms) := reserveLms h1
  { h2 with sec := { h2.sec with bootCode := firstCode code (firstCode ch.code lms) } }

/-- The whole chain. -/
def bootChain (h : Hub) (cold : Bool) : Hub :=
  match Config.pufSecret h.fw.flash.helper with
  | none => stopBoot h 0x080A
  | some uds =>
    if !Config.deviceIdMatches uds h.fw.flash.certificate then stopBoot h 0x080A
    else
      match chooseBank h.fw.flash with
      | (none, _, c) => stopBoot h c
      | (some b, fallback, c) => bootBank h cold uds b fallback c

/-! ### What the firmware sets up (14 R440 to R442) -/

/-- The seals of a ring of 2^L slots before its first lap, from sequence `n` on (14 R432): only the seal's SEQ counts. -/
def sealRing (h : Hub) (w : Work) (base log2 : Nat) (n : Seq) : Work :=
  (List.range (2 ^ log2)).foldl
    (fun w i =>
      let first := n.toNat + (i + 2 ^ 32 - n.toNat % 2 ^ log2) % 2 ^ log2
      physWrite h w (base + 64 * i) (sealDesc 0 [] (BitVec.ofNat 32 (first + 2 ^ 32 - 2 ^ log2))))
    w

/-- The directory entry of a mailbox (14 R441), but for CPL_HEAD, which the client writes. -/
def dirEntryBytes (m : Mailbox) : List Byte :=
  leBytes 4 ((if m.isOpen then 1 else 0) + (if m.priv then 2 else 0)) ++ leBytes 4 0 ++ leBytes 8 m.cmdBase ++
    leBytes 1 m.cmdLog2 ++ leBytes 1 m.cplLog2 ++ leBytes 6 0 ++ leBytes 4 m.cmdHead.toNat

def dirEntryTail (m : Mailbox) : List Byte := leBytes 8 m.cplBase ++ leBytes 4 m.doneSeq.toNat ++ leBytes 4 m.cplNext.toNat

/-- FW4 writes what it owns of directory entry `k`. -/
def writeDirectory (h : Hub) (w : Work) (k : Nat) (m : Mailbox) : Work :=
  physWrite h (physWrite h w (64 * k) (dirEntryBytes m)) (64 * k + 0x20) (dirEntryTail m)

/-- Open a mailbox: its rings are sealed from sequence 0, CPL_HEAD starts at 0, and OPEN is set. -/
def openMailbox (h : Hub) (w : Work) (k : Nat) (m : Mailbox) : Work :=
  let w1 := sealRing h (sealRing h w m.cmdBase m.cmdLog2 0) m.cplBase m.cplLog2 0
  writeDirectory h (physWrite h w1 (64 * k + 0x1C) (leBytes 4 0)) k m

/-- Before a first completion DONE_SEQ is one below the starting sequence (DEDUCED from R453, log 27). -/
def mailbox0 : Mailbox :=
  { resetMailbox with
    isOpen := true, priv := true, cmdBase := 0x1000, cmdLog2 := 8, cplBase := 0x5000, cplLog2 := 8, doneSeq := 0xFFFFFFFF }

/-- FW4 writes the firmware area at a boot and opens mailbox 0 (14 R440, R442). -/
def layFirmwareArea (h : Hub) (w : Work) : Hub × Work :=
  let boxes := mailbox0 :: List.replicate 15 resetMailbox
  let w1 := (boxes.zipIdx).foldl (fun w x => writeDirectory h w x.2 x.1) w
  ({ h with fw := { h.fw with mailboxes := boxes } }, openMailbox h w1 0 mailbox0)

/-- FW2 brings the links up: every port trains, as an Ethernet port where the record says so (12 R364, R365). -/
def trainPorts (h : Hub) (w : Work) : Work :=
  let eth := (if h.ident.cfg.ethP14 then [14] else []) ++ (if h.ident.cfg.ethP15 then [15] else [])
  { w with
    fabric :=
      { w.fabric with
        ethPorts := eth
        ports := w.fabric.ports.map (fun p => { p with st := if w.fabric.referenceLost then .down else .retraining, attempts := 0 }) } }

/-- The boot and its log records of class 8 (17 R508). -/
def runBoot (h : Hub) (w : Work) (cold : Bool) : Hub × Work :=
  let h1 := bootChain h cold
  let note (w : Work) (c : Code) : Work := if c = 0 then w else emit h1 w ⟨8, c, 48, unitOf 5 0, 0, []⟩
  if h1.sec.stoppedBoot then (h1, note w h1.sec.bootCode)
  else
    let w1 := note w h1.sec.bootCode
    let w2 := if h1.sec.fallback then note w1 0x0809 else w1
    let (h2, w3) := layFirmwareArea h1 w2
    (h2, trainPorts h2 w3)

end Sys2Proof.Machine
end

