-- ==== Sys2Proof/Machine/MailboxRing.lean ====
section
/-!
DEFINITION. The mailbox service of FW4 (14 R434 to R445): the reading of command rings, completions, and the frame of a
command: its opcode, privilege and reserved bytes.
-/

namespace Sys2Proof.Machine

def Hub.mailbox (h : Hub) (k : Nat) : Mailbox := h.fw.mailboxes.getD k resetMailbox

def Hub.setMailbox (h : Hub) (k : Nat) (f : Mailbox → Mailbox) : Hub :=
  { h with fw := { h.fw with mailboxes := h.fw.mailboxes.modify k f } }

/-! ### Running processors (R428, R451, R466, 15 R486) -/

def Hub.proc (h : Hub) (n : Nat) : FwProc := h.fw.procs.getD n resetFwProc

def Hub.setProc (h : Hub) (n : Nat) (f : FwProc → FwProc) : Hub :=
  { h with fw := { h.fw with procs := h.fw.procs.modify n f } }

/-- Processor `n` runs: it is alive, and its clock is not stopped. -/
def fwRuns (h : Hub) (n : Nat) : Bool :=
  h.ident.powered && !h.safety.refFail && h.ident.fwAlive.getD n false && (h.ident.powerState != 2 || n == 1)

def fwFailed (h : Hub) (n : Nat) : Bool := (h.proc n).st == 3

/-! ### Completions (R443, R444) -/

/-- CPL_HEAD, which the client writes. -/
def cplHead (w : Work) (k : Nat) : Seq := BitVec.ofNat 32 (physNat w (64 * k + 0x1C) 4)

/-- The completion ring has a free slot under R434. -/
def cplFree (h : Hub) (w : Work) (k : Nat) : Bool :=
  let m := h.mailbox k
  decide ((m.cplNext - cplHead w k).toNat < 2 ^ m.cplLog2)

def completionDesc (d : Desc) (status : Code) (result : List Byte) : List Byte :=
  d.payload.take 8 ++ leBytes 2 d.kind ++ leBytes 2 status.toNat ++ leBytes 4 d.seq.toNat ++ result

/-- FW4 writes a completion, then DONE_SEQ. -/
def putCompletion (h : Hub) (w : Work) (k : Nat) (d : Desc) (status : Code) (result : List Byte) : Hub × Work :=
  let m := h.mailbox k
  let w1 := physWrite h w (slotAddr m.cplBase m.cplLog2 m.cplNext) (sealDesc 0x0F00 (completionDesc d status result) m.cplNext)
  let m1 := { m with cplNext := m.cplNext + 1, doneSeq := d.seq }
  (h.setMailbox k (fun _ => m1), writeDirectory h w1 k m1)

/-! ### The reading of a command ring (R435 to R439, R444) -/

/-- FW4 takes the slot: NEXT_SEQ rises, and CMD_HEAD shows it. -/
def takeSlot (h : Hub) (w : Work) (k : Nat) (cmd : Option Desc) : Hub × Work :=
  let m := h.mailbox k
  let m1 := { m with cmdHead := m.cmdHead + 1, rereads := 0, cmd := cmd, busyLong := false }
  (h.setMailbox k (fun _ => m1), writeDirectory h w k m1)

/-- An unsealed slot: idle, or one of the re-reads (R437, R438). -/
def unsealedSlot (h : Hub) (w : Work) (k : Nat) : Hub × Work :=
  let m := h.mailbox k
  if m.rereads = 0 then
    (h.setMailbox k (fun m => { m with rereads := if hintClaims m.hint m.cmdHead m.cmdLog2 then 1 else 0 }), w)
  else if m.rereads + 1 < 64 then (h.setMailbox k (fun m => { m with rereads := m.rereads + 1 }), w)
  else
    (h.setMailbox k (fun m => { m with rereads := 0, unsealed := true }),
      emit h w ⟨1, 0x0101, 52, unitOf 5 4, 0, leBytes 4 m.cmdHead.toNat ++ leBytes 8 m.cmdBase⟩)

/-- FW4 may take a command of mailbox `k`. -/
def mayTake (h : Hub) (k : Nat) : Bool :=
  let m := h.mailbox k
  fwRuns h 4 && m.isOpen && m.cmd.isNone && !m.unsealed && !m.closing

/-- FW4 reads the ring until it has taken a command or meets an unsealed slot; a slot whose CRC is wrong is taken and
completed with 0x0102 (R436). -/
def readMailboxFuel (k : Nat) : Nat → Hub → Work → Hub × Work
  | 0, h, w => (h, w)
  | n + 1, h, w =>
    if !mayTake h k then (h, w)
    else if !cplFree h w k then (h.setMailbox k (fun m => { m with full := true }), w)
    else
      let m := h.mailbox k
      let h1 := h.setMailbox k (fun m => { m with full := false })
      match judgeSlot m.cmdHead (physBytes w (slotAddr m.cmdBase m.cmdLog2 m.cmdHead) 64) with
      | .sealed d => takeSlot h1 w k (some d)
      | .badCrc kind payload =>
        let d : Desc := ⟨kind, payload, m.cmdHead⟩
        let (h2, w2) := takeSlot h1 w k none
        let (h3, w3) := putCompletion h2 w2 k d 0x0102 []
        readMailboxFuel k n h3 w3
      | _ => unsealedSlot h1 w k

def readMailbox (h : Hub) (w : Work) (k : Nat) : Hub × Work := readMailboxFuel k 65537 h w

/-- The command of mailbox `k` completes; FW4 goes on to its next slot. -/
def completeCommand (h : Hub) (w : Work) (k : Nat) (status : Code) (result : List Byte) : Hub × Work :=
  match (h.mailbox k).cmd with
  | none => (h, w)
  | some d =>
    let (h1, w1) := putCompletion h w k d status result
    let h2 := { h1 with fw := { h1.fw with served := h1.fw.served + 1 } }
    let m := h2.mailbox k
    let m1 := { m with cmd := none, busyLong := false, isOpen := m.isOpen && !m.closing, closing := false }
    let h3 := h2.setMailbox k (fun _ => m1)
    readMailbox h3 (if m.closing then writeDirectory h3 w1 k m1 else w1) k

/-- A store to MB_DOORBELL_k (R437, R439, R464). -/
def storeMbDoorbell (h : Hub) (w : Work) (k : Nat) (v : Word) : Hub × Work :=
  let m := h.mailbox k
  if !m.isOpen then (h, w)
  else
    let h1 := h.setMailbox k (fun m =>
      { m with hint := some (v.setWidth 32), unsealed := false, rereads := if m.unsealed then 0 else m.rereads })
    if m.rereads ≠ 0 && !m.unsealed then (h1, w) else readMailbox h1 w k

def execMbDoorbell (k : Nat) (v : Word) (s : State) : Out :=
  if k < 16 ∧ s.hub.ident.powered ∧ s.hub.ident.powerState ≠ 2 then
    let r := storeMbDoorbell s.hub (s.work.reply 0 []) k v
    .next { s with hub := r.1, work := r.2 }
  else .next s

/-! ### Commands (R445) -/

/-- What a command gives: the module after it, and its completion; none when the completion comes later. -/
structure MbResult where
  hub : Hub
  work : Work
  done : Option (Code × List Byte)
  deriving DecidableEq, Repr

/-- The command ends with a status and no effect. -/
def mbRefuse (h : Hub) (w : Work) (c : Code) : MbResult := ⟨h, w, some (c, [])⟩

/-- A byte of the arguments that no field covers is not 0. -/
def argsReserved (fields : List (Nat × Nat)) (p : List Byte) : Bool :=
  (p.zipIdx).any (fun x =>
    decide (8 ≤ x.2) && x.1 != 0 && !fields.any (fun f => decide (f.1 ≤ x.2 ∧ x.2 < f.1 + f.2)))

/-- A physical address argument: in LPDDR5X and aligned. -/
def addrArg (h : Hub) (a n align : Nat) : Bool := a % align == 0 && inLpddr h a n

/-- The command of mailbox `k` that waits to be served, of the opcode `op`. -/
def heldCommand (h : Hub) (k : Nat) (mine : Nat → Bool) : Option Desc :=
  let m := h.mailbox k
  match m.cmd with
  | some d => if mine d.kind && !m.busyLong && fwRuns h 4 then some d else none
  | none => none

/-- A command is complete once every write it made is accepted (R444): where one meets a protected piece, the command is
served again when the piece is copied (11 R327, log 12). -/
def wholeCommand (s : State) (k : Nat) (x : Hub × Work) : Out :=
  match newlyHeld s.work x.2 with
  | [] => .next { s with hub := x.1, work := x.2 }
  | as => .next { s with work := askPieces s.work (8, k, 0) as }

/-- Serve a command: its owner, its privilege, its reserved bytes, then its own meaning. `after` is what follows the
completion of a command that was carried out. -/
def serveCommandThen (op owner : Nat) (priv : Bool) (fields : List (Nat × Nat))
    (run : Hub → Work → Nat → List Byte → MbResult) (after : List Byte → Hub → Work → Hub × Work) (k : Nat) (s : State) :
    Out :=
  match heldCommand s.hub k (fun o => o == op) with
  | none => .next s
  | some d =>
    let finish (r : MbResult) : Out :=
      match r.done with
      | none => wholeCommand s k (r.hub, r.work)
      | some (c, result) =>
        let x := completeCommand r.hub r.work k c result
        wholeCommand s k (if c = 0 then after d.payload x.1 x.2 else x)
    if fwFailed s.hub owner then finish (mbRefuse s.hub s.work 0x0608)
    else if !fwRuns s.hub owner then .next s
    else if priv && !(s.hub.mailbox k).priv then finish (mbRefuse s.hub s.work 0x0603)
    else if argsReserved fields d.payload then finish (mbRefuse s.hub s.work 0x0604)
    else finish (run s.hub s.work k d.payload)

def serveCommand (op owner : Nat) (priv : Bool) (fields : List (Nat × Nat)) (run : Hub → Work → Nat → List Byte → MbResult)
    (k : Nat) (s : State) : Out :=
  serveCommandThen op owner priv fields run (fun _ h w => (h, w)) k s

/-- The command's completion comes with a later step. -/
def mbLater (h : Hub) (w : Work) (k : Nat) : MbResult := ⟨h.setMailbox k (fun m => { m with busyLong := true }), w, none⟩

/-- Memory that a firmware processor reads: a physical read (11 R321). -/
def fwRead (h : Hub) (w : Work) (a n : Nat) : Except Code (List Byte) :=
  match physRead h w a n with
  | .ok b => .ok b
  | .error (c, _) => .error c

end Sys2Proof.Machine
end

