-- ==== Sys2Proof/Machine/FwProcs.lean ====
section
/-!
DEFINITION. Firmware processors (14 R450 to R455) and the outcome of firmware updates (14 R456 to R463): restarts, crash
dumps, activation, trial and revert.
-/

namespace Sys2Proof.Machine

/-- The processor that serves an opcode (14 R446). -/
def opOwner (op : Nat) : Nat :=
  match op / 256 with
  | 1 => 0
  | 2 => 1
  | 3 => 2
  | 4 => 3
  | 5 => 4
  | 6 => 5
  | _ => 0

/-! ### Crash dumps (R455) -/

/-- The command descriptor that processor `n` was serving. -/
def inFlightOf (h : Hub) (n : Nat) : List Byte :=
  match h.fw.mailboxes.findSome? (fun m => m.cmd.filter (fun d => n == 4 || opOwner d.kind == n)) with
  | some d => sealDesc d.kind d.payload d.seq
  | none => []

/-- The dump engine writes a dump, or counts a lost one. -/
def writeDump (h : Hub) (w : Work) (n reason : Nat) (body : DumpData) : Hub :=
  h.setProc n (fun p =>
    if p.dump.valid then { p with dump := { p.dump with lost := min (p.dump.lost + 1) max32 } }
    else
      { p with
        dump :=
          { valid := true
            reason := reason
            dumpSeq := p.restarts
            lost := 0
            imageVersion := h.sec.running.version
            domainCount := w.logs.domainCounts.getD (48 + n) 0
            causal := w.logs.procCausal.getD n 0
            inFlight := inFlightOf h n
            body := { body with panicCode := if reason = 2 then body.panicCode else 0 } } })

/-! ### Restart (R452 to R454) -/

/-- A processor leaves service with STATE `st`. -/
def stopProc (h : Hub) (n st reason : Nat) : Hub :=
  let h1 := h.setProc n (fun p => { p with st := st, lastReason := reason, restarts := p.restarts + 1 })
  { h1 with ident := { h1.ident with fwAlive := h1.ident.fwAlive.set n false } }

/-- Commands that FW4 has passed to a processor complete with 0x0601 when it restarts (R453); when FW4 does not run, it
completes them as it resumes. -/
def abortCommands (h : Hub) (w : Work) (n : Nat) : Hub × Work :=
  (List.range 16).foldl
    (fun (x : Hub × Work) k =>
      match (x.1.mailbox k).cmd with
      | some d => if fwRuns x.1 4 && opOwner d.kind == n then completeCommand x.1 x.2 k 0x0601 [] else x
      | none => x)
    (h, w)

/-- A restart of FW0 ends the staging (R457, R463) and the use of the present LMS block (16 R502). -/
def endStaging (h : Hub) (n : Nat) : Hub :=
  if n = 0 then
    { h with
      fw :=
        { h.fw with
          update :=
            { h.fw.update with
              stage := if h.fw.update.stage = 1 ∨ h.fw.update.stage = 2 then 0 else h.fw.update.stage
              waitingMailbox := none } }
      sec := { h.sec with lmsReady := false } }
  else h

/-- The restart of a processor is its sixth within 60 s: time is outside the model, so that a free value says it, from its
sixth restart on (R454; DESIGN CHOICE, log 95). -/
def sixthRestart (h : Hub) (w : Work) (n : Nat) : Bool := decide (5 ≤ (h.proc n).restarts) && (Config.freeWord w.freeIx).getLsbD 0

/-- The class-0 alarm of a processor that is held failed (R454). -/
def failedAlarm (h : Hub) (w : Work) (n : Nat) : Work := raiseAlarm h w 0x0608 54 (unitOf 5 n) [] []

/-- Processor `n` restarts with the others, with STATE `st`, and without a dump; a failed one stays held. -/
def restartWith (st : Nat) (x : Hub × Work) (n : Nat) : Hub × Work :=
  if (x.1.proc n).st = 3 then x
  else
    let sixth := sixthRestart x.1 x.2 n
    let h1 := endStaging (stopProc x.1 n (if sixth then 3 else st) 5) n
    (h1, if sixth then failedAlarm h1 x.2.tick n else x.2.tick)

/-- All six restart together (R459, R462). -/
def restartAll (h : Hub) (w : Work) (st : Nat) : Hub × Work := (List.range 6).foldl (restartWith st) (h, w)

/-- FW5 restarts: records that it has taken from the queue and not yet written are lost and counted; how many of the
oldest it had taken is free (17 R521). -/
def loseTaken (w : Work) : Work :=
  let l := w.logs
  let open_ := l.queue.filter (fun q => (l.rings.getD q.record.cls none).isSome)
  let n := (Config.freeWord w.freeIx).toNat % (open_.length + 1)
  let taken := open_.take n
  let l1 := { l with queue := l.queue.filter (fun q => !taken.contains q) }
  { w with logs := taken.foldl (fun (l : Logs) (q : QueueEntry) => if q.record.cls = 0 then l else addDrop l q.record.cls q.record.domainCount) l1 }.tick

/-- The log record of class 6 of an activation, trial or revert. -/
def updateLog (h : Hub) (w : Work) (code : Code) : Work := emit h w ⟨6, code, 48, unitOf 5 0, 0, []⟩

/-- The bank that runs from now on. -/
def runBank (h : Hub) (bank : Nat) : Hub :=
  { h with
    ident := { h.ident with flashBank := bank }
    sec := { h.sec with running := bundleId (h.fw.flash.bank bank) } }

/-- A restart before a trial is confirmed reverts to the previous bank (R462). -/
def revertTrial (h : Hub) (w : Work) : Hub × Work :=
  let r := bankRecord h.fw.flash
  let flash := writeRecord h.fw.flash { r with active := r.prev, trial := false, actMailbox := 0xFF }
  let h1 : Hub :=
    { h with
      fw :=
        { h.fw with
          flash := flash
          update := { h.fw.update with trial := false, lastResult := 0x0609, stage := 0 } } }
  let h2 := runBank h1 r.prev
  restartAll h2 (updateLog h2 (loseTaken w) 0x0609) 2

/-- A trigger of R450 at processor `n`; `dump` is what a dump would hold. -/
def triggerRestart (h : Hub) (w : Work) (n reason : Nat) (sixth : Bool) (dump : Option DumpData) : Hub × Work :=
  let h0 := stopProc h n (if sixth then 3 else 2) reason
  let h1 := match dump with
    | some d => writeDump h0 w n reason d
    | none => h0
  let w0 := emit h1 w ⟨6, 0x0601, 48 + n, unitOf 5 n, 0, []⟩
  let w1 := if sixth then failedAlarm h1 w0 n else w0
  let w1b := if n = 5 then loseTaken w1 else w1
  let (h2, w2) := abortCommands (endStaging h1 n) w1b n
  if h2.fw.update.trial then revertTrial h2 w2 else (h2, w2)

def onState (s : State) (x : Hub × Work) : Out := .next { s with hub := x.1, work := x.2 }

def execWatchdogExpiry (n : Nat) (sixth : Bool) (d : DumpData) (s : State) : Out :=
  if fwRuns s.hub n then onState s (triggerRestart s.hub s.work n 1 sixth (some d)) else .next s

/-- A panic of the firmware, or an exception that it does not handle. -/
def execFirmwarePanic (n : Nat) (sixth exception : Bool) (d : DumpData) (s : State) : Out :=
  if fwRuns s.hub n then onState s (triggerRestart s.hub s.work n (if exception then 3 else 2) sixth (some d)) else .next s

def execPrivateSramParity (n : Nat) (sixth : Bool) (d : DumpData) (s : State) : Out :=
  if fwRuns s.hub n then onState s (triggerRestart s.hub s.work n 4 sixth (some d)) else .next s

/-! ### The end of a restart (R452 step 4, R453, R459 step 6) -/

/-- FW4 resumes a mailbox: the command that was in service completes, and the ring is read. -/
def resumeMailbox (h : Hub) (w : Work) (k : Nat) : Hub × Work :=
  match (h.mailbox k).cmd with
  | none => readMailbox h w k
  | some d =>
    let r := bankRecord h.fw.flash
    let isActivation := d.kind = 0x0704 ∧ (h.mailbox k).busyLong ∧ r.actMailbox = k ∧ r.actSeq = d.seq
    completeCommand h w k (if isActivation then 0 else 0x0601) []

/-- What a processor takes up again. -/
def resumeService (h : Hub) (w : Work) (n : Nat) : Hub × Work :=
  if n = 4 then (List.range 16).foldl (fun (x : Hub × Work) k => resumeMailbox x.1 x.2 k) (h, w)
  else if n = 0 then ((reserveLms h).1, w)
  else if n = 2 then
    ({ h with fw := { h.fw with heldControl := [] } },
      { w with fabric := { w.fabric with inbox := w.fabric.inbox ++ h.fw.heldControl } })
  else (h, w)

def execFwRestartComplete (n : Nat) (s : State) : Out :=
  let h := s.hub
  let st := (h.proc n).st
  if (st = 2 ∨ st = 4) ∧ h.ident.powered ∧ !h.safety.refFail ∧ (h.ident.powerState ≠ 2 ∨ n = 1) then
    let h1 := h.setProc n (fun p => { p with st := 1 })
    let h2 : Hub := { h1 with ident := { h1.ident with fwAlive := h1.ident.fwAlive.set n true } }
    onState s (resumeService h2 s.work n)
  else .next s

/-! ### Activation (R459, R460) -/

/-- The staged bank: the inactive one. -/
def stagedBank (h : Hub) : Nat := 1 - h.ident.flashBank

/-- Steps 3 to 5, for the command of a mailbox, or for a deferred activation. Images that are not those verified cannot run:
the module goes back to the old bank as from a trial (step 4; DESIGN CHOICE, log 31). -/
def activate (h : Hub) (w : Work) (cmd : Option (Nat × Word × Seq)) : Hub × Work :=
  let bank := stagedBank h
  let c := cmd.getD (0xFF, 0, 0)
  let flash := writeRecord h.fw.flash ⟨0x4253, 0, bank, true, h.ident.flashBank, c.1, c.2.1, c.2.2, false⟩
  let h1 : Hub :=
    { h with
      fw :=
        { h.fw with
          flash := flash
          update := { h.fw.update with trial := true, deferred := false, stage := 0, lastResult := 0 } } }
  if imageDigests (flash.bank bank) = h.fw.update.stagedDigest then
    let h2 := runBank h1 bank
    restartAll h2 (updateLog h2 (loseTaken w) 0) 4
  else revertTrial h1 w

/-- The module has been clear of emergency for 500 ms. -/
def execDeferredActivation (s : State) : Out :=
  let h := s.hub
  if h.fw.update.deferred ∧ !emergency h.safety ∧ fwRuns h 0 then
    onState s (activate h s.work none)
  else .next s

/-- All six processors have been alive for 10 s without a break. -/
def execTrialConfirm (s : State) : Out :=
  let h := s.hub
  if h.fw.update.trial ∧ (List.range 6).all (fwRuns h) then
    let r := bankRecord h.fw.flash
    let h1 : Hub :=
      { h with
        fw :=
          { h.fw with
            flash := writeRecord h.fw.flash { r with trial := false, actMailbox := 0xFF }
            update := { h.fw.update with trial := false, lastResult := 0 } } }
    onState s (h1, updateLog h1 s.work 0)
  else .next s

end Sys2Proof.Machine
end

