-- ==== Sys2Proof/Machine/Attestation.lean ====
section
/-!
DEFINITION. Attestation (16 R502 to R505): the SPDM 1.2 requests that FW0 serves. Request and error codes are those of
DMTF SPDM (PRESUMED, log 37); a body holds what the manual says that a response carries, in the manual's order.
-/

namespace Sys2Proof.Machine

def Hub.setSec (h : Hub) (f : Security → Security) : Hub := { h with sec := f h.sec }

/-- The response that FW0 gives. -/
def spdmReply (s : State) (h : Hub) (code : Nat) (body : List Byte) : Out :=
  .next { s with hub := h, work := { s.work with replies := { s.work.replies with spdmCode := code, spdmBody := body } } }

/-- SPDM ERROR, with its error code. -/
def spdmError (s : State) (h : Hub) (code : Nat) : Out := spdmReply s h 0x7F (leBytes 1 code)

def errInvalid : Nat := 0x01
def errBusy : Nat := 0x03
def errUnexpected : Nat := 0x04

/-- Requests wait while FW0 restarts; one that is out of its SPDM order is an error. -/
def spdmServe (s : State) (stage : Nat) (run : Hub → Out) : Out :=
  if !fwRuns s.hub 0 then .next s
  else if s.hub.sec.spdm < stage then spdmError s s.hub errUnexpected
  else run s.hub

def execGetVersion (s : State) : Out :=
  spdmServe s 0 fun h => spdmReply s (h.setSec (fun x => { x with spdm := 1 })) 0x04 (leBytes 2 0x1200)

/-- Capabilities: certificates, challenges and signed measurements; no sessions, key exchange or mutual authentication. -/
def execGetCapabilities (s : State) : Out :=
  spdmServe s 1 fun h => spdmReply s (h.setSec (fun x => { x with spdm := 2 })) 0x61 (leBytes 4 0x16)

def execNegotiateAlgorithms (ecdsaP384 sha384 : Bool) (s : State) : Out :=
  spdmServe s 2 fun h =>
    if ecdsaP384 && sha384 then spdmReply s (h.setSec (fun x => { x with spdm := 3 })) 0x63 [1, 1]
    else spdmError s h errInvalid

def chainOf (h : Hub) : List Byte := Config.certificateChain (h.sec.secret ++ h.sec.cdi)

/-- Slot 0 only, with the digest of its chain. -/
def execGetDigests (s : State) : Out :=
  spdmServe s 3 fun h => spdmReply s h 0x01 (leBytes 1 1 ++ Config.sha384 (chainOf h))

/-- A portion of slot 0's chain: its length, what remains, and the bytes. -/
def execGetCertificate (slot offset len : Nat) (s : State) : Out :=
  spdmServe s 3 fun h =>
    let c := chainOf h
    if slot ≠ 0 ∨ c.length ≤ offset then spdmError s h errInvalid
    else
      let part := (c.drop offset).take (min len 65535)
      spdmReply s h 0x02 (leBytes 2 part.length ++ leBytes 2 (c.length - offset - part.length) ++ part)

/-! ### Signed responses (R502 to R505) -/

/-- The code that refuses a signature of the device LMS key. -/
def lmsRefusal (h : Hub) : Code := if h.fw.flash.counterOk then 0x0807 else 0x0808

/-- The index is used; a block that is used up is followed by a new one. -/
def useIndex (h : Hub) : Hub :=
  let h1 := h.setSec (fun x => { x with nextIndex := x.nextIndex + 1, responses := x.responses + 1 })
  if 4096 * (h1.sec.lmsBlock + 1) ≤ h1.sec.nextIndex then (reserveLms h1).1 else h1

/-- Both signatures over a transcript: Alias, then the device HSS key over the same hash and the CDI digest. -/
def bothSignatures (h : Hub) (transcript : List Byte) : List Byte :=
  let d := Config.sha384 transcript
  Config.ecdsaSign h.sec.cdi d ++ leBytes 2 0x5A32 ++ Config.hssSign h.sec.secret h.sec.nextIndex (d ++ Config.sha384 h.sec.cdi)

/-- Within 200 signed responses in 10 s; `windowPassed` begins a new period. -/
def signedReply (s : State) (h : Hub) (windowPassed : Bool) (code : Nat) (body transcript : List Byte) : Out :=
  let h1 := if windowPassed then h.setSec (fun x => { x with responses := 0 }) else h
  if 200 ≤ h1.sec.responses then spdmError s h1 errBusy
  else if !h1.sec.lmsReady then spdmReply s h1 0x7F (leBytes 2 (lmsRefusal h1).toNat)
  else spdmReply s (useIndex h1) code (body ++ bothSignatures h1 transcript)

def execChallenge (slot : Nat) (transcript : List Byte) (windowPassed : Bool) (s : State) : Out :=
  spdmServe s 3 fun h =>
    if slot ≠ 0 then spdmError s h errInvalid
    else signedReply s h windowPassed 0x03 (Config.sha384 (chainOf h)) transcript

def flagByte (b : Bool) : List Byte := leBytes 1 (if b then 1 else 0)

/-- The measurements of R505. -/
def measurement (h : Hub) (i : Nat) : List Byte :=
  let c := h.ident.cfg
  match i with
  | 1 => leBytes 8 Config.romVersion.toNat
  | 2 => leBytes 8 h.sec.booted.version.toNat ++ h.sec.booted.digest
  | 3 => leBytes 8 h.sec.running.version.toNat ++ h.sec.running.digest
  | 4 => leBytes 8 c.version.toNat ++ leBytes 1 h.sec.cfgSource ++ c.digest
  | 5 =>
    flagByte c.testMode ++ flagByte c.debugEnable ++ leBytes 1 h.ident.flashBank ++ flagByte h.fw.update.trial ++
      flagByte h.sec.fallback
  | 6 => leBytes 8 (moduleIdent h)
  | 7 => leBytes 4 h.sec.lmsBlock
  | _ => []

/-- Index 0 asks for the number of measurements, 0xFF for all of them. -/
def measurementBody (h : Hub) (index : Nat) : Option (List Byte) :=
  if index = 0 then some (leBytes 1 7)
  else if index = 0xFF then some ((List.range 7).flatMap (fun i => leBytes 1 (i + 1) ++ measurement h (i + 1)))
  else if index ≤ 7 then some (leBytes 1 index ++ measurement h index)
  else none

def execGetMeasurements (index : Nat) (transcript : List Byte) (windowPassed : Bool) (s : State) : Out :=
  spdmServe s 3 fun h =>
    match measurementBody h index with
    | none => spdmError s h errInvalid
    | some b => signedReply s h windowPassed 0x60 b transcript

end Sys2Proof.Machine
end

