-- ==== Sys2Proof/Machine/CacheFlush.lean ====
section
/-!
DEFINITION. Lines that leave a cache (11 R332, R333, R341; 07 R214; 15 R486, R489): clean lines vanish, dirty lines go to
their homes, and a bad dirty line enters its home's quarantine list.
-/

namespace Sys2Proof.Machine

/-- Every line that satisfies `p` leaves the caches it is in, and victim buffers with it, and the tags recorded for those (11 R341). -/
def evictAll (h : Hub) (w : Work) (p : Nat → Nat → Bool) : Work :=
  let out := w.coh.lines.filter (fun l => p l.agent l.line)
  let vs := w.coh.victims.filter (fun v => p v.agent v.line && !v.crossed && !v.done)
  let w1 := out.foldl (fun w l => if dirty l then dataToHome w l.line l.data l.bad else w) w
  let w2 := vs.foldl (fun w v => dataToHome w v.line v.data v.bad) w1
  let gone := (w2.coh.victims.filter (fun v => p v.agent v.line && !v.done)).map (fun v => v.tag)
  let w3 :=
    { w2 with
      coh :=
        { w2.coh with
          lines := w2.coh.lines.filter (fun l => !p l.agent l.line)
          victims := w2.coh.victims.filter (fun v => !p v.agent v.line)
          crossedTags := w2.coh.crossedTags.filter (fun x => !gone.contains x) } }
  (out.map (fun l => l.line)).foldl (fun w ln => dirNote h w ln) w3

/-- Every line vanishes without a write-back (15 R488). -/
def dropAllLines (w : Work) : Work :=
  { w with coh := { w.coh with lines := [], victims := [], crossedTags := [], homes := w.coh.homes.map (fun hm => { hm with dir := [] }) } }

end Sys2Proof.Machine
end

