-- ==== Sys2Proof/Machine/Legends.lean ====
section
/-!
DEFINITION. USE_CLOSE as the command of a core (08 R226, R227).
-/

namespace Sys2Proof.Machine

/-- A core's store to USE_CLOSE of an entry of the tensor table: the core gets the code (R227). On a protected piece the store
is held (11 R327). -/
def closeUse (h : Hub) (w : Work) (entry : Nat) : Work :=
  match closeAt h w entry with
  | .error (c, _) => w.reply c []
  | .ok w1 => w1.reply 0 []

def execUseClose (entry : Nat) (s : State) : Out :=
  onWork s fun h w =>
    if entry = 0 ∨ 2 ^ w.tables.ttLog2 ≤ entry ∨ w.tables.ttLog2 = 0 then w
    else
      match moduleAddr h w true (entryAddr w.tables.ttBase entry) with
      | .ok p => if pieceHeld h w p then holdReq w (lineOf p) (.command (.useClose entry)) else closeUse h w entry
      | .error c => w.reply c []

end Sys2Proof.Machine
end

