-- ==== Sys2Proof/Machine/RegWrite.lean ====
section
/-!
DEFINITION. Stores to registers without a command of their own (00 R8, R10, R11; 01 R28, R29), and the sideband's register
reads (19 R543).
-/

namespace Sys2Proof.Machine

/-! ### Engine blocks -/

/-- A store to a token counter: WAITs are served (07 R200, R213). -/
def storeToken (h : Hub) (w : Work) (e c : Nat) (v : Word) : Work :=
  serveTokens h
    (w.setEngine e (fun en => { en with tokens := en.tokens.set c (BitVec.ofNat 32 v.toNat) })) e

/-- KEEP_BASE, KEEP_SIZE and KEEP_CTRL of one window (10 R310, R311). -/
def storeKeep (k : KeepWindow) (field : Nat) (v : Word) : KeepWindow :=
  match field with
  | 0x00 => { k with base := v &&& 0xFFFFFFFFFFFFFFC0#64 }
  | 0x08 => { k with size := v &&& 0x00007FFFFFFFFFC0#64 }
  | _ => { k with ctrl := v }

/-- A store to one engine's status and fault block. -/
def storeEngineReg (h : Hub) (w : Work) (e o : Nat) (v : Word) : Work :=
  if o = 0x000 then
    (if bitOf v.toNat 4 then w.setEngine e (fun en => { en with tokenSat := false }) else w)
  else if 0x040 ≤ o ∧ o < 0x140 ∧ o % 0x40 = 0x08 then
    w.setStream e ((o - 0x040) / 0x40) (fun st =>
      if st.enable then st else { st with nextSeq := BitVec.ofNat 32 v.toNat })
  else if 0x200 ≤ o ∧ o < 0x400 then storeToken h w e ((o - 0x200) / 8) v
  else if o = 0x508 then
    w.setEngine e (fun en => { en with trap := { en.trap with enable := bitOf v.toNat 0, record := bitOf v.toNat 1 } })
  else if 0x640 ≤ o ∧ o < 0x670 then
    w.setEngine e (fun en =>
      { en with keep := en.keep.modify ((o - 0x640) / 0x18) (fun k => storeKeep k ((o - 0x640) % 0x18) v) })
  else w

/-! ### Update, copier and logs -/

/-- Bits [46:12] of a table's address. -/
def tableBase (v : Word) : Nat := bitsOf v.toNat 12 35 * 4096

/-- A store to an RW register of the update block; ignored while PHASE is not 0 (09 R272 to R274). -/
def storeUpdateReg (u : Update) (o : Nat) (v : Word) : Update :=
  if o = 0x048 then { u with goRefused := u.goRefused && !bitOf v.toNat 3 }
  else if u.phase ≠ 0 then u
  else if o = 0x000 then { u with groupBase := tableBase v }
  else if o = 0x008 then { u with groupCount := bitsOf v.toNat 0 17 }
  else if o = 0x010 then { u with contourBase := tableBase v }
  else if o = 0x018 then { u with contourCount := bitsOf v.toNat 0 17 }
  else if o = 0x020 then { u with surveyBase := tableBase v }
  else if o = 0x028 then { u with surveyCount := bitsOf v.toNat 0 17 }
  else if o = 0x030 then { u with seed := v }
  else if o = 0x038 then { u with stepDesc := bitsOf v.toNat 6 41 * 64 }
  else if 0x2000 ≤ o ∧ o < 0x3800 then
    { u with counters := (alSet u.counters ((o - 0x2000) / 8) v).filter (fun c => c.2 != 0) }
  else u

/-- A store to an RW register of the copier (13 R427). -/
def storeCopierReg (c : Copier) (o : Nat) (v : Word) : Copier :=
  if o = 0x8000 then { c with descAddr := bitsOf v.toNat 6 41 * 64 }
  else if o = 0x8048 then { c with verifyStep := v }
  else if o = 0x8050 then { c with verifyAddr := bitsOf v.toNat 0 47 }
  else if o = 0x8058 then { c with ledgerStep := v }
  else c

/-- A store to a log register (17 R525). -/
def storeLogReg (l : Logs) (o : Nat) (v : Word) : Logs :=
  let n := v.toNat
  if o = 0x048 then { l with traceEnable := bitsOf n 0 5 }
  else if 0x050 ≤ o ∧ o < 0x070 then
    { l with alarmDest := l.alarmDest.set ((o - 0x050) / 8) (bitsOf n 0 17, bitOf n 17) }
  else if o = 0x070 then { l with fwdAddr := bitsOf n 12 52 * 4096 }
  else if o = 0x078 then
    { l with
      fwdLog2 := bitsOf n 0 5
      fwdEnable := bitOf n 5 && decide (4 ≤ bitsOf n 0 5 ∧ bitsOf n 0 5 ≤ 16)
      fwdClasses := bitsOf n 6 12 }
  else if 0x100 ≤ o ∧ o < 0x160 then { l with heads := l.heads.set ((o - 0x100) / 8) (BitVec.ofNat 32 n) }
  else l

/-! ### Any register -/

/-- A 64-bit store to a mapped offset of register space. A field whose store is a command of its own is left to it. -/
def storeRegister (h : Hub) (w : Work) (o : Nat) (v : Word) : Work :=
  if o < 0x1000 then w.setLogs (fun l => storeLogReg l o v)
  else if 0x2000000 ≤ o ∧ o < 0x2048000 then storeEngineReg h w ((o - 0x2000000) / 0x1000) (o % 0x1000) v
  else if 0x5000000 ≤ o ∧ o < 0x5008000 then { w with upd := storeUpdateReg w.upd (o - 0x5000000) v }
  else if 0x5008000 ≤ o ∧ o < 0x5100000 then { w with copier := storeCopierReg w.copier (o - 0x5000000) v }
  else w

/-- A core's store to register space: one naturally aligned 64-bit word at a mapped offset (01 R28, R29). -/
def writeRegister (h : Hub) (w : Work) (offset width : Nat) (v : Word) : Work :=
  if width ≠ 8 ∨ offset % 8 ≠ 0 ∨ (readRegister h w offset).isNone then w.reply 0x0401 []
  else (storeRegister h w offset v).reply 0 []

/-- REGISTER_WRITE; the host clusters stop with their reference (01 R24). -/
def execRegisterWrite (offset width : Nat) (v : Word) (s : State) : Out :=
  onWork s fun h w => if h.safety.refFail then w else writeRegister h w offset width v

/-! ### READ_REG over the sideband (19 R543) -/

/-- The status and the value that READ_REG returns. -/
def i2cRead (h : Hub) (w : Work) (offset : Nat) : Code × Word :=
  if offset < 0x1000 ∨ (0x3000000 ≤ offset ∧ offset < 0x3010000) then
    match readRegister h w offset with
    | some v => (0, BitVec.ofNat 64 v)
    | none => (0x0401, 0)
  else (0x0401, 0)

/-- The I²C target answers while the module has power and its reference (19 R543). -/
def i2cAnswers (h : Hub) : Bool := h.ident.powered && !h.safety.refFail

def execReadReg (offset : Nat) (s : State) : Out :=
  onWork s fun h w =>
    if i2cAnswers h then
      let r := i2cRead h w offset
      { w with replies := { w.replies with i2cStatus := r.1, i2cData := r.2 } }
    else w

end Sys2Proof.Machine
end

