-- ==== Sys2Proof/Machine/Coherence.lean ====
section
/-!
DEFINITION. Transactions at the homes, step by step (11 R335 to R348): acceptance with trackers and snapshot protection,
the snoop lap, write-backs and their crossing, uncached reads and writes, atomics, and the accesses of cores outside LPDDR5X.
-/

namespace Sys2Proof.Machine

/-! ### Trackers (R335) -/

def homeTrackers : Nat := 512

/-- The number under which a home remembers the first request it refused. -/
def requestKey (agent ln : Nat) : Nat := agent * 2 ^ 40 + ln

/-- A tracker is free for a request: the next free one is reserved for the first request refused. -/
def trackerFree (hm : Home) (key : Nat) : Bool :=
  let kept := match hm.reserved with
    | none => 0
    | some r => if r = key then 0 else 1
  decide (kept < homeTrackers - hm.txns.length)

/-- A request that has its tracker needs no reservation any more; one that found none free has the next one. -/
def noteReserved (hm : Home) (key : Nat) : Home :=
  if trackerFree hm key then { hm with reserved := if hm.reserved = some key then none else hm.reserved }
  else { hm with reserved := if hm.reserved.isNone then some key else hm.reserved }

/-- A request takes a tracker, or goes on round its ring. -/
def takeTracker (hm : Home) (key : Nat) (t : Txn) : Home :=
  if trackerFree hm key then { noteReserved hm key with txns := hm.txns ++ [t] } else noteReserved hm key

/-- The transaction of a line that the home runs: the oldest one. -/
def activeTxn (c : Coherence) (ln : Nat) : Option Txn := (c.home (lineHome ln)).txns.find? (fun t => t.line == ln)

def lineBusy (c : Coherence) (ln : Nat) : Bool := (activeTxn c ln).isSome

def stateOf (c : Coherence) (agent ln : Nat) : Option LineState :=
  (c.lines.find? (fun l => l.agent == agent && l.line == ln)).map (fun l => l.st)

/-- The agent's own write-back of the line is on its way: its later messages come after it (R337). -/
def ownWriteBack (c : Coherence) (agent ln : Nat) : Bool :=
  c.victims.any (fun v => v.agent == agent && v.line == ln && !v.done)

def hasTxn (c : Coherence) (agent ln : Nat) : Bool :=
  (c.home (lineHome ln)).txns.any (fun t => t.agent == agent && t.line == ln)

def isProtected (w : Work) (ln : Nat) : Bool := w.copier.protectedSet.contains (linePiece ln)

/-- LPDDR5X and the host clusters work: the module has power and its reference, is booted and not in standby (01 R24). -/
def homesWork (h : Hub) : Bool :=
  h.ident.powered && h.ident.powerState != 2 && h.ident.bootDone && !h.safety.refFail

/-- The home of a line works: M8 to M23 are part of the engine complex (15 R487, R489). -/
def homeUp (h : Hub) (ln : Nat) : Bool := homesWork h && (h.ident.complexReady || decide (lineHome ln < 8))

/-- The home frees the tracker of the transaction that it runs on a line. -/
def freeTracker (w : Work) (t : Txn) : Work :=
  w.setHome (lineHome t.line) (fun hm => { hm with txns := hm.txns.eraseP (fun x => x.line == t.line) })

def Work.setTxn (w : Work) (t : Txn) (f : Txn → Txn) : Work :=
  w.setHome (lineHome t.line) (fun hm =>
    { hm with txns := hm.txns.map (fun x => if x.agent == t.agent && x.line == t.line then f x else x) })

/-! ### Where an access of a core leads (01 R25 to R39, 11 R318) -/

inductive Place where
  | lpddr (p : Nat)
  | sram (a : Nat)
  | regs (offset : Nat)
  | remote (m a : Nat)
  | unmapped
  deriving DecidableEq, Repr

def localPlace (h : Hub) (a : Nat) : Place :=
  match regionOf h a with
  | .lpddr => .lpddr a
  | .sram _ => .sram a
  | .regs o => .regs o
  | .unmapped => .unmapped

/-- The operand of a command: a local address, or an atlas address with its MODULE field (DESIGN CHOICE, log 91). -/
def placeOf (h : Hub) (a : Nat) : Place :=
  if a < 2 ^ 47 then localPlace h a
  else
    match targetOf h a with
    | .self x => localPlace h x
    | .remote m x => .remote m x
    | .none => .unmapped

/-- UNIT of an agent: a host cluster or an engine (17 R511). -/
def agentUnit (agent : Nat) : BitVec 16 := if agent < 8 then unitOf 6 agent else unitOf 1 (agent - 8)

/-! ### What a cache does with a line (R338) -/

/-- The requester receives a line, or the code of a fault (R332, R333). -/
def grantLine (w : Work) (g : Option (Nat × Nat × LineState)) (c : Code) : Work :=
  { w with replies := { w.replies with grant := g, grantCode := c } }

/-- The access fault of a core whose line is homed in the engine complex while that resets (15 R489). -/
def coreFault (h : Hub) (w : Work) (agent a : Nat) : Work :=
  if homesWork h && decide (agent < 8) then grantLine (emitMemError h w 0x0701 (unitOf 6 agent) a) none 0x0701 else w

/-- Bytes of a line. -/
def lineField (d : List Byte) (a n : Nat) : List Byte := (List.range n).map (fun i => d.getD (a % 128 + i) 0)

/-- What an operation does with the line's data `d`, with or without a reservation: the bytes it writes, whether the
reservation stands after it, and what the core receives (DESIGN CHOICE for the values of SC, log 92). -/
def lineOpEffect (d : List Byte) (resv : Bool) (a : Nat) : LineOp → List Byte × Bool × Option (List Byte)
  | .store bs => (bs, false, none)
  | .amo aop width x y =>
    let old := lineField d a width
    (leBytes width (atomicNew aop width (leNat old) x.toNat y.toNat), false, some old)
  | .loadReserved width => ([], true, some (lineField d a width))
  | .storeConditional bs => if resv then (bs, false, some [0]) else ([], false, some [1])

/-- Bytes that an operation touches. -/
def opLength : LineOp → Nat
  | .store bs => bs.length
  | .amo _ width _ _ => width
  | .loadReserved width => width
  | .storeConditional bs => bs.length

/-- Only a core has AMO, LR and SC, and those of R319 and 12 R375. -/
def opLegal (agent : Nat) : LineOp → Bool
  | .store _ => true
  | .amo aop width _ _ => decide (agent < 8) && decide (aop ≤ 9) && (width == 4 || width == 8)
  | .loadReserved width => decide (agent < 8) && (width == 4 || width == 8)
  | .storeConditional bs => decide (agent < 8) && (bs.length == 4 || bs.length == 8)

/-- A core's operation gives it a value. -/
def replyOf (w : Work) : Option (List Byte) → Work
  | some d => w.reply 0 d
  | none => w

/-- The use that a write of `bs` closes (08 R226): the core gets the code of a SCALE_CTRL that would refuse a conversion. -/
def closeAfter (h : Hub) (w : Work) (t : Option (Nat × List Byte)) : Work :=
  match t with
  | none => w
  | some (entry, _) =>
    match closeAt h w entry with
    | .ok w1 => w1
    | .error (c, _) => grantLine w none c

/-- The bytes that a write of `bs` at `a` leaves in the line: those of USE_CLOSE are not kept (08 R218). -/
def keptBytes (bs : List Byte) : Option (Nat × List Byte) → List Byte
  | none => bs
  | some (_, b) => b

/-- The state of a line that its cache holds in M or E after a store. -/
def hitLine (l : CacheLine) (a : Nat) (bs : List Byte) (resv : Bool) : CacheLine :=
  { l with st := if bs.isEmpty then l.st else .m, data := mergeLine l.data a bs, resv := resv }

/-- An operation on a line that the cache holds in M or E. -/
def storeHit (h : Hub) (w : Work) (agent a : Nat) (op : LineOp) : Work :=
  match w.coh.lines.find? (fun l => l.agent == agent && l.line == lineOf a) with
  | none => w
  | some l =>
    let e := lineOpEffect l.data l.resv a op
    let t := if e.1.isEmpty then none else closeTarget h w a e.1
    let w1 :=
      { w with
        coh :=
          { w.coh with
            lines := w.coh.lines.map (fun x =>
              if x.agent == agent && x.line == lineOf a then hitLine x a (keptBytes e.1 t) e.2.1 else x) } }
    closeAfter h (replyOf w1 e.2.2) t

/-! ### The grant at the end of a lap (R338, R340, R343) -/

def setLine (c : Coherence) (agent ln : Nat) (st : LineState) : Coherence :=
  { c with
    lines := c.lines.map (fun l => if l.agent == agent && l.line == ln then { l with st := st, resv := false } else l) }

def dropLine (c : Coherence) (agent ln : Nat) : Coherence :=
  { c with lines := c.lines.filter (fun l => !(l.agent == agent && l.line == ln)) }

def setResv (c : Coherence) (agent ln : Nat) (resv : Bool) : Coherence :=
  { c with lines := c.lines.map (fun l => if l.agent == agent && l.line == ln then { l with resv := resv } else l) }

/-- The requester of READ_SHARED installs the line: in E where no other cache holds it and its piece is not protected, else in
S (R327). -/
def installShared (h : Hub) (w : Work) (t : Txn) : Work :=
  let w1 := shareLine h w t.agent t.line
  grantLine w1 ((stateOf w1.coh t.agent t.line).map (fun st => (t.agent, t.line, st))) 0

/-- The requester of READ_UNIQUE or UPGRADE has the line in M and performs its operation there (R339, R343). -/
def installOwned (h : Hub) (w : Work) (t : Txn) : Work :=
  let e := lineOpEffect (lineData w t.line) false t.addr t.op
  let use := if e.1.isEmpty then none else closeTarget h w t.addr e.1
  let w1 := ownLine h w t.agent t.line t.addr (keptBytes e.1 use)
  let w2 := grantLine { w1 with coh := setResv w1.coh t.agent t.line e.2.1 } (some (t.agent, t.line, .m)) 0
  closeAfter h (replyOf w2 e.2.2) use

/-! ### Uncached transactions (R338, R344) -/

/-- Bytes of USE_CLOSE of the tensor table read 0 (08 R218). -/
def maskClose (h : Hub) (w : Work) (a : Nat) (bs : List Byte) : List Byte :=
  bs.zipIdx.map (fun x =>
    match tablePlace h w (a + x.2) with
    | some o => if 256 ≤ o ∧ 0xB8 ≤ o % 256 ∧ o % 256 < 0xC0 then 0 else x.1
    | none => x.1)

def countRetries (w : Work) (fromMemory : Bool) (retries : Nat) : Work :=
  if fromMemory then { w with coh := { w.coh with eccRetries := min (w.coh.eccRetries + min retries 2) max32 } } else w

/-- A read of each byte at its home (R338, R330): after more than two retries the controller gives a read error, unless
a cache supplies the line. -/
def readOnceNow (h : Hub) (w : Work) (a n retries : Nat) : Work :=
  let fromMemory := (linesOf a n).any (fun ln => (dirtyCopy w.coh ln).isNone)
  let w1 := countRetries w fromMemory retries
  match physRead h w1 a n with
  | .error (c, x) => (badLeaves h w1 80 c x).reply c []
  | .ok bs => if fromMemory && decide (2 < retries) then w1.reply 0x0403 [] else w1.reply 0 (maskClose h w a bs)

def writeAtHomeNow (h : Hub) (w : Work) (a : Nat) (bs : List Byte) : Work :=
  match physStore h w a bs with
  | .error (c, x) => (badLeaves h w 80 c x).reply c []
  | .ok w1 => w1.reply 0 []

def atomicNow (h : Hub) (w : Work) (a aop width : Nat) (operand compare : Word) : Work :=
  match atomicAt h w a aop width operand.toNat compare.toNat with
  | .error (c, x) => (badLeaves h w 80 c x).reply c []
  | .ok (w1, old) => w1.reply 0 (leBytes width old)

/-- An uncached command performed at its home. -/
def runUncached (h : Hub) (w : Work) : Instr → Work
  | .writeAtHome a bs => writeAtHomeNow h w a bs
  | .atomicAtHome a op wd x y => atomicNow h w a op wd x y
  | .readOnce a n r => readOnceNow h w a n r
  | _ => w

/-- The home goes on with the transactions of a line: uncached ones end at once, a cache's one begins its lap. -/
def runFree (h : Hub) (ln : Nat) : Nat → Work → Work
  | 0, w => w
  | n + 1, w =>
    match activeTxn w.coh ln with
    | some t =>
      (match t.kind with
       | .uncached i => runFree h ln n (runUncached h (freeTracker w t) i)
       | _ => w)
    | none => w

/-- Transactions of the line's home: enough steps for `runFree`. -/
def advanceLine (h : Hub) (w : Work) (ln : Nat) : Work := runFree h ln ((w.coh.home (lineHome ln)).txns.length) w

/-- The number that stands for a requester without a cache. -/
def noCache : Nat := 80

/-- A request of no cache is performed at once, or waits in its tracker behind the line's transaction (R335, R345). -/
def enterUncached (h : Hub) (w : Work) (ln a : Nat) (i : Instr) : Work :=
  let w1 :=
    w.setHome (lineHome ln) (fun hm =>
      takeTracker hm (requestKey noCache ln) ⟨.uncached i, noCache, ln, a, .store [], [], none, false⟩)
  if lineBusy w.coh ln then w1 else advanceLine h w1 ln

/-! ### Requests of the caches (R338, R342, R343) -/

def acceptTxn (w : Work) (kind : TxnKind) (agent a : Nat) (op : LineOp) : Work :=
  w.setHome (lineHome (lineOf a)) (fun hm =>
    takeTracker hm (requestKey agent (lineOf a)) ⟨kind, agent, lineOf a, a, op, [], none, false⟩)

/-- READ_UNIQUE or UPGRADE reaches its home, or the operation hits (R336, R338). -/
def askOwnership (h : Hub) (w : Work) (kind : TxnKind) (agent a : Nat) (op : LineOp) : Work :=
  match stateOf w.coh agent (lineOf a) with
  | some .m => storeHit h w agent a op
  | some .e => storeHit h w agent a op
  | _ => acceptTxn w kind agent a op

/-- The line of a held request. -/
def heldLine (h : Hub) (w : Work) : HeldReq → Nat
  | .command (.readUnique _ a _) => lineOf a
  | .command (.upgrade _ a _) => lineOf a
  | .command (.writeAtHome a _) => lineOf a
  | .command (.atomicAtHome a _ _ _ _) => lineOf a
  | .command (.useClose entry) =>
    (match moduleAddr h w true (entryAddr w.tables.ttBase entry) with
     | .ok p => lineOf p
     | .error _ => 0)
  | .command _ => 0
  | .write a _ => lineOf a
  | .own _ a _ => lineOf a
  | .step _ a => lineOf a

/-- A write on a protected piece is held, and so is one behind a held request of its line (R327). -/
def mustHold (h : Hub) (w : Work) (ln : Nat) : Bool :=
  isProtected w ln || (w.coh.home (lineHome ln)).held.any (fun r => heldLine h w r == ln)

/-- The home holds a cache's request for the line already. -/
def holdsRequest (w : Work) (agent ln : Nat) : Bool :=
  (w.coh.home (lineHome ln)).held.any (fun r =>
    match r with
    | .command (.readUnique g a _) => g == agent && lineOf a == ln
    | .command (.upgrade g a _) => g == agent && lineOf a == ln
    | _ => false)

def readSharedNow (h : Hub) (w : Work) (agent a : Nat) : Work :=
  let ln := lineOf a
  if (stateOf w.coh agent ln).isNone && !ownWriteBack w.coh agent ln && !hasTxn w.coh agent ln then
    (if homeUp h ln then acceptTxn w .readShared agent a (.store []) else coreFault h w agent a)
  else w

/-- A store, AMO, LR or SC of one line; `i` is the request with its whole transaction. -/
def ownershipNow (h : Hub) (w : Work) (kind : TxnKind) (agent a : Nat) (op : LineOp) (i : Instr) : Work :=
  let ln := lineOf a
  if !ownWriteBack w.coh agent ln && !hasTxn w.coh agent ln && !holdsRequest w agent ln then
    (if homeUp h ln then
       (if mustHold h w ln then holdReq w ln (.command i) else askOwnership h w kind agent a op)
     else
       match stateOf w.coh agent ln with
       | some .m => storeHit h w agent a op
       | some .e => storeHit h w agent a op
       | _ => coreFault h w agent a)
  else w

/-! ### Accesses of cores outside LPDDR5X (R318, R319) -/

/-- The access fault or the code of a core's access. -/
def refuseCore (w : Work) (c : Code) : Work := w.reply c []

/-- An access to the SRAM window while the engine complex resets (15 R489). -/
def sramDown (h : Hub) (w : Work) (a : Nat) : Work := (emitMemError h w 0x0701 (unitOf 6 0) a).reply 0x0701 []

/-- The bytes lie in one aligned word of `k` bytes. -/
def inWord (k a n : Nat) : Bool := decide (0 < n) && decide (a % k + n ≤ k)

/-- Send a core's access to another module on C2 (12 R368, R374). -/
def sendCore (h : Hub) (w : Work) (m op a n : Nat) (payload : List Byte) : Work :=
  match sendRequest h w 0xFFFF m 2 op a n payload .core with
  | (w1, c) => if c = 0 then w1 else refuseCore w1 c

def uncachedRead (h : Hub) (w : Work) (pl : Place) (n : Nat) : Work :=
  match pl with
  | .sram a =>
    if !h.ident.complexReady then sramDown h w a
    else if !inWord 64 a n then refuseCore w 0x0408
    else w.reply 0 (memRead w.mem a n)
  | .regs o =>
    (match (if n = 8 ∧ o % 8 = 0 then readRegister h w o else none) with
     | some v => w.reply 0 (leBytes 8 v)
     | none => refuseCore w 0x0401)
  | .remote m a => if inWord 8 a n then sendCore h w m 0x01 a n [] else refuseCore w 0x0408
  | _ => refuseCore w 0x0401

def uncachedWrite (h : Hub) (w : Work) (pl : Place) (bs : List Byte) : Work :=
  match pl with
  | .sram a =>
    if !h.ident.complexReady then sramDown h w a
    else if !inWord 64 a bs.length then refuseCore w 0x0408
    else ({ w with mem := memWrite w.mem a bs }).reply 0 []
  | .regs o => writeRegister h w o bs.length (BitVec.ofNat 64 (leNat bs))
  | .remote m a => if inWord 8 a bs.length then sendCore h w m 0x02 a bs.length bs else refuseCore w 0x0408
  | _ => refuseCore w 0x0401

def uncachedAtomic (h : Hub) (w : Work) (pl : Place) (aop width : Nat) (x y : Word) : Work :=
  match pl with
  | .sram a =>
    if !h.ident.complexReady then sramDown h w a
    else if !inWord 64 a width then refuseCore w 0x0408
    else atomicNow h w a aop width x y
  | .remote m a =>
    if a % width = 0 then sendCore h w m 0x03 a 24 (atomicPayload aop width x y) else refuseCore w 0x0408
  | _ => refuseCore w 0x0401

/-- A core's operation outside LPDDR5X: no LR and no SC (R319). -/
def uncachedOp (h : Hub) (w : Work) (pl : Place) : LineOp → Work
  | .store bs => uncachedWrite h w pl bs
  | .amo aop width x y => uncachedAtomic h w pl aop width x y
  | _ => refuseCore w (if pl = .unmapped then 0x0401 else 0x0408)

/-! ### The commands -/

/-- READ_SHARED: only LPDDR5X is held in caches (R318). -/
def execReadShared (agent addr : Nat) (s : State) : Out :=
  onWork s fun h w =>
    if homesWork h && decide (agent < 80) then
      match placeOf h addr with
      | .lpddr p => readSharedNow h w agent p
      | .unmapped => grantLine w none 0x0401
      | _ => w
    else w

/-- A store, AMO, LR or SC of a cache. One that crosses a line is split, or faults where a core gives it (R317, R319). -/
def ownershipAt (h : Hub) (w : Work) (kind : TxnKind) (agent addr : Nat) (op : LineOp)
    (cmd : Nat → LineOp → Instr) : Work :=
  if !homesWork h || !decide (agent < 80) then w
  else
    match placeOf h addr with
    | .lpddr p =>
      if opLength op = 0 then w
      else if !inLpddr h p (opLength op) then grantLine w none 0x0401
      else if !opLegal agent op then grantLine w none 0x0408
      else if p % 128 + opLength op ≤ 128 then ownershipNow h w kind agent p op (cmd p op)
      else if agent < 8 then grantLine w none 0x0408
      else
        match op with
        | .store bs =>
          (lineParts p bs).foldl (fun w x => ownershipNow h w kind agent x.1 (.store x.2) (cmd x.1 (.store x.2))) w
        | _ => w
    | pl => if agent < 8 then (if opLegal agent op then uncachedOp h w pl op else refuseCore w 0x0408) else w

def execReadUnique (agent addr : Nat) (op : LineOp) (s : State) : Out :=
  onWork s fun h w => ownershipAt h w .readUnique agent addr op (fun a o => .readUnique agent a o)

def execUpgrade (agent addr : Nat) (op : LineOp) (s : State) : Out :=
  onWork s fun h w => ownershipAt h w .upgrade agent addr op (fun a o => .upgrade agent a o)

/-- One line of an uncached request: held on a protected piece, or entered; a line homed in an engine complex that resets
faults with 0x0701 (15 R489). -/
def atHome (h : Hub) (w : Work) (a : Nat) (writes : Bool) (i : Instr) : Work :=
  let ln := lineOf a
  if !homeUp h ln then (emitMemError h w 0x0701 (unitOf 6 0) a).reply 0x0701 []
  else if writes && mustHold h w ln then holdReq w ln (.command i)
  else enterUncached h w ln a i

/-- Every line of the span is free, so that the request is performed as one. -/
def spanFree (h : Hub) (w : Work) (a n : Nat) (writes : Bool) : Bool :=
  (linesOf a n).all (fun ln =>
    homeUp h ln && !lineBusy w.coh ln && trackerFree (w.coh.home (lineHome ln)) (requestKey noCache ln) &&
      !(writes && mustHold h w ln))

/-- READ_ONCE: split at the lines (R317); a span whose lines are free is read as one, and else each part answers for itself
(DESIGN CHOICE, log 91). -/
def execReadOnce (addr len eccRetries : Nat) (s : State) : Out :=
  onWork s fun h w =>
    if !homesWork h || len == 0 then w
    else
      match placeOf h addr with
      | .lpddr p =>
        if !inLpddr h p len then refuseCore w 0x0401
        else if spanFree h w p len false then readOnceNow h w p len eccRetries
        else
          (lineParts p (List.replicate len 0)).foldl
            (fun w x => atHome h w x.1 false (.readOnce x.1 x.2.length eccRetries)) w
      | pl => uncachedRead h w pl len

def execWriteAtHome (addr : Nat) (bytes : List Byte) (s : State) : Out :=
  onWork s fun h w =>
    if !homesWork h || bytes.isEmpty then w
    else
      match placeOf h addr with
      | .lpddr p =>
        if !inLpddr h p bytes.length then refuseCore w 0x0401
        else if spanFree h w p bytes.length true then writeAtHomeNow h w p bytes
        else (lineParts p bytes).foldl (fun w x => atHome h w x.1 true (.writeAtHome x.1 x.2)) w
      | pl => uncachedWrite h w pl bytes

/-- Operation and alignment of an atomic are legal (12 R375). -/
def atomicOk (a aop width : Nat) : Bool := decide (aop ≤ 9) && (width == 4 || width == 8) && a % width == 0

def execAtomicAtHome (addr aop width : Nat) (operand compare : Word) (s : State) : Out :=
  onWork s fun h w =>
    if !homesWork h then w
    else if !atomicOk 0 aop width then refuseCore w 0x0408
    else
      match placeOf h addr with
      | .lpddr p =>
        if !atomicOk p aop width then refuseCore w 0x0408
        else if !inLpddr h p width then refuseCore w 0x0401
        else if spanFree h w p width true then atomicNow h w p aop width operand compare
        else atHome h w p true (.atomicAtHome p aop width operand compare)
      | pl => uncachedAtomic h w pl aop width operand compare

/-! ### The release of held requests (R327) -/

/-- The tracker that a held request takes is free. -/
def heldTracker (w : Work) (ln : Nat) : HeldReq → Bool
  | .command (.readUnique g _ _) => trackerFree (w.coh.home (lineHome ln)) (requestKey g ln)
  | .command (.upgrade g _ _) => trackerFree (w.coh.home (lineHome ln)) (requestKey g ln)
  | .command (.useClose _) => true
  | .command _ => trackerFree (w.coh.home (lineHome ln)) (requestKey noCache ln)
  | _ => true

/-- A held request goes on; a step that was held is taken again by its agent. -/
def runHeld (h : Hub) (w : Work) (ln : Nat) : HeldReq → Work
  | .command (.readUnique g a op) => askOwnership h w .readUnique g a op
  | .command (.upgrade g a op) => askOwnership h w .upgrade g a op
  | .command (.useClose entry) => closeUse h w entry
  | .command i => enterUncached h w ln (ln * 128) i
  | .write a bs => homeStore h w a bs
  | .own g a bs => ownLine h w g ln a bs
  | .step _ _ => w

/-- Let the held requests of a home go on in their order; one behind a request of its own line that stays, stays too. -/
def releaseList (h : Hub) : Work → List Nat → List HeldReq → Work × List HeldReq
  | w, _, [] => (w, [])
  | w, stuck, r :: rs =>
    let ln := heldLine h w r
    if !isProtected w ln && heldTracker w ln r && !stuck.contains ln then releaseList h (runHeld h w ln r) stuck rs
    else
      let (w1, rest) := releaseList h w (ln :: stuck) rs
      (w1, r :: rest)

/-- The requests that the home holds go on where they may; those held anew meanwhile stand behind the ones that stay. -/
def releaseHome (h : Hub) (w : Work) (n : Nat) : Work :=
  let (w1, rest) := releaseList h (w.setHome n (fun hm => { hm with held := [] })) [] (w.coh.home n).held
  w1.setHome n (fun hm => { hm with held := rest ++ hm.held })

def releaseAll (h : Hub) (w : Work) : Work := (List.range 24).foldl (releaseHome h) w

/-! ### The snoop lap (R338, R340, R341, R347) -/

/-- A bad dirty line that a snoop must supply goes to its home instead (R332). -/
def badSnoop (w : Work) (t : Txn) (agent : Nat) (d : List Byte) : Work :=
  ((badToHome { w with coh := dropLine w.coh agent t.line } t.line d).setTxn t (fun x => { x with badSupply := true }))

/-- A cache supplies the line to the requester of its transaction. -/
def supplyLine (w : Work) (t : Txn) (d : List Byte) : Work := w.setTxn t (fun x => { x with supplied := some d })

/-- What a READ_SHARED leaves of a copy (R338, R347). -/
def sharedState (dirMode : Bool) : LineState → LineState
  | .m => if dirMode then .s else .o
  | .e => .s
  | x => x

/-- A snoop hits a held line. -/
def snoopLine (h : Hub) (w : Work) (t : Txn) (l : CacheLine) : Work :=
  if dirty l && l.bad then badSnoop w t l.agent l.data
  else
    let w1 := match t.kind with
      | .readShared =>
        { w with
          mem := if h.ident.cfg.coherenceMode && l.st == .m then memWrite w.mem (t.line * 128) l.data else w.mem
          coh := setLine w.coh l.agent t.line (sharedState h.ident.cfg.coherenceMode l.st) }
      | _ => { w with coh := dropLine w.coh l.agent t.line }
    if l.st == .s then w1 else supplyLine w1 t l.data

/-- A snoop hits the victim buffer: the buffer supplies as an M holder, its answer carries the crossed mark and the tag,
and the home records the tag (R341). READ_SHARED takes the data to memory too, for the late write-back is discarded
(DEDUCED, log 22). -/
def snoopVictim (w : Work) (t : Txn) (v : Victim) : Work :=
  let crossed : Coherence :=
    { w.coh with
      victims := w.coh.victims.map (fun x => if x.tag == v.tag && !x.done then { x with crossed := true } else x)
      crossedTags := w.coh.crossedTags ++ [v.tag] }
  if v.bad then
    (badToHome { w with coh := crossed } t.line v.data).setTxn t (fun x => { x with badSupply := true })
  else
    match t.kind with
    | .readShared => supplyLine { w with coh := crossed, mem := memWrite w.mem (t.line * 128) v.data } t v.data
    | _ => supplyLine { w with coh := crossed } t v.data

/-- One agent answers the snoop of a line's transaction, from the state its line has now (R342). -/
def answerSnoop (h : Hub) (w : Work) (agent ln : Nat) : Work :=
  match activeTxn w.coh ln with
  | none => w
  | some t =>
    if t.agent = agent ∨ t.answered.contains agent then w
    else
      let w1 := w.setTxn t (fun x => { x with answered := x.answered ++ [agent] })
      match w1.coh.lines.find? (fun l => l.agent == agent && l.line == ln) with
      | some l => snoopLine h w1 t l
      | none =>
        match w1.coh.victims.find? (fun v => v.agent == agent && v.line == ln && !v.crossed && !v.done) with
        | some v => snoopVictim w1 t v
        | none => w1

def execSnoop (agent addr : Nat) (s : State) : Out := onWork s fun h w => answerSnoop h w agent (lineOf addr)

/-- Every agent that could change its state has answered; the others hold nothing of the line. -/
def lapDone (c : Coherence) (t : Txn) : Bool :=
  c.lines.all (fun l => l.line != t.line || l.agent == t.agent || t.answered.contains l.agent) &&
    c.victims.all (fun v => v.line != t.line || v.crossed || v.done || v.agent == t.agent || t.answered.contains v.agent)

/-- The completion with its final state reaches the requester, which installs the line (R338, R340, R343). -/
def installLine (h : Hub) (w : Work) (t : Txn) : Work :=
  match t.kind with
  | .readShared => installShared h w t
  | _ => installOwned h w t

/-- The requester of an UPGRADE still has its copy: nothing is read at the home (R343). -/
def keepsCopy (w : Work) (t : Txn) : Bool := t.kind == .upgrade && holdsLine w t.agent t.line

/-- The line comes from memory, so that the controller checks its link ECC (R330). -/
def fillsFromMemory (w : Work) (t : Txn) : Bool := !keepsCopy w t && !t.badSupply && (dirtyCopy w.coh t.line).isNone

/-- The fault of the requester: a bad supply, a quarantined line or an overflowed home, or a read error after two retries. -/
def grantFault (w : Work) (t : Txn) (retries : Nat) : Option Code :=
  if t.badSupply then some 0x0402
  else if keepsCopy w t then none
  else
    match lineFault w t.line with
    | some c => some c
    | none => if fillsFromMemory w t && decide (2 < retries) then some 0x0403 else none

/-- A line supplied to a requester that faults goes to its home. -/
def returnSupply (w : Work) (t : Txn) : Work :=
  match t.supplied with
  | some d => if (w.coh.lines.any (fun l => l.line == t.line && dirty l)) then w else dataToHome w t.line d false
  | none => w

/-- The requester faults, with the address it gave; the entry of the line follows its copies (R331, R346). -/
def failLap (h : Hub) (w : Work) (t : Txn) (c : Code) : Work :=
  emitMemError h (dirNote h (grantLine (freeTracker (returnSupply w t) t) none c) t.line) c (agentUnit t.agent) t.addr

/-- The lap's end: the grant or the fault, and then the line's next transactions and the requests that the home holds. -/
def execSnoopLapComplete (x : LapEnd) (s : State) : Out :=
  onWork s fun h w0 =>
    let ln := lineOf x.addr
    match activeTxn w0.coh ln with
    | none => w0
    | some t =>
      if !homeUp h ln || !lapDone w0.coh t then w0
      else
        let w := countRetries w0 (fillsFromMemory w0 t) x.eccRetries
        let w1 := match grantFault w t x.eccRetries with
          | some c => failLap h w t c
          | none => freeTracker (installLine h w t) t
        releaseHome h (advanceLine h w1 ln) (lineHome ln)

/-! ### Evictions (R341, R346) -/

/-- The eviction of an M or O line: it moves to the victim buffer, and its write-back takes a tag. -/
def evictDirty (w : Work) (l : CacheLine) : Work :=
  let k := w.coh.wbCount.getD l.agent 0
  { w with
    coh :=
      { (dropLine w.coh l.agent l.line) with
        victims := w.coh.victims ++ [⟨l.agent, l.line, l.agent * 4096 + k, l.data, l.bad, false, false⟩]
        wbCount := w.coh.wbCount.set l.agent ((k + 1) % 4096) } }

/-- The write-back reaches its home: written, or discarded when it crossed a snoop. -/
def orderWriteBack (h : Hub) (w : Work) (v : Victim) : Work :=
  let w1 :=
    if w.coh.crossedTags.contains v.tag then
      { w with coh := { w.coh with crossedTags := w.coh.crossedTags.filter (fun t => t != v.tag) } }
    else dataToHome w v.line v.data v.bad
  let w2 :=
    { w1 with
      coh := { w1.coh with victims := w1.coh.victims.map (fun x => if x.tag == v.tag && !x.done then { x with done := true } else x) } }
  dirNote h w2 v.line

/-- WRITE_BACK: the cache evicts the line; given again, the write-back reaches its home, where a tracker is free (R335). -/
def execWriteBack (agent addr : Nat) (s : State) : Out :=
  onWork s fun h w =>
    let ln := lineOf addr
    if !homeUp h ln then w
    else
      match w.coh.victims.find? (fun v => v.agent == agent && v.line == ln && !v.done) with
      | some v =>
        let key := requestKey agent ln
        if lineBusy w.coh ln && !v.crossed then w
        else if trackerFree (w.coh.home (lineHome ln)) key then
          orderWriteBack h (w.setHome (lineHome ln) (fun hm => noteReserved hm key)) v
        else w.setHome (lineHome ln) (fun hm => noteReserved hm key)
      | none =>
        match w.coh.lines.find? (fun l => l.agent == agent && l.line == ln) with
        | some l => if dirty l then evictDirty w l else w
        | none => w

/-- The acknowledgement reaches the cache: the victim buffer entry is freed. -/
def execWriteBackAck (agent tag : Nat) (s : State) : Out :=
  onWork s fun _ w =>
    { w with coh := { w.coh with victims := w.coh.victims.filter (fun v => !(v.agent == agent && v.tag == tag && v.done)) } }

/-- An E or S line is dropped; in directory mode EVICT_CLEAN clears the cache's bit (R346). -/
def execEvictClean (agent addr : Nat) (s : State) : Out :=
  onWork s fun h w =>
    let ln := lineOf addr
    match stateOf w.coh agent ln with
    | some .e => dirNote h { w with coh := dropLine w.coh agent ln } ln
    | some .s => dirNote h { w with coh := dropLine w.coh agent ln } ln
    | _ => w

end Sys2Proof.Machine
end

