-- ==== Sys2Proof/Machine/UpdateProg.lean ====
section
/-!
DEFINITION. Update programs (09 R246 to R258): group entries and stream slots, the pre-check of programs and curves, the
operations on one element, and loads and stores of the slots.
-/

namespace Sys2Proof.Machine

/-! ### Group entries and slots (R246, R247) -/

def uslotOf (b : List Byte) (s : Nat) : USlot :=
  let o := 0x60 + 24 * s
  ⟨fld b o 8, fld b (o + 8) 8, fld b (o + 0x10) 1, fld b (o + 0x11) 1, fld b (o + 0x12) 2, fld b (o + 0x14) 4⟩

def ugroupOf (ix : Nat) (b : List Byte) : UGroup :=
  { ix := ix
    flags := fld b 0x00 4
    layer := fld b 0x04 2
    elems := fld b 0x08 8
    steps := [fld b 0x10 8, fld b 0x18 8]
    skips := fld b 0x20 8
    prog := fld b 0x28 8
    curves := (List.range 4).map (fun i => fld b (0x30 + 4 * i) 4)
    hyper := (List.range 8).map (fun i => fld b (0x40 + 4 * i) 4)
    slots := (List.range 6).map (uslotOf b)
    bankOffset := fld b 0xF0 8
    reserved := fld b 0x06 2 + fld b 0xF8 8 + bitsOf (fld b 0x00 4) 4 28 }

def UGroup.valid (g : UGroup) : Bool := bitOf g.flags 0
def UGroup.frozen (g : UGroup) : Bool := bitOf g.flags 1

def unusedSlot : USlot := ⟨0, 0, 0x1F, 0, 0, 0⟩

def UGroup.slot (g : UGroup) (s : Nat) : USlot := g.slots.getD s unusedSlot

def USlot.used (s : USlot) : Bool := s.fmt != 0x1F
def USlot.stores (s : USlot) : Bool := bitOf s.flags 0
def USlot.banked (s : USlot) : Bool := bitOf s.flags 1

/-- The slot's format; checked before use. -/
def USlot.format (s : USlot) : Fmt := (fmtOfCode s.fmt).getD .fp32

def bankShift (g : UGroup) (s : USlot) (bank : Nat) : Nat := if s.banked then bank * g.bankOffset else 0

/-- Address of element 0 in a bank (R269). -/
def slotData (g : UGroup) (s : USlot) (bank : Nat) : Nat := s.addr + bankShift g s bank

/-- Address of the first block scale in a bank (R247, R269). -/
def slotScales (g : UGroup) (s : USlot) (bank : Nat) : Nat := s.bsAddr + bankShift g s bank

/-- The update step t of a group (R256). -/
def stepOf (g : UGroup) (bank : Nat) : Nat := (g.steps.getD bank 0 + 1) % 2 ^ 64

/-! ### The pre-check of slots, programs and curves (R247, R249, R251, R252, R255, R266, R271) -/

/-- Slot and scale table of one bank lie in LPDDR5X. -/
def slotPlaced (h : Hub) (g : UGroup) (s : USlot) (bank : Nat) : Bool :=
  inLpddr h (slotData g s bank) (packedBytes s.format g.elems) &&
    (s.bsAddr == 0 || inLpddr h (slotScales g s bank) ((g.elems + 31) / 32))

/-- The rules of a slot's conversion. -/
def slotConvBad (s : USlot) : Option Code :=
  if !s.stores then none
  else
    match convCtrlOf s.conv true with
    | none => some 0x0202
    | some c => if c.dst != s.format || c.blockOut != (s.bsAddr != 0) then some 0x0203 else none

/-- The check of slot number `n`; `mode` is WRITE_MODE. -/
def slotBad (h : Hub) (t : Tables) (mode : Nat) (g : UGroup) (n : Nat) (s : USlot) : Option Code :=
  if bitsOf s.flags 2 6 ≠ 0 then some 0x0203
  else if !s.used then (if n = 0 then some 0x0203 else none)
  else if 0x0C < s.fmt then some 0x0202
  else if mode = 1 ∧ s.stores ∧ !s.banked then some 0x0203
  else if s.entry ≠ 0 ∧ 2 ^ t.ttLog2 ≤ s.entry then some 0x0302
  else if s.bsAddr ≠ 0 ∧ !blockFmt s.format then some 0x0203
  else
    match slotConvBad s with
    | some c => some c
    | none =>
      if s.addr % (if n = 0 then 512 else 64) ≠ 0 then some 0x0203
      else if !slotPlaced h g s 0 || (s.banked && !slotPlaced h g s 1) then some 0x0203
      else none

/-- Which fields an opcode uses: DST, SRC_A, SRC_B, SRC_C, and the first MOD value past its own bits (R252, R254). -/
def opFields : Nat → Option (Bool × Bool × Bool × Bool × Nat)
  | 0x01 => some (true, true, true, false, 1)
  | 0x02 => some (true, true, true, false, 1)
  | 0x03 => some (true, true, true, false, 1)
  | 0x04 => some (true, true, true, true, 1)
  | 0x05 => some (true, true, true, false, 1)
  | 0x06 => some (true, true, false, false, 1)
  | 0x07 => some (true, true, false, false, 1)
  | 0x08 => some (true, true, true, false, 1)
  | 0x09 => some (true, true, true, false, 1)
  | 0x0A => some (true, true, false, false, 1)
  | 0x0B => some (true, true, false, false, 1)
  | 0x0C => some (true, true, true, true, 1)
  | 0x0D => some (true, true, true, false, 3)
  | 0x0E => some (true, true, true, true, 1)
  | 0x0F => some (true, true, false, false, 128)
  | 0x10 => some (true, false, false, false, 6)
  | 0x11 => some (false, true, false, false, 6)
  | 0x12 => some (true, false, false, false, 4)
  | _ => none

def uOp (word : Nat) : Nat := bitsOf word 0 6
def uDst (word : Nat) : Nat := bitsOf word 6 4
def uA (word : Nat) : Nat := bitsOf word 10 5
def uB (word : Nat) : Nat := bitsOf word 15 5
def uC (word : Nat) : Nat := bitsOf word 20 5
def uMod (word : Nat) : Nat := bitsOf word 25 7

/-- A field is used and a legal selector, or unused and 0. -/
def selOk (used : Bool) (sel : Nat) : Bool := if used then decide (sel ≤ 28) else sel == 0

/-- The check of one instruction; `stored` are the slots stored before it (R255). -/
def insBad (g : UGroup) (stored : List Nat) (word : Nat) : Option Code :=
  match opFields (uOp word) with
  | none => some 0x0201
  | some (d, a, b, c, m) =>
    if (!d && uDst word != 0) || !selOk a (uA word) || !selOk b (uB word) || !selOk c (uC word) || m ≤ uMod word then
      some 0x0201
    else
      let s := g.slot (uMod word)
      match uOp word with
      | 0x0F => if 0x0B < uMod word % 32 ∨ uMod word / 32 = 3 then some 0x0202 else none
      | 0x10 => if s.used then none else some 0x0203
      | 0x11 => if stored.contains (uMod word) then some 0x0201 else if s.used && s.stores then none else some 0x0203
      | 0x12 => if g.curves.getD (uMod word) 0xFFFFFFFF = 0xFFFFFFFF then some 0x0203 else none
      | _ => none

def programBad (g : UGroup) (stored : List Nat) : List Nat → Option Code
  | [] => none
  | x :: xs =>
    match insBad g stored x with
    | some c => some c
    | none => programBad g (if uOp x = 0x11 then uMod x :: stored else stored) xs

/-- The words of a group's program, or the code of the pre-check (R251). -/
def readProgram (h : Hub) (w : Work) (g : UGroup) : Except (Code × Nat) (List Nat) :=
  if g.prog % 16 ≠ 0 ∨ !inLpddr h g.prog 16 then .error (0x0203, 0)
  else
    match moduleRead h w g.prog 16 with
    | .error x => .error x
    | .ok b =>
      let n := fld b 6 2
      if fld b 0 4 ≠ 0x5532 ∨ fld b 4 2 ≠ 1 ∨ fld b 8 8 ≠ 0 ∨ n < 1 ∨ 32 < n then .error (0x0201, 0)
      else if !inLpddr h g.prog (16 + 4 * n) then .error (0x0203, 0)
      else
        match moduleRead h w (g.prog + 16) (4 * n) with
        | .error x => .error x
        | .ok ws =>
          let words := (List.range n).map (fun i => fld ws (4 * i) 4)
          match programBad g [] words with
          | some c => .error (c, 0)
          | none => .ok words

/-- The points of a curve rise strictly and are finite (R249). -/
def pointsOk : List (Nat × Val) → Bool
  | [] => true
  | [x] => !isNan x.2 && !isInf x.2
  | x :: y :: r => !isNan x.2 && !isInf x.2 && decide (x.1 < y.1) && pointsOk (y :: r)

/-- A curve's value at step t (R250). -/
def curveAt (kind : Nat) (t : Nat) : List (Nat × Val) → Val
  | [] => posZero
  | [x] => x.2
  | x :: y :: r =>
    if t ≤ x.1 then x.2
    else if t < y.1 then
      (if kind = 1 then x.2
       else
         rneVal .fp32
           (addVal x.2 (mulVal (subVal y.2 x.2) (.fin false (t - x.1) (y.1 - x.1)))))
    else curveAt kind t (y :: r)

/-- Curve `c` of the contour table at step t, or the code of the pre-check. -/
def readCurve (h : Hub) (w : Work) (c t : Nat) : Except (Code × Nat) Val :=
  let a := w.upd.contourBase + c * 512
  if w.upd.contourCount ≤ c ∨ !inLpddr h a 512 then .error (0x0203, 0)
  else
    match moduleRead h w a 16 with
    | .error x => .error x
    | .ok b =>
      let n := fld b 1 1
      if 1 < fld b 0 1 ∨ n < 1 ∨ 62 < n ∨ fld b 2 14 ≠ 0 then .error (0x0203, 0)
      else
        match moduleRead h w (a + 16) (8 * n) with
        | .error x => .error x
        | .ok ps =>
          let pts := (List.range n).map (fun j => (fld ps (8 * j) 4, fp32Val (fld ps (8 * j + 4) 4)))
          if pointsOk pts then .ok (curveAt (fld b 0 1) t pts) else .error (0x0203, 0)

/-- The curves that the program looks up, by number 0 to 3; the others read +0 and are never used. -/
def readCurves (h : Hub) (w : Work) (g : UGroup) (t : Nat) (prog : List Nat) : Except (Code × Nat) (List Val) :=
  (List.range 4).mapM (fun i =>
    if prog.any (fun x => uOp x == 0x12 && uMod x == i) then readCurve h w (g.curves.getD i 0) t else .ok posZero)

/-! ### Operands and operations (R253, R254, R256) -/

/-- What every element of a group sees. -/
structure UEnv where
  hyper : List Val
  c1 : Val
  c2 : Val
  t : Val
  curves : List Val
  randBits : Nat
  deriving DecidableEq, Repr

/-- v^t for a whole t. -/
def powVal (v : Val) (t : Nat) : Val :=
  match v with
  | .nan => .nan
  | .inf s => .inf (s && t % 2 == 1)
  | .fin s n d => .fin (s && t % 2 == 1) (n ^ t) (d ^ t)

/-- 1 / (1 − x), rounded once. -/
def biasOf (x : Val) : Val := rneVal .fp32 (divVal oneVal (subVal oneVal x))

/-- m × 2^k with m cut to 128 bits, toward 0 or away from it. -/
def cutScaled (up : Bool) (x : Nat × Int) : Nat × Int :=
  let e := Nat.log2 x.1 - 127
  ((if up then (x.1 + 2 ^ e - 1) / 2 ^ e else x.1 / 2 ^ e), x.2 + e)

/-- A bound of (m × 2^k)^t, from below or from above. -/
def powBound (up : Bool) (m : Nat) (k : Int) : Nat → Nat → Nat × Int
  | 0, _ => (1, 0)
  | f + 1, t =>
    if t = 0 then (1, 0)
    else
      let r := powBound up m k f (t / 2)
      let q := cutScaled up (r.1 * r.1, 2 * r.2)
      if t % 2 = 1 then cutScaled up (q.1 * m, q.2 + k) else q

/-- Exponent of the leading bit. -/
def sizeOf2 (x : Nat × Int) : Int := x.2 + Nat.log2 x.1

/-- 1 / (1 − β^t), rounded once (R256). It grows with β^t on each side of β^t = 1, so where two bounds of a long power
round to one value that is the value; above 2^300 the result rounds to a zero, below 2^-300 to 1. -/
def biasVal (b : Val) (t : Nat) : Val :=
  match b with
  | .fin s n d =>
    if t < 4096 then biasOf (powVal b t)
    else if n = 0 then biasOf (.fin false 0 1)
    else if n = d then biasOf (.fin (s && t % 2 == 1) 1 1)
    else
      let neg := s && t % 2 == 1
      let k : Int := -(Nat.log2 d : Int)
      let lo := powBound false n k 65 t
      let hi := powBound true n k 65 t
      if 300 < sizeOf2 lo then fp32Val (if neg then 0 else 0x80000000)
      else if sizeOf2 hi < -300 then fp32Val 0x3F800000
      else
        let r := biasOf (finScaled neg lo.1 lo.2)
        if r = biasOf (finScaled neg hi.1 hi.2) then r else biasOf (powVal b t)
  | _ => biasOf (powVal b t)

def envOf (g : UGroup) (t : Nat) (curves : List Val) : UEnv :=
  let hv := g.hyper.map fp32Val
  ⟨hv, biasVal (hv.getD 0 posZero) t, biasVal (hv.getD 1 posZero) t, rneVal .fp32 (.fin false t 1), curves,
    (randBitsOf (bitsOf g.flags 2 2)).getD 12⟩

/-- An operand selector (R253). -/
def uOperand (env : UEnv) (v : List Val) (sel : Nat) : Val :=
  if sel < 16 then v.getD sel posZero
  else if sel < 24 then env.hyper.getD (sel - 16) posZero
  else if sel = 24 then env.c1
  else if sel = 25 then env.c2
  else if sel = 26 then env.t
  else if sel = 28 then oneVal
  else posZero

def signVal (a : Val) : Val := if isNan a || isZero a then a else if isNeg a then .fin true 1 1 else oneVal

def condHolds (m : Nat) (a b : Val) : Bool := if m = 0 then eqVal a b else if m = 1 then ltVal a b else leVal a b

/-- The opcodes without side effect, on FP32 values (R254). -/
def uArith (op m : Nat) (a b c : Val) : Val :=
  match op with
  | 0x01 => rneVal .fp32 (addVal a b)
  | 0x02 => rneVal .fp32 (subVal a b)
  | 0x03 => rneVal .fp32 (mulVal a b)
  | 0x04 => rneVal .fp32 (addVal (mulVal a b) c)
  | 0x05 => rneVal .fp32 (divVal a b)
  | 0x06 => fp32Val (sqrtFp32 a)
  | 0x07 => fp32Val (rsqrtFp32 a)
  | 0x08 => maxVal a b
  | 0x09 => minVal a b
  | 0x0A => absVal a
  | 0x0B => signVal a
  | 0x0C => if eqVal a posZero then c else b
  | 0x0D => if condHolds m a b then oneVal else posZero
  | _ => minVal (maxVal a b) c

/-! ### Draws (R257) -/

/-- One draw of unit `u` on lane `p`. -/
def unitDraw (seed : Word) (u p bits : Nat) (ctr : List (Nat × Word)) : Nat × List (Nat × Word) :=
  let c := alGet 0#64 ctr (32 * u + p)
  (drawBits seed (streamNumber 1 u p) c bits, alSet ctr (32 * u + p) (c + 1))

/-- The rounding of one element at position `p`; SR takes one draw unless the destination is binary. -/
def unitMode (seed : Word) (u p bits : Nat) (f : Fmt) (r : RoundSel) (ctr : List (Nat × Word)) :
    RMode × List (Nat × Word) :=
  if r == .sr && f != .binary then
    let (x, ctr1) := unitDraw seed u p bits ctr
    (.sr bits x, ctr1)
  else (modeOf (if r == .sr then .rne else r) bits 0, ctr)

/-! ### One element (R252) -/

structure UElem where
  regs : List Val
  ctr : List (Nat × Word)
  outs : List (Nat × Val)
  /-- values that later loads of slots stored in place give (R254) -/
  back : List (Nat × Val)
  deriving DecidableEq, Repr

/-- The element's values of the slots (R248), and what a later load of a slot gives after a store at a position: none where
that store goes to another place, or to a block that is written when all its elements are taken in. -/
structure ULoads where
  value : Nat → Val
  back : Nat → Nat → Val → Option Val

/-- Instruction `word` at position `p`. -/
def uStep (seed : Word) (u : Nat) (env : UEnv) (loads : ULoads) (x : UElem) (p word : Nat) : UElem :=
  let a := uOperand env x.regs (uA word)
  let b := uOperand env x.regs (uB word)
  let c := uOperand env x.regs (uC word)
  let put (v : Val) : UElem := { x with regs := x.regs.set (uDst word) v }
  match uOp word with
  | 0x0F =>
    let f := (fmtOfCode (uMod word % 32)).getD .fp32
    let (m, ctr1) := unitMode seed u p env.randBits f ((roundSelOf (uMod word / 32)).getD .rne) x.ctr
    { put (decodeVal f (convertTo f m false a).code) with ctr := ctr1 }
  | 0x10 => put (alGet (loads.value (uMod word)) x.back (uMod word))
  | 0x11 =>
    { x with
      outs := x.outs ++ [(uMod word, a)]
      back := match loads.back (uMod word) p a with
        | some v => (uMod word, v) :: x.back
        | none => x.back }
  | 0x12 => put (env.curves.getD (uMod word) posZero)
  | op => put (uArith op (uMod word) a b c)

def uRun (seed : Word) (u : Nat) (env : UEnv) (loads : ULoads) : UElem → List (Nat × Nat) → UElem
  | x, [] => x
  | x, (word, p) :: r => uRun seed u env loads (uStep seed u env loads x p word) r

/-! ### Slots: loads and stores of a block of 32 elements (R244, R248) -/

/-- Offset of the block `k` in a slot. -/
def blockOff (f : Fmt) (k : Nat) : Nat := 4 * memBits f * k

/-- The values of the `n` elements of block `k`, each rounded once to FP32, and whether each came from a ternary 0b10
(02 R48). -/
def loadBlock (h : Hub) (w : Work) (g : UGroup) (s : USlot) (bank k n : Nat) : Except (Code × Nat) (List (Val × Bool)) :=
  let f := s.format
  match moduleRead h w (slotData g s bank + blockOff f k) (packedBytes f n) with
  | .error x => .error x
  | .ok bs =>
    if s.bsAddr = 0 then .ok ((codesOf f bs n).map (fun c => (rneVal .fp32 (decodeVal f c), invalidTernary f c)))
    else
      match moduleNat h w (slotScales g s bank + k) 1 with
      | .error x => .error x
      | .ok x => .ok ((codesOf f bs n).map (fun c => (rneVal .fp32 (mulVal (decodeVal f c) (decodeVal .e8m0 x)), false)))

/-- The conversion of a block's values, in element order; `rounds` is false for a block that 02 R62 writes without
rounding. -/
def storeElems (seed : Word) (u p bits : Nat) (cc : ConvCtrl) (scale : Option Nat) (rounds : Bool) :
    List (Val × Bool) → List (Nat × Word) → Counts → List Nat × List (Nat × Word) × Counts
  | [], ctr, c => ([], ctr, c)
  | (v, bad) :: vs, ctr, c =>
    let (m, ctr1) := unitMode seed u p bits cc.dst cc.round ctr
    let r := match scale with
      | none => convertTo cc.dst m cc.e5Ovf v
      | some s => blockElem cc.dst s m cc.e5Ovf v
    let rounded := match scale with
      | none => v
      | some s => if s = 0xFF then .nan else scaleVal v (127 - (s : Int))
    let c1 := countElem c cc.dst v v rounded bad (rounds && roundedVal v && cc.round == .sr && cc.dst != .binary) r
    let (rest, ctr2, c2) := storeElems seed u p bits cc scale rounds vs ctr1 c1
    (r.code :: rest, ctr2, c2)

/-- What a block's store gives: its bytes, scale, the values written, the counters and the counts. -/
structure UStore where
  bytes : List Byte
  scale : Option Nat
  values : List Val
  ctr : List (Nat × Word)
  counts : Counts
  deriving DecidableEq, Repr

/-- The conversion of a slot's stores. -/
def USlot.convCtrl (s : USlot) (bits : Nat) : ConvCtrl := (convCtrlOf s.conv true).getD ⟨s.format, .rne, bits, false, false⟩

/-- The values of a block, each with the mark of an element for which a load read a ternary 0b10. -/
def storeBlock (seed : Word) (u p bits : Nat) (s : USlot) (vs : List (Val × Bool)) (ctr : List (Nat × Word)) : UStore :=
  let cc := s.convCtrl bits
  let scale := if cc.blockOut then some (blockScaleOf cc.dst (vs.map (fun x => x.1))) else none
  let rounds := match scale with
    | none => true
    | some x => x != 0xFF && vs.any (fun y => !isZero y.1)
  let (codes, ctr1, c) := storeElems seed u p bits cc scale rounds vs ctr (emptyCounts cc.dst)
  let mul := match scale with
    | none => oneVal
    | some x => decodeVal .e8m0 x
  ⟨rowBytesOf cc.dst codes, scale, codes.map (fun x => mulVal (decodeVal cc.dst x) mul), ctr1, c⟩

/-- What a later load of a slot of one element gives after its store at position `p`, for the `i`-th element of a block whose
earlier ones have drawn on the lane (R248, R254, R257): the value as stored, where the load reads the place stored to. -/
def storedBack (seed : Word) (u : Nat) (env : UEnv) (g : UGroup) (readBank writeBank i : Nat) (ctr : List (Nat × Word))
    (n p : Nat) (v : Val) : Option Val :=
  let s := g.slot n
  if s.bsAddr ≠ 0 ∨ slotData g s readBank ≠ slotData g s writeBank then none
  else
    let cc := s.convCtrl env.randBits
    let key := 32 * u + p
    let m := (unitMode seed u p env.randBits cc.dst cc.round (alSet ctr key (alGet 0#64 ctr key + BitVec.ofNat 64 i))).1
    some (rneVal .fp32 (decodeVal cc.dst (convertTo cc.dst m cc.e5Ovf v).code))

end Sys2Proof.Machine
end

