-- ==== Sys2Proof/Machine/UpdateCtl.lean ====
section
/-!
DEFINITION. The update controller and its units (09 R243 to R245, R259 to R275): GO and pre-check, the clean vote, the
units' pass over the groups, commit and step record.
-/

namespace Sys2Proof.Machine

def Work.setUpd (w : Work) (f : Update → Update) : Work := { w with upd := f w.upd }

/-! ### The units' pass (R243 to R245, R259, R260, R262, R268, R270, R275) -/

/-- What the units have done so far. `slices` holds, per survey slice, its layer and the sums W_SQ, G_SQ and U_SQ. -/
structure UPass where
  w : Work
  ctr : List (Nat × Word)
  elements : Nat
  nans : Nat
  units : List UnitRegs
  slices : List (Nat × Nat × Nat × Nat)
  /-- terms of the present slice: weight, gradient and update values -/
  terms : List (Val × Val × Val)
  fault : Option (Code × Nat)
  deriving DecidableEq, Repr

/-- How a pass stops: it runs to its end, or past every block it cannot read, or a free choice leaves out blocks that the
units did not come to (R270). -/
inductive UCut where
  | whole
  | past
  | short (ix : Nat)
  deriving DecidableEq, Repr

/-- The parameters of a pass: banks read and written, whether a survey is taken, how it stops, and the physical address of a
byte with a parity error, whose readers fault (11 R331). -/
structure UCtx where
  readBank : Nat
  writeBank : Nat
  survey : Bool
  cut : UCut
  bad : Option Nat
  deriving DecidableEq, Repr

/-- The unit that owns block `k` of 32 elements (R244). -/
def unitOfBlock (h : Hub) (w : Work) (g : UGroup) (bank k : Nat) : Nat :=
  let s := g.slot 0
  match moduleAddr h w false (slotData g s bank + blockOff s.format k) with
  | .ok p => homeOf p
  | .error _ => 0

/-- The slots that a pass reads for one group. -/
def slotsRead (x : UCtx) (g : UGroup) (prog : List Nat) : List Nat :=
  (List.range 6).filter (fun s =>
    (!g.frozen && prog.any (fun i => uOp i == 0x10 && uMod i == s)) ||
      (x.survey && g.layer != 0xFFFF && (s == 0 || (s == 1 && (g.slot 1).used))))

/-- A read of `n` bytes at `a` meets the byte with the parity error. -/
def readsBad (h : Hub) (w : Work) (x : UCtx) (a n : Nat) : Bool :=
  match x.bad with
  | none => false
  | some p =>
    (List.range' a n).any (fun b =>
      match moduleAddr h w false b with
      | .ok q => q == p
      | .error _ => false)

/-- What the slots read give for the elements of one block: value, and whether it came from a ternary 0b10. -/
abbrev BlockLoads := List (Nat × List (Val × Bool))

def loadSlots (h : Hub) (w : Work) (x : UCtx) (g : UGroup) (k n : Nat) (slots : List Nat) : Except (Code × Nat) BlockLoads :=
  slots.mapM (fun s =>
    let sl := g.slot s
    let a := slotData g sl x.readBank + blockOff sl.format k
    if readsBad h w x a (packedBytes sl.format n) || (sl.bsAddr != 0 && readsBad h w x (slotScales g sl x.readBank + k) 1) then
      .error (0x0402, a)
    else
      match loadBlock h w g sl x.readBank k n with
      | .ok v => (Except.ok (s, v) : Except (Code × Nat) (Nat × List (Val × Bool)))
      | .error e => .error e)

def loadedVal (loads : BlockLoads) (s i : Nat) : Val := ((alGet [] loads s).getD i (posZero, false)).1

/-- The program of an element reads a ternary 0b10 (02 R48). -/
def loadedBad (prog : List Nat) (loads : BlockLoads) (i : Nat) : Bool :=
  prog.any (fun x => uOp x == 0x10 && ((alGet [] loads (uMod x)).getD i (posZero, false)).2)

/-- The elements of a block, in ascending order: the values stored, by slot, and the counters. `ctr0` are the counters as the
block begins. -/
def runBlock (seed : Word) (u : Nat) (env : UEnv) (x : UCtx) (g : UGroup) (prog : List Nat) (loads : BlockLoads)
    (ctr0 : List (Nat × Word)) : List Nat → List (Nat × Word) → List (List (Nat × Val)) × List (Nat × Word)
  | [], ctr => ([], ctr)
  | i :: is, ctr =>
    let ls : ULoads := ⟨fun s => loadedVal loads s i, storedBack seed u env g x.readBank x.writeBank i ctr0⟩
    let el := uRun seed u env ls ⟨List.replicate 16 posZero, ctr, [], []⟩ prog.zipIdx
    let (rest, ctr1) := runBlock seed u env x g prog loads ctr0 is el.ctr
    (el.outs :: rest, ctr1)

/-- The stores of one block, in program order. -/
structure BlockOut where
  w : Work
  ctr : List (Nat × Word)
  /-- values written to S0, when it is stored -/
  new0 : Option (List Val)
  /-- per element: a store wrote NaN, or the substitute for one -/
  nan : List Bool
  fault : Option (Code × Nat)
  deriving DecidableEq, Repr

/-- Write a store's bytes and scale, and merge its counts (R248). -/
def putStore (h : Hub) (w : Work) (g : UGroup) (s : USlot) (bank k : Nat) (st : UStore) : Except (Code × Nat) Work :=
  match moduleStore h w (slotData g s bank + blockOff s.format k) st.bytes with
  | .error e => .error e
  | .ok w1 =>
    match (match st.scale with
           | none => (Except.ok w1 : Except (Code × Nat) Work)
           | some x => moduleStore h w1 (slotScales g s bank + k) (leBytes 1 x)) with
    | .error e => .error e
    | .ok w2 => mergeLegend h w2 w2.tables.ttBase s.entry st.counts

def orBools : List Bool → List Bool → List Bool
  | a :: as, b :: bs => (a || b) :: orBools as bs
  | _, _ => []

/-- The SSTORE at position `p`. -/
def blockStore (h : Hub) (seed : Word) (u : Nat) (g : UGroup) (env : UEnv) (bank k : Nat)
    (outs : List (List (Nat × Val) × Bool)) (b : BlockOut) (ip : Nat × Nat) : BlockOut :=
  if uOp ip.1 ≠ 0x11 ∨ b.fault.isSome then b
  else
    let s := g.slot (uMod ip.1)
    let vs := outs.map (fun o => (alGet posZero o.1 (uMod ip.1), o.2))
    let st := storeBlock seed u ip.2 env.randBits s vs b.ctr
    match putStore h b.w g s bank k st with
    | .error x => { b with fault := some x }
    | .ok w1 =>
      { b with
        w := w1
        ctr := st.ctr
        new0 := if uMod ip.1 = 0 then some st.values else b.new0
        nan := orBools b.nan ((vs.zip st.values).map (fun x => isNan x.1.1 || isNan x.2)) }

/-- Count a block in the registers of its unit (R275). -/
def countUnit (g : UGroup) (k n : Nat) (nan : List Bool) (r : UnitRegs) : UnitRegs :=
  let bad := nan.countP id
  let r1 := { r with elems := r.elems + n }
  if bad = 0 then r1
  else
    { r1 with
      nanCount := min (r.nanCount + bad) max32
      nanValid := true
      nanGroup := if r.nanValid then r.nanGroup else g.ix
      nanElem := if r.nanValid then r.nanElem else 32 * k + nan.idxOf true }

/-- Survey terms of a block's elements (R259, R262). -/
def blockTerms (g : UGroup) (loads : BlockLoads) (new0 : Option (List Val)) (i : Nat) : Val × Val × Val :=
  let old := loadedVal loads 0 i
  (old, loadedVal loads 1 i,
    match (if g.frozen then none else new0) with
    | none => posZero
    | some v => subVal (v.getD i posZero) old)

def squareSum (vs : List Val) : Nat := datumSum (vs.map (fun v => mulVal v v))

/-- The end of a survey slice (R260). -/
def closeSlice (layer : Nat) (p : UPass) : UPass :=
  if p.terms.isEmpty then p
  else
    { p with
      slices :=
        p.slices ++
          [(layer, squareSum (p.terms.map (fun t => t.1)), squareSum (p.terms.map (fun t => t.2.1)),
            squareSum (p.terms.map (fun t => t.2.2)))]
      terms := [] }

/-- A pass that is cut short leaves blocks out. -/
def leftOut (x : UCtx) (g : UGroup) (u k : Nat) : Bool :=
  match x.cut with
  | .short ix => Config.freeKeepsOld ix ((g.ix * 2 ^ 36 + k) * 24 + u)
  | _ => false

/-- A pass that runs to its end stops at its first fault. -/
def passStops (x : UCtx) (p : UPass) : Bool := x.cut == .whole && p.fault.isSome

/-- Block `k` of a group. -/
def passBlock (h : Hub) (x : UCtx) (g : UGroup) (env : UEnv) (prog : List Nat) (p : UPass) (k : Nat) : UPass :=
  let n := min 32 (g.elems - 32 * k)
  let u := unitOfBlock h p.w g x.readBank k
  if leftOut x g u k || passStops x p then p
  else
    match loadSlots h p.w x g k n (slotsRead x g prog) with
    | .error x => { p with fault := some x }
    | .ok loads =>
      let seed := p.w.upd.seed
      let (outs, ctr1) :=
        if g.frozen then ([], p.ctr) else runBlock seed u env x g prog loads p.ctr (List.range n) p.ctr
      let marked := outs.zipIdx.map (fun o => (o.1, loadedBad prog loads o.2))
      let b0 : BlockOut := ⟨p.w, ctr1, none, List.replicate n false, none⟩
      let b := if g.frozen then b0 else prog.zipIdx.foldl (blockStore h seed u g env x.writeBank k marked) b0
      if b.fault.isSome then { p with w := b.w, fault := b.fault }
      else
        let p1 :=
          { p with
            w := b.w
            ctr := b.ctr
            elements := if g.frozen then p.elements else p.elements + n
            nans := p.nans + b.nan.countP id
            units := if g.frozen then p.units else p.units.modify u (countUnit g k n b.nan)
            terms :=
              if x.survey && g.layer != 0xFFFF then p.terms ++ (List.range n).map (blockTerms g loads b.new0) else [] }
        if k % 2048 = 2047 then closeSlice g.layer p1 else p1

/-- Copy one frozen slot to the bank written, bit for bit (R262). -/
def copySlot (h : Hub) (x : UCtx) (g : UGroup) (p : UPass) (s : USlot) : UPass :=
  if !(s.used && s.stores && s.banked) || passStops x p then p
  else
    let move (p : UPass) (src dst n : Nat) : UPass :=
      if readsBad h p.w x src n then { p with fault := some (0x0402, src) }
      else
        match moduleRead h p.w src n with
        | .error x => { p with fault := some x }
        | .ok bs =>
          match moduleStore h p.w dst bs with
          | .error x => { p with fault := some x }
          | .ok w1 => { p with w := w1 }
    let chunk (p : UPass) (i : Nat) : UPass :=
      move p (slotData g s x.readBank + 64 * i) (slotData g s x.writeBank + 64 * i)
        (min 64 (packedBytes s.format g.elems - 64 * i))
    let p1 := (List.range ((packedBytes s.format g.elems + 63) / 64)).foldl chunk p
    if s.bsAddr = 0 then p1
    else move p1 (slotScales g s x.readBank) (slotScales g s x.writeBank) ((g.elems + 31) / 32)

/-- One group (R245, R262); a group that is not valid is passed over. -/
def passGroup (h : Hub) (x : UCtx) (p : UPass) (gp : UGroup × List Nat × List Val) : UPass :=
  let (g, prog, curves) := gp
  let env := envOf g (stepOf g x.readBank) curves
  let p1 := if g.frozen && x.readBank != x.writeBank then g.slots.foldl (copySlot h x g) p else p
  let p2 := (List.range ((g.elems + 31) / 32)).foldl (passBlock h x g env prog) p1
  closeSlice g.layer p2

/-- The whole range, from cleared unit registers (R275) and working copies of the counters (R270). -/
def runPass (h : Hub) (w : Work) (x : UCtx) (plan : List (UGroup × List Nat × List Val)) : UPass :=
  plan.foldl (passGroup h x) ⟨w, w.upd.counters, 0, 0, List.replicate 24 resetUnit, [], [], none⟩

/-! ### Groups of a step -/

/-- Check a valid group and read what it uses (R262, R266, R271). `surveyed` is the SURVEY field. -/
def checkGroup (h : Hub) (w : Work) (mode : Nat) (surveyed : Bool) (bank : Nat) (g : UGroup) :
    Except (Code × Nat) (UGroup × List Nat × List Val) :=
  if g.reserved ≠ 0 ∨ bitsOf g.flags 2 2 = 3 ∨ 2 ^ 40 < g.elems then .error (0x0203, 0)
  else if g.layer ≠ 0xFFFF ∧ w.upd.surveyCount ≤ g.layer then .error (0x0203, 0)
  else if surveyed ∧ g.layer ≠ 0xFFFF ∧ !inLpddr h (w.upd.surveyBase + 32 * g.layer) 32 then .error (0x0203, 0)
  else
    match g.slots.zipIdx.findSome? (fun s => slotBad h w.tables mode g s.2 s.1) with
    | some c => .error (c, 0)
    | none =>
      if g.frozen then .ok (g, [], [])
      else
        match readProgram h w g with
        | .error x => .error x
        | .ok prog =>
          match readCurves h w g (stepOf g bank) prog with
          | .error x => .error x
          | .ok cs => .ok (g, prog, cs)

/-- The valid groups of a range, in ascending order. -/
def readGroups (h : Hub) (w : Work) (mode : Nat) (surveyed : Bool) (bank : Nat) :
    List Nat → Except (Code × Nat) (List (UGroup × List Nat × List Val))
  | [] => .ok []
  | ix :: r =>
    let a := w.upd.groupBase + 256 * ix
    if !inLpddr h a 256 then .error (0x0203, 0)
    else
      match moduleRead h w a 256 with
      | .error x => .error x
      | .ok b =>
        let g := ugroupOf ix b
        if !g.valid then readGroups h w mode surveyed bank r
        else
          match checkGroup h w mode surveyed bank g with
          | .error x => .error x
          | .ok x =>
            match readGroups h w mode surveyed bank r with
            | .error x => .error x
            | .ok xs => .ok (x :: xs)

def groupRange (d : StepDesc) : List Nat := (List.range d.groupCount).map (fun i => d.groupFirst + i)

def planOf (h : Hub) (w : Work) (d : StepDesc) (bank : Nat) : Except (Code × Nat) (List (UGroup × List Nat × List Val)) :=
  readGroups h w d.writeMode (d.survey == 1) bank (groupRange d)

def ctxOf (r : UpdRun) (cut : UCut) (bad : Option Nat) : UCtx :=
  ⟨r.bank, if r.desc.writeMode = 1 then 1 - r.bank else r.bank, r.desc.survey == 1, cut, bad⟩

/-! ### The record and the end of a step (R266 step 7, R268, R269) -/

/-- A write of the controller to a table or record; what it cannot write is lost. -/
def updPut (h : Hub) (w : Work) (a : Nat) (bs : List Byte) : Work :=
  match moduleStore h w a bs with
  | .ok w1 => w1
  | .error _ => w

def recordSlot (d : StepDesc) : Nat := d.recAddr + 64 * (d.step.toNat % 2)

def recordFields (r : UpdRun) (outcome : Nat) (status : Code) (elements nans frozen : Nat) : List Byte :=
  let bank := if outcome = 1 ∧ r.desc.writeMode = 1 then 1 - r.bank else r.bank
  leBytes 8 r.desc.step.toNat ++ leBytes 1 outcome ++ leBytes 1 bank ++ leBytes 1 (if r.clean then 1 else 0) ++ [0] ++
    leBytes 2 status.toNat ++ leBytes 2 0 ++ leBytes 8 elements ++ leBytes 8 nans ++ leBytes 4 frozen ++
    leBytes 4 r.firstDirty ++ List.replicate 16 0

/-- A step enters a new PHASE: trace event 3 (17 R522). -/
def enterPhase (h : Hub) (w : Work) (p : Nat) : Work := trace h (w.setUpd (fun u => { u with phase := p })) 3 (unitOf 0 0) p

/-- A clean flag or a vote outcome is sent or received: trace event 5 (17 R522). The spec states no identifier for it: a
free value (log 21). -/
def traceVote (h : Hub) (w : Work) : Work :=
  if bitOf w.logs.traceEnable 4 then trace h w.tick 5 (unitOf 0 0) (Config.freeWord w.freeIx).toNat else w

/-- The step is over: the registers report it and PHASE is idle. -/
def endStep (h : Hub) (w : Work) (step : Word) (outcome : Nat) (status : Code) : Work :=
  enterPhase h
    (w.setUpd (fun u => { u with lastOutcome := outcome, lastStatus := status, lastStep := step, run := none })) 0

/-- Step 7: record, COMMIT last, SIGNAL, idle. -/
def finishStep (h : Hub) (w : Work) (r : UpdRun) (outcome : Nat) (status : Code) (elements nans frozen : Nat) : Work :=
  let a := recordSlot r.desc
  let w1 := updPut h w a (recordFields r outcome status elements nans frozen)
  let w2 := updPut h w1 (a + 0x38) (leBytes 8 1)
  let w3 :=
    if bitOf r.desc.signal 13 then (signalHere h w2 (bitsOf r.desc.signal 0 7) (bitsOf r.desc.signal 7 6) 1).1 else w2
  endStep h w3 r.desc.step outcome status

/-- An agent outside the engines consumed bad data: its memory error record (17 R511); 0x0406 and 0x0407 are none. -/
def noteReadError (h : Hub) (w : Work) (code : Code) (unit : BitVec 16) (addr : Nat) : Work :=
  if 0x0402 ≤ code.toNat ∧ code.toNat ≤ 0x0405 then
    let p := match moduleAddr h w false addr with
      | .ok p => p
      | .error _ => addr
    emitMemError h (badLeaves h w 80 code p) code unit p
  else w

/-- The update unit beside the home of an address. -/
def unitOfAddr (h : Hub) (w : Work) (addr : Nat) : Nat :=
  match moduleAddr h w false addr with
  | .ok p => homeOf p
  | .error _ => 0

/-! ### Step 5 and step 6 (R266, R270) -/

/-- The controller and its units work: they have power and their reference, and neither reset nor stand by. -/
def updReady (h : Hub) : Bool :=
  h.ident.powered && h.ident.powerState != 2 && h.ident.complexReady && !h.safety.refFail

/-- PHASE 3: the units begin, and their registers are cleared (R275). -/
def beginUnits (h : Hub) (w : Work) : Work :=
  enterPhase h (w.setUpd (fun u => { u with units := List.replicate 24 resetUnit })) 3

/-- Step 6 for one group: the step counter, and FROZEN_SKIPS (R262, R263). -/
def commitGroup (h : Hub) (x : UCtx) (w : Work) (g : UGroup) : Work :=
  let a := w.upd.groupBase + 256 * g.ix
  if g.frozen then
    let w1 := updPut h w (a + 0x20) (leBytes 8 (g.skips + 1))
    if x.readBank = x.writeBank then w1
    else updPut h w1 (a + 0x10 + 8 * x.writeBank) (leBytes 8 (g.steps.getD x.readBank 0))
  else updPut h w (a + 0x10 + 8 * x.writeBank) (leBytes 8 (stepOf g x.readBank))

/-- The survey record of one layer (R260, R261). -/
def surveyRecord (step : Word) (slices : List (Nat × Nat × Nat × Nat)) (layer : Nat) : List Byte :=
  let mine := (slices.filter (fun s => s.1 == layer)).map (fun s => s.2)
  let sum (f : Nat × Nat × Nat → Nat) : List Byte := leBytes 8 (memberTree addA48 (mine.map f))
  sum (fun s => s.1) ++ sum (fun s => s.2.1) ++ sum (fun s => s.2.2) ++ leBytes 8 step.toNat

def layersOf (gs : List UGroup) : List Nat := ((gs.map (fun g => g.layer)).filter (fun l => l != 0xFFFF)).eraseDups

def writeSurvey (h : Hub) (w : Work) (step : Word) (slices : List (Nat × Nat × Nat × Nat)) (layers : List Nat) : Work :=
  layers.foldl (fun w l => updPut h w (w.upd.surveyBase + 32 * l) (surveyRecord step slices l)) w

/-- Steps 6 and 7 of a committed step. -/
def commitStep (h : Hub) (r : UpdRun) (p : UPass) (gs : List UGroup) : Work :=
  let x := ctxOf r .whole none
  let w1 := gs.foldl (commitGroup h x) (enterPhase h p.w 4)
  let w2 := if x.survey then writeSurvey h w1 r.desc.step p.slices (layersOf gs) else w1
  let w3 := w2.setUpd (fun u => { u with counters := p.ctr.filter (fun c => c.2 != 0), units := p.units })
  finishStep h w3 r 1 0 p.elements p.nans (gs.countP UGroup.frozen)

/-- The naturally aligned 64-byte words of a range, by address over 64. -/
def wordsOf (a n : Nat) : List Nat := if n = 0 then [] else (List.range ((a + n - 1) / 64 - a / 64 + 1)).map (fun i => a / 64 + i)

/-- The words that a group's stores or copies reach in the bank written. -/
def groupWords (x : UCtx) (g : UGroup) (prog : List Nat) : List Nat :=
  (List.range 6).flatMap (fun n =>
    let s := g.slot n
    let written :=
      if g.frozen then s.used && s.stores && s.banked && x.readBank != x.writeBank
      else prog.any (fun i => uOp i == 0x11 && uMod i == n)
    if !written then []
    else
      wordsOf (slotData g s x.writeBank) (packedBytes s.format g.elems) ++
        (if s.bsAddr = 0 then [] else wordsOf (slotScales g s x.writeBank) ((g.elems + 31) / 32)))

/-- One word of the mixture that an ended pass leaves: as it was before, or as the units wrote it (R270). -/
def mixWord (h : Hub) (old new : Work) (ix : Nat) (w : Work) (k : Nat) : Work :=
  match moduleRead h (if Config.freeKeepsOld ix k then old else new) (64 * k) 64 with
  | .ok bs => updPut h w (64 * k) bs
  | .error _ => w

/-- The end of a pass that stopped on its way (R270): which blocks the units had processed is free, and each 64-byte word they
write is old or new; no block that read bad data is written. -/
def cutPass (h : Hub) (w : Work) (r : UpdRun) (bad : Option Nat) : UPass :=
  let ix := w.freeIx
  let short := runPass h w (ctxOf r (.short ix) bad) r.plan
  let full := runPass h w (ctxOf r .past bad) r.plan
  let words := (r.plan.flatMap (fun x => groupWords (ctxOf r .past bad) x.1 x.2.1)).eraseDups
  { short with w := (words.foldl (mixWord h w full.w (ix + 1)) short.w).tick.tick }

/-- A fault in step 5: the units stop, accepted writes stay (R270, R271). -/
def faultStep (h : Hub) (w : Work) (r : UpdRun) (code : Code) (bad : Option Nat) : Work :=
  let p := cutPass h w r bad
  finishStep h (p.w.setUpd (fun u => { u with units := p.units })) r 5 code p.elements p.nans 0

/-- The units have written everything: steps 6 and 7 (R266). -/
def unitsDone (h : Hub) (w : Work) (r : UpdRun) : Work :=
  let p := runPass h w (ctxOf r .whole none) r.plan
  match p.fault with
  | some (c, a) => faultStep h (noteReadError h w c (unitOf 3 (unitOfAddr h w a)) a) r c none
  | none => commitStep h r p (r.plan.map (fun x => x.1))

/-- The name of the units' pass among the steps that wait for a protected piece. -/
def unitsStep : Nat × Nat × Nat := (3, 0, 0)

def execUpdateUnitsDone (s : State) : Out :=
  onWork s fun h w =>
    match w.upd.run with
    | some r => if w.upd.phase = 3 ∧ updReady h then wholeStep w unitsStep (unitsDone h w r) else w
    | none => w

/-- An interruption after step 5 began (R270): a part of the step's effect, and no record. When it falls in step 6 the
units are done, and some groups and layers are new. -/
def interruptUnits (h : Hub) (w : Work) (r : UpdRun) : Work :=
  let ix := w.freeIx
  if Config.freeKeepsOld ix 0 then (cutPass h w.tick r none).w
  else
    let p := runPass h w (ctxOf r .whole none) r.plan
    let gs := r.plan.map (fun x => x.1)
    let some_ := gs.filter (fun g => Config.freeKeepsOld ix (1 + g.ix))
    let layers := (layersOf gs).filter (fun l => Config.freeKeepsOld ix (65537 + l))
    let w1 := some_.foldl (commitGroup h (ctxOf r .whole none)) p.w
    (if r.desc.survey = 1 ∧ some_.length = gs.length then writeSurvey h w1 r.desc.step p.slices layers else w1).tick

/-! ### The vote (R267) -/

/-- The outcome of the vote at a member that waits for it (R266, R267, R268). -/
def applyOutcome (h : Hub) (w : Work) (r : UpdRun) (outcome : Nat) : Work :=
  let w1 := physPut h w (gazAddr w r.desc.voteGroup + 0x40) (leBytes 8 r.desc.step.toNat)
  if outcome = 1 then beginUnits h w1
  else if outcome = 4 then finishStep h w1 r 4 0 0 0 0
  else finishStep h w1 r (if r.clean then 3 else 2) 0 0 0 0

/-- An outcome reaches this member: the step that waits for it takes it; one for a step that ended is disregarded, and an
earlier one is kept for its step (DEDUCED, log 20). -/
def takeOutcome (h : Hub) (w : Work) (step : Word) (outcome : Nat) : Work :=
  match w.upd.run with
  | some r =>
    if w.upd.phase = 2 ∧ r.desc.step = step then applyOutcome h w r outcome
    else if w.upd.lastStep = step then w
    else w.setUpd (fun u => { u with early := (step, outcome) :: u.early })
  | none =>
    if w.upd.lastOutcome ≠ 0 ∧ w.upd.lastStep = step then w
    else w.setUpd (fun u => { u with early := (step, outcome) :: u.early })

/-- The master decides: its box closes, every member hears of it, and its own step goes on. -/
def decideVote (h : Hub) (w : Work) (group : Nat) (step : Word) (outcome : Nat) : Work :=
  let box := w.upd.boxes.find? (fun b => b.group == group && b.step == step)
  let w1 := w.setUpd (fun u =>
    { u with
      boxes := u.boxes.filter (fun b => !(b.group == group && b.step == step))
      decided := (group, step) :: u.decided })
  let others := match box with
    | none => []
    | some b => b.members.drop 1
  let w2 := others.foldl (fun w m => (sendControl h (traceVote h w) m (outcomePayload group step outcome) .vote).1) w1
  match w2.upd.run with
  | some r => if w2.upd.phase = 2 ∧ r.desc.step = step ∧ r.desc.voteGroup = group then applyOutcome h w2 r outcome else w2
  | none => w2

/-- The box of a step number; the first flag takes the membership of that moment (12 R385). -/
def openBox (h : Hub) (w : Work) (group : Nat) (step : Word) : Option (Work × VoteBox) :=
  match w.upd.boxes.find? (fun b => b.group == group && b.step == step) with
  | some b => some (w, b)
  | none =>
    match gazEntry h w group with
    | .error _ => none
    | .ok e =>
      match gazMembers h w e with
      | .error _ => none
      | .ok ms =>
        if gazValid e then
          let b : VoteBox := ⟨group, step, ms, []⟩
          some (w.setUpd (fun u => { u with boxes := u.boxes ++ [b] }), b)
        else none

/-- A flag at the master. -/
def takeFlag (h : Hub) (w : Work) (group member : Nat) (step : Word) (clean : Bool) : Work :=
  if w.upd.decided.contains (group, step) then w
  else
    match openBox h w group step with
    | none => w
    | some (w1, b) =>
      if !clean then decideVote h w1 group step 3
      else
        let flags := addOnce b.flags member
        let w2 := w1.setUpd (fun u =>
          { u with boxes := u.boxes.map (fun x => if x.group == group && x.step == step then { x with flags := flags } else x) })
        if b.members.length ≤ flags.length then decideVote h w2 group step 1 else w2

/-- This module posts its own flag. -/
def postFlag (h : Hub) (w : Work) (r : UpdRun) (clean : Bool) : Work :=
  if r.index = 0 then
    if w.upd.decided.contains (r.desc.voteGroup, r.desc.step) then
      (if w.upd.phase = 2 then applyOutcome h w r 3 else w)
    else takeFlag h w r.desc.voteGroup 0 r.desc.step clean
  else (sendControl h (traceVote h w) r.master (flagPayload r.desc.voteGroup r.index r.desc.step clean) .vote).1

def execCleanFlag (group member : Nat) (step : Word) (clean : Bool) (s : State) : Out :=
  onWork s fun h w => if targetDown h || !h.ident.powered then w else takeFlag h (traceVote h w) group member step clean

def execVoteOutcome (step : Word) (outcome : Nat) (s : State) : Out :=
  onWork s fun h w =>
    if (outcome = 1 ∨ outcome = 3 ∨ outcome = 4) ∧ h.ident.powered ∧ !targetDown h then takeOutcome h (traceVote h w) step outcome else w

/-- VOTE_TIMEOUT passes at the master since its own post. -/
def execVoteTimeout (s : State) : Out :=
  onWork s fun h w =>
    match w.upd.run with
    | some r =>
      if w.upd.phase = 2 ∧ r.index = 0 ∧ h.ident.powered then decideVote h w r.desc.voteGroup r.desc.step 4 else w
    | none => w

/-! ### GO and ABORT (R264 to R267, R274) -/

def stepDescOf (b : List Byte) : StepDesc :=
  { step := BitVec.ofNat 64 (fld b 0x00 8)
    checkAddr := fld b 0x08 8
    checkCount := fld b 0x10 4
    voteGroup := fld b 0x14 4
    groupFirst := fld b 0x18 4
    groupCount := fld b 0x1C 4
    recAddr := fld b 0x20 8
    writeMode := fld b 0x28 1
    survey := fld b 0x29 1
    voteTimeout := fld b 0x2C 4
    signal := fld b 0x30 8
    reserved := fld b 0x2A 2 + fld b 0x38 8 }

def noVote : Nat := 0xFFFFFFFF

/-- The BANK of the current record (R269). -/
def currentBank (h : Hub) (w : Work) (rec : Nat) : Except (Code × Nat) Nat :=
  match moduleRead h w rec 128 with
  | .error e => .error e
  | .ok b =>
    let c0 := fld b 0x38 8 == 1
    let c1 := fld b 0x78 8 == 1
    let b0 := fld b 9 1 % 2
    let b1 := fld b 0x49 1 % 2
    .ok
      (if c0 && c1 then (if fld b 0 8 ≤ fld b 0x40 8 then b1 else b0)
       else if c0 then b0
       else if c1 then b1
       else 0)

/-- Checks of the descriptor's own fields (R264, R266, R271). -/
def stepDescBad (h : Hub) (w : Work) (d : StepDesc) (isMaster : Bool) : Bool :=
  (isMaster && (d.voteTimeout == 0 || decide (10000000 < d.voteTimeout))) || d.reserved != 0 ||
    decide (2 ^ 14 ≤ d.signal) || decide (4096 < d.checkCount) ||
    (d.checkCount != 0 && (d.checkAddr % 4 != 0 || !inLpddr h d.checkAddr (4 * d.checkCount))) ||
    decide (1 < d.writeMode) || decide (1 < d.survey) || decide (65536 < d.groupCount) ||
    decide (65536 < w.upd.groupCount) || decide (w.upd.groupCount < d.groupFirst + d.groupCount)

/-- One entry to check: whether it is clean (R266). -/
def entryClean (h : Hub) (w : Work) (ent : Nat) : Except (Code × Nat) Bool :=
  if 2 ^ 20 ≤ ent ∨ tensorIdBad w.tables.ttLog2 ent then .error (0x0302, 0)
  else if ent = 0 then .ok true
  else
    match moduleRead h w (entryAddr w.tables.ttBase ent) 48 with
    | .error x => .error x
    | .ok b => .ok (fld b 0x18 8 == 0 && !bitOf (fld b 0x28 4) 4)

/-- The first entry that is not clean, 0 when none. -/
def firstDirty (h : Hub) (w : Work) : List Nat → Except (Code × Nat) Nat
  | [] => .ok 0
  | ent :: r =>
    match entryClean h w ent with
    | .error x => .error x
    | .ok clean =>
      match firstDirty h w r with
      | .error x => .error x
      | .ok f => .ok (if clean then f else ent)

def checkList (h : Hub) (w : Work) (d : StepDesc) : Except (Code × Nat) Nat :=
  match moduleRead h w d.checkAddr (4 * d.checkCount) with
  | .error x => .error x
  | .ok b => firstDirty h w ((List.range d.checkCount).map (fun i => fld b (4 * i) 4))

/-- What the pre-check reads: the first dirty entry, 0 when none, and the groups with what they use. -/
abbrev Checked := Nat × List (UGroup × List Nat × List Val)

/-- The pre-check past the vote group: what it read, or a code. -/
def preCheck (h : Hub) (w : Work) (d : StepDesc) (bank : Nat) (isMaster : Bool) : Except (Code × Nat) Checked :=
  if stepDescBad h w d isMaster then .error (0x0203, 0)
  else
    match planOf h w d bank with
    | .error x => .error x
    | .ok plan =>
      if d.checkCount = 0 then .ok (0, plan)
      else
        match checkList h w d with
        | .error x => .error x
        | .ok f => .ok (f, plan)

/-- The vote group of a descriptor: this module's index and the master's number, with the members readable. -/
def voteGroupOf (h : Hub) (w : Work) (d : StepDesc) : Except (Code × Nat) (Nat × Nat) :=
  if 4096 ≤ d.voteGroup then .error (0x0203, 0)
  else
    match gazEntry h w d.voteGroup with
    | .error x => .error x
    | .ok e =>
      if !gazValid e then .error (0x0203, 0)
      else
        match gazMembers h w e with
        | .error x => .error x
        | .ok _ => .ok (fld e 8 4, fld e 0x18 4 % 2 ^ 17)

/-- Steps 2 to 4: pre-check, local flag, and the vote or the outcome. `forced` is a read error met on the way. -/
def judgeStep (h : Hub) (w : Work) (d : StepDesc) (bank : Nat) (forced : Option (Code × Nat)) : Work :=
  let run (plan : List (UGroup × List Nat × List Val)) (clean : Bool) (dirty index master : Nat) : UpdRun :=
    ⟨d, bank, plan, clean, dirty, index, master⟩
  let fail (w : Work) (r : UpdRun) (x : Code × Nat) : Work :=
    finishStep h (noteReadError h w x.1 (unitOf 0 0) x.2) r 5 x.1 0 0 0
  let check (isMaster : Bool) : Except (Code × Nat) Checked :=
    match forced with
    | some c => .error c
    | none => preCheck h w d bank isMaster
  if d.voteGroup = noVote then
    match check false with
    | .error c => fail w (run [] false 0 0 0) c
    | .ok (f, plan) =>
      let w1 := w.setUpd (fun u => { u with run := some (run plan (f == 0) f 0 0) })
      if f = 0 then beginUnits h w1 else finishStep h w1 (run plan false f 0 0) 2 0 0 0 0
  else
    match voteGroupOf h w d with
    | .error c => fail w (run [] false 0 0 0) c
    | .ok (ix, master) =>
      -- a step that this master itself has ended opens a fresh vote when it runs again
      let w0 := if ix = 0 ∧ w.upd.lastOutcome ≠ 0 ∧ w.upd.lastStep = d.step then
          w.setUpd (fun u => { u with decided := u.decided.filter (fun x => x != (d.voteGroup, d.step)) })
        else w
      match check (ix == 0) with
      | .error c => fail (postFlag h w0 (run [] false 0 ix master) false) (run [] false 0 ix master) c
      | .ok (f, plan) =>
        let r := run plan (f == 0) f ix master
        let kept := w0.upd.early.find? (fun x => x.1 == d.step)
        let w1 := enterPhase h
          (w0.setUpd (fun u => { u with run := some r, early := u.early.filter (fun x => x.1 != d.step) })) 2
        let w2 := postFlag h w1 r r.clean
        match kept, w2.upd.run with
        | some (_, o), some _ => if w2.upd.phase = 2 ∧ ix ≠ 0 then applyOutcome h w2 r o else w2
        | _, _ => w2

/-- A GO that is not refused (R266 step 1). -/
def startStep (h : Hub) (w : Work) (forced : Option (Code × Nat)) : Work :=
  match moduleRead h w w.upd.stepDesc 64 with
  | .error (c, _) =>
    let ix := w.freeIx
    endStep h (noteReadError h w.tick c (unitOf 0 0) w.upd.stepDesc) (Config.freeWord ix) 5 c
  | .ok b =>
    let d := stepDescOf b
    let w1 := enterPhase h (w.setUpd (fun u => { u with accepted := d.step })) 1
    if d.recAddr % 128 ≠ 0 ∨ !inLpddr h d.recAddr 128 then endStep h w1 d.step 5 0x0203
    else
      match moduleStore h w1 (recordSlot d + 0x38) (leBytes 8 0) with
      | .error (c, _) => endStep h w1 d.step 5 c
      | .ok w2 =>
        match currentBank h w2 d.recAddr with
        | .error x => judgeStep h w2 d 0 (some x)
        | .ok bank => judgeStep h w2 d bank forced

/-- The GO bit of a store to UPD_GO (R266, 13 R412); `phase` is the PHASE before the store. -/
def goBit (h : Hub) (w : Work) (phase : Nat) (forced : Option (Code × Nat)) : Work :=
  if phase ≠ 0 ∨ w.copier.phase = 1 ∨ w.copier.restoreBad ∨ w.copier.verifyFail ∨ !inLpddr h w.upd.stepDesc 64 then
    w.setUpd (fun u => { u with goRefused := true })
  else startStep h w forced

/-- The ABORT bit: it ends a vote with OUTCOME 6, and an aborted master decides nothing more. -/
def abortBit (h : Hub) (w : Work) : Work :=
  match w.upd.run with
  | some r =>
    if w.upd.phase = 2 then
      let key := (r.desc.voteGroup, r.desc.step)
      let w1 :=
        if r.index = 0 then
          w.setUpd (fun u =>
            { u with
              decided := key :: u.decided
              boxes := u.boxes.filter (fun b => !(b.group == key.1 && b.step == key.2)) })
        else w
      finishStep h w1 r 6 0 0 0 0
    else w
  | none => w

/-- A store to UPD_GO. -/
def storeGo (h : Hub) (w : Work) (v : Word) (forced : Option (Code × Nat)) : Work :=
  let phase := w.upd.phase
  let w1 := if bitOf v.toNat 1 then abortBit h w else w
  if bitOf v.toNat 0 then goBit h w1 phase forced else w1

def execGo (v : Word) (s : State) : Out :=
  onWork s fun h w => if updReady h && bitOf v.toNat 0 then storeGo h w v none else w

def execUpdAbort (v : Word) (s : State) : Out :=
  onWork s fun h w => if updReady h && bitOf v.toNat 1 then storeGo h w v none else w

end Sys2Proof.Machine
end

