-- ==== Sys2Proof/Machine/Copier.lean ====
section
/-!
DEFINITION. The page copier (13): snapshot epochs, restore, refill, and the loss ledger.
-/

namespace Sys2Proof.Machine

def Work.setCopier (w : Work) (f : Copier → Copier) : Work := { w with copier := f w.copier }

/-! ### Phases, outcomes and errors (R427, 17 R508, R522) -/

/-- EPOCH of the running snapshot, else COPIER_EPOCH: the identifier of trace event 4 (DEDUCED, log 25). -/
def copierIdent (c : Copier) : Nat :=
  match c.run with
  | some r => if r.desc.epoch = 0 then c.epoch.toNat else r.desc.epoch.toNat
  | none => c.epoch.toNat

def enterCopierPhase (h : Hub) (w : Work) (p : Nat) : Work :=
  trace h (w.setCopier (fun c => { c with phase := p })) 4 (unitOf 8 0) (copierIdent w.copier)

def setCopierErr (w : Work) (code : Code) (entry addr : Nat) : Work :=
  w.setCopier (fun c => { c with errCode := code, errEntry := entry, errAddr := BitVec.ofNat 64 addr })

/-- LAST_STATUS, and the outcome's log record of class 9. -/
def copierStatus (h : Hub) (w : Work) (status : Code) : Work :=
  emit h (w.setCopier (fun c => { c with lastStatus := status })) ⟨9, status, 53, unitOf 8 0, 0, []⟩

def isCopierRequest : Requester → Bool
  | .copierWrite => true
  | .copierRead _ => true
  | _ => false

/-- Answers that an ended operation no longer waits for are disregarded. -/
def dropCopierRequests (w : Work) : Work :=
  { w with fabric := { w.fabric with requests := w.fabric.requests.filter (fun x => !isCopierRequest x.2) } }

/-- An operation is over: PHASE 0 and its outcome. -/
def endCopier (h : Hub) (w : Work) (status : Code) : Work :=
  let w1 := copierStatus h (enterCopierPhase h (dropCopierRequests w) 0) status
  w1.setCopier (fun c => { c with run := none })

/-- Given bytes to an atlas address of the slot. -/
def bytesToSlot (h : Hub) (w : Work) (atlas : Nat) (bs : List Byte) : Work :=
  let r := match targetOf h atlas with
    | .self a => (physWrite h w a bs, (0 : Code))
    | .remote m a => slotPackets h w m a bs.length (fun _ o k => (bs.drop o).take k)
    | .none => (w, 0x0401)
  r.1.setRun (noteSlotFail r.2 atlas)

/-- COMMIT of the slot stays 0: where the record is on its way already, a 0 follows it (R409). -/
def withdrawRecord (h : Hub) (w : Work) (r : CopierRun) : Work :=
  if r.sent = 2 then bytesToSlot h w (slotBase r + 0xF8) (leBytes 8 0) else w

/-- An epoch ends without commit (R409): SP is cleared in every page of the epoch, the protected set is dropped, the held
requests go on, and staging is discarded. -/
def endEpoch (h : Hub) (w : Work) (status : Code) : Work :=
  match w.copier.run with
  | none => w
  | some r =>
    let w1 := (withdrawRecord h w r).setCopier (fun c => { c with protectedSet := [] })
    releaseAll h (endCopier h (clearEntries h w1 r.spEntries) status)

/-- A read of the copier has met a memory error: the log record (17 R511) and COPIER_ERR. -/
def copierReadError (h : Hub) (w : Work) (code : Code) (addr : Nat) : Work :=
  setCopierErr (emitMemError h (badLeaves h w 80 code addr) code (unitOf 8 0) addr) code 0 (atlasOf addr)

/-- The epoch ends with a read error (R409). -/
def epochReadError (h : Hub) (w : Work) (code : Code) (addr : Nat) : Work :=
  endEpoch h (copierReadError h w code addr) 0x0904

/-- A slot write has failed: the epoch ends (R409). -/
def settleSlot (h : Hub) (w : Work) : Work :=
  match w.copier.run with
  | none => w
  | some r =>
    if r.slotFail = 0 ∨ w.copier.phase = 0 ∨ 3 < w.copier.phase then w
    else endEpoch h (setCopierErr w r.slotFail 0 r.slotFailAddr) 0x0905

/-! ### The descriptor (R400) -/

def copierDescOf (b : List Byte) : CopierDesc :=
  ⟨BitVec.ofNat 64 (fld b 0 8), fld b 8 8, fld b 0x10 8, fld b 0x18 8, fld b 0x20 8, fld b 0x28 4, fld b 0x2C 4, fld b 0x30 8⟩

/-- A slot that lies in this module lies in its memory. -/
def imagePlaced (h : Hub) (a n : Nat) : Bool :=
  match targetOf h a with
  | .self x => inOneRegion h x n
  | _ => true

/-- The fields that every operation has. -/
def copierDescBad (h : Hub) (b : List Byte) (d : CopierDesc) : Bool :=
  rangeSet b 0x38 72 || d.slot0 % pieceSize != 0 || d.slot1 % pieceSize != 0 || d.slotBytes % pieceSize != 0 ||
    decide (d.slotBytes < 6 * pieceSize) || !imagePlaced h d.slot0 d.slotBytes || !imagePlaced h d.slot1 d.slotBytes

def snapshotDescBad (h : Hub) (c : Copier) (d : CopierDesc) : Bool :=
  decide (d.epoch.toNat ≤ c.epoch.toNat) || d.stageAddr % pieceSize != 0 || d.stagePieces == 0 ||
    decide (4096 < d.stagePieces) || !inLpddr h d.stageAddr (d.stagePieces * pieceSize)

def listDescBad (h : Hub) (d : CopierDesc) : Bool :=
  d.epoch != 0 || decide (65536 < d.listCount) ||
    (d.listCount != 0 && (d.listAddr % 64 != 0 || !inLpddr h d.listAddr (32 * d.listCount)))

/-- The descriptor at COPIER_DESC, a physical address; one that cannot be read is refused like a bad one (DESIGN CHOICE,
log 25). -/
def readCopierDesc (h : Hub) (w : Work) : Option (List Byte × CopierDesc) :=
  if !inLpddr h w.copier.descAddr 128 then none
  else
    match physRead h w w.copier.descAddr 128 with
    | .error _ => none
    | .ok b => if copierDescBad h b (copierDescOf b) then none else some (b, copierDescOf b)

def refillEntryOf (b : List Byte) (i : Nat) : RefillEntry :=
  let o := 32 * i
  ⟨fld b o 8, fld b (o + 8) 4,
    (([12, 16, 20].map (fun k => fld b (o + k) 4)).filter (fun x => x != 0xFFFFFFFF)).map (fun x => x % 2 ^ 17)⟩

/-- The region list (R415). -/
def readRegions (h : Hub) (w : Work) (d : CopierDesc) : Except (Code × Nat) (List RefillEntry) :=
  match physRead h w d.listAddr (32 * d.listCount) with
  | .error e => .error e
  | .ok b => .ok ((List.range d.listCount).map (refillEntryOf b))

def freshRun (d : CopierDesc) : CopierRun :=
  { desc := d, pieces := [], todo := [], staged := [], crcs := [], image := [], uncaptured := [], waited := [], spEntries := []
    slotFail := 0, slotFailAddr := 0, stepNumber := BitVec.allOnes 64, bank := 0, sent := 0, slot := d.epoch.toNat % 2
    stage := 0, buffer := [], missing := [], failed := [], imageEpoch := 0, regions := [], work := [], source := 0
    failedSources := [] }

/-! ### The protected set (R401) -/

def rangePieces (a n : Nat) : List Nat :=
  if n = 0 then [] else (List.range (pieceOf (a + n - 1) - pieceOf a + 1)).map (fun i => pieceOf a + i)

/-- Pieces that hold a table at an engine address; a page without a valid translation holds none. -/
def tablePieces (h : Hub) (w : Work) (a n : Nat) : List Nat :=
  (rangePieces a n).filterMap (fun p =>
    if p * pieceSize < lpddrEnd h then
      match moduleAddr h w false (p * pieceSize) with
      | .ok x => some (pieceOf x)
      | .error _ => none
    else none)

/-- What a scan of the translation table gives: the entries with SP, and the level-2 tables named. -/
structure XlateScan where
  sp : List (Nat × Nat × Nat)
  tables : List Nat
  deriving DecidableEq, Repr

def scanLevel2 (h : Hub) (w : Work) (t : Nat) : Except (Code × Nat) (List (Nat × Nat × Nat)) :=
  match physRead h w t 4096 with
  | .error e => .error e
  | .ok b =>
    .ok ((List.range 512).filterMap (fun j =>
      let en := fld b (8 * j) 8
      if entryOk en && bitOf en 1 && bitOf en 3 then
        (leafOf h en (t + 8 * j) 21).map (fun l => (t + 8 * j, pieceOf l.phys, 1))
      else none))

/-- One level-1 entry. -/
def scanEntry (h : Hub) (w : Work) (a en : Nat) : Except (Code × Nat) XlateScan :=
  let t := bitsOf en 12 35 * 4096
  if !entryOk en then .ok ⟨[], []⟩
  else if bitOf en 1 then
    .ok ⟨if bitOf en 3 then ((leafOf h en a 30).map (fun l => (a, pieceOf l.phys, 512))).toList else [], []⟩
  else if !inLpddr h t 4096 then .ok ⟨[], []⟩
  else
    match scanLevel2 h w t with
    | .error e => .error e
    | .ok sp => .ok ⟨sp, [t]⟩

/-- The whole table in force; none is in force with ENABLE = 0 (18 R535 d). -/
def scanXlate (h : Hub) (w : Work) : Except (Code × Nat) XlateScan :=
  if !w.tables.xlEnable then .ok ⟨[], []⟩
  else
    match physRead h w w.tables.xlBase 8192 with
    | .error e => .error e
    | .ok b =>
      match (List.range 1024).mapM (fun i => scanEntry h w (w.tables.xlBase + 8 * i) (fld b (8 * i) 8)) with
      | .error e => .error e
      | .ok xs => .ok ⟨xs.flatMap (fun x => x.sp), xs.flatMap (fun x => x.tables)⟩

/-- The gazetteer and the member arrays of its valid entries. -/
def gazPieces (h : Hub) (w : Work) : Except (Code × Nat) (List Nat) :=
  match physRead h w w.fabric.gazBase (128 * 4096) with
  | .error e => .error e
  | .ok b =>
    .ok (rangePieces w.fabric.gazBase (128 * 4096) ++ (List.range 4096).flatMap (fun g =>
      let en := (b.drop (128 * g)).take 128
      if bitOf (fld en 0 4) 0 then
        rangePieces (fld en 0x10 8) (4 * fld en 4 4) ++
          (if bitOf (fld en 0x28 4) 0 then rangePieces (fld en 0x30 8) (4 * fld en 0x38 4) else [])
      else []))

/-- RECORD_ADDR of the descriptor last written to UPD_STEP_DESC. -/
def stepRecordAddr (h : Hub) (w : Work) : Except (Code × Nat) Nat :=
  match moduleNat h w (w.upd.stepDesc + 0x20) 8 with
  | .ok a => .ok a
  | .error x => .error x

/-- A piece enters an ascending list once. -/
def insertPiece (p : Nat) : List Nat → List Nat
  | [] => [p]
  | x :: r => if p < x then p :: x :: r else if p = x then x :: r else x :: insertPiece p r

/-- The pieces of R401, in ascending order, with the SP entries. -/
def protectedPieces (h : Hub) (w : Work) : Except (Code × Nat) (List Nat × List (Nat × Nat × Nat)) :=
  match scanXlate h w, gazPieces h w with
  | .error e, _ => .error e
  | _, .error e => .error e
  | .ok x, .ok gz =>
    let u := w.upd
    let rec_ := match stepRecordAddr h w with
      | .ok a => tablePieces h w a 128
      | .error _ => []
    let all :=
      x.sp.flatMap (fun s => (List.range s.2.2).map (fun i => s.2.1 + i)) ++
        tablePieces h w u.groupBase (256 * u.groupCount) ++ tablePieces h w u.contourBase (512 * u.contourCount) ++
        tablePieces h w u.surveyBase (32 * u.surveyCount) ++
        (if w.tables.ttLog2 = 0 then [] else tablePieces h w w.tables.ttBase (256 * 2 ^ w.tables.ttLog2)) ++
        gz ++ rec_ ++
        (if w.tables.xlEnable then rangePieces w.tables.xlBase 8192 ++ x.tables.flatMap (fun t => rangePieces t 4096) else [])
    .ok ((all.filter (fun p => decide (p < lpddrEnd h / pieceSize))).foldr insertPiece [], x.sp)

/-- STEP_NUMBER and BANK of the current step record (09 R269); all ones and 0 when there is none. -/
def currentRecord (h : Hub) (w : Work) : Word × Nat :=
  let none_ : Word × Nat := (BitVec.allOnes 64, 0)
  match stepRecordAddr h w with
  | .error _ => none_
  | .ok a =>
    match moduleRead h w a 128 with
    | .error _ => none_
    | .ok b =>
      let step (o : Nat) : Word × Nat := (BitVec.ofNat 64 (fld b o 8), fld b (o + 9) 1 % 2)
      let c0 := fld b 0x38 8 == 1
      let c1 := fld b 0x78 8 == 1
      if c0 && c1 then (if fld b 0 8 ≤ fld b 0x40 8 then step 0x40 else step 0)
      else if c0 then step 0
      else if c1 then step 0x40
      else none_

/-! ### The register image (R402, R403) -/

def engineImage (e : Nat) : Nat := 0x2000 + e * 0x4100

/-- The update registers and generator state, and the bases of engine 0. -/
def moduleImage (h : Hub) (w : Work) : List Host.Cell :=
  let u := w.upd
  let regs := [u.groupBase, u.groupCount, u.contourBase, u.contourCount, u.surveyBase, u.surveyCount, u.seed.toNat]
  let reg (o : Nat) : Nat := (engineRegister h w 0 o).getD 0
  let head := (regs ++ [reg 0x500, w.fabric.gazBase, reg 0x700]).flatMap (leBytes 8)
  let m := memWrite (memWrite [] 0 head) 0x100 (leBytes 8 u.seed.toNat)
  u.counters.foldl (fun m c => memWrite m (0x140 + 8 * c.1) (leBytes 8 c.2.toNat)) m

/-- Capture every engine whose state stands still; the others are captured later (R403). -/
def captureEngines (w : Work) (r : CopierRun) : CopierRun :=
  let now := r.uncaptured.filter (fun e => !drawsOutstanding (w.engine e))
  { r with
    image := now.foldl (fun m e => memWrite m (engineImage e) (genBytes (w.engine e).gen)) r.image
    uncaptured := r.uncaptured.filter (fun e => !now.contains e) }

/-! ### Opening (R405, R406) -/

/-- A slot of this module meets a protected piece. -/
def slotMeets (h : Hub) (d : CopierDesc) (ps : List Nat) : Bool :=
  [d.slot0, d.slot1].any (fun a =>
    match targetOf h a with
    | .self x => ps.any (fun p => decide (x < (p + 1) * pieceSize ∧ p * pieceSize < x + d.slotBytes))
    | _ => false)

def slotCapacity (d : CopierDesc) : Nat := min 393216 (d.slotBytes / pieceSize - 5)

def refuseCopier (h : Hub) (w : Work) (code : Code) : Work := copierStatus h w code

/-- An accepted opening: steps 1 to 3. -/
def openEpoch (h : Hub) (w : Work) (d : CopierDesc) (ps : List Nat) (sp : List (Nat × Nat × Nat)) : Work :=
  let rec_ := currentRecord h w
  let r : CopierRun :=
    { freshRun d with
      pieces := ps, todo := ps, spEntries := sp, stepNumber := rec_.1, bank := rec_.2, image := moduleImage h w
      uncaptured := (List.range 72).filter (present h) }
  let w1 := w.setCopier (fun c => { c with run := some (captureEngines w r), done := 0, total := ps.length })
  settleSlot h (bytesToSlot h (enterCopierPhase h w1 1) (slotBase r + 0xF8) (leBytes 8 0))

def goSnapshot (h : Hub) (w : Work) : Work :=
  if w.copier.phase ≠ 0 ∨ w.upd.phase ≠ 0 then refuseCopier h w 0x0901
  else
    match readCopierDesc h w with
    | none => refuseCopier h w 0x0902
    | some (_, d) =>
      if snapshotDescBad h w.copier d then refuseCopier h w 0x0902
      else
        match protectedPieces h w with
        | .error (c, a) => epochReadError h (openEpoch h w d [] []) c a
        | .ok (ps, sp) =>
          if slotCapacity d < ps.length || slotMeets h d ps then refuseCopier h w 0x0902 else openEpoch h w d ps sp

/-- Writes to the slot that have not been accepted. -/
def slotPending (w : Work) : Bool :=
  w.fabric.requests.any (fun x => match x.2 with
    | .copierWrite => true
    | _ => false)

/-- A request accepted before the opening may still grant write ownership of a protected line (11 R326). -/
def ownershipUnderWay (w : Work) (r : CopierRun) : Bool :=
  w.coh.homes.any (fun hm => hm.txns.any (fun t => r.pieces.contains (linePiece t.line)))

/-- The caches have acknowledged: the homes hold the protected set (R406 step 4, 11 R326). Engines whose state stands still
by now are captured, also where the opening has to wait for something else. -/
def execEpochOpened (s : State) : Out :=
  onWork s fun h w =>
    match w.copier.run.map (captureEngines w) with
    | some r =>
      if w.copier.phase ≠ 1 ∨ !(homesWork h && h.ident.complexReady) then w
      else if slotPending w ∨ !r.uncaptured.isEmpty ∨ ownershipUnderWay w r then w.setRun (fun _ => r)
      else
        let w1 := r.pieces.foldl (fun w p => cleanRange w (p * pieceSize) pieceSize) w
        enterCopierPhase h (w1.setCopier (fun c => { c with run := some r, protectedSet := r.pieces })) 2
    | none => w

/-! ### The copying of pieces (R406, R407) -/

/-- The first line of a piece that cannot be read. -/
def pieceFault (h : Hub) (w : Work) (piece : Nat) : Option (Code × Nat) :=
  (linesOf (piece * pieceSize) pieceSize).findSome? (fun ln =>
    if ln * 128 < lpddrEnd h then (lineFault w ln).map (fun c => (c, ln * 128)) else none)

/-- The writes on the piece that the homes hold (11 R327). -/
def heldWrites (h : Hub) (w : Work) (piece : Nat) : Nat :=
  (w.coh.homes.map (fun hm => hm.held.countP (fun r => linePiece (heldLine h w r) == piece))).sum

/-- A home holds a write on the piece. -/
def heldTouch (h : Hub) (w : Work) (piece : Nat) : Bool := heldWrites h w piece != 0

def isStaged (r : CopierRun) (piece : Nat) : Bool := r.staged.any (fun x => x.1 == piece)

/-- The held writes of a piece have found no staging slot: each is counted once (R427). -/
def noSlot (h : Hub) (w : Work) (r : CopierRun) (piece : Nat) : Work :=
  let n := heldWrites h w piece
  (countStageWaits w (n - alGet 0 r.waited piece)).setRun (fun x => { x with waited := alSet x.waited piece n })

def execFirstTouch (piece : Nat) (s : State) : Out :=
  onWork s fun h w =>
    match w.copier.run with
    | some r =>
      if w.copier.phase ≠ 2 ∨ !w.copier.protectedSet.contains piece ∨ !heldTouch h w piece ∨ isStaged r piece then w
      else
        match freeSlot r, pieceFault h w piece with
        | none, _ => noSlot h w r piece
        | some _, some (c, a) => epochReadError h w c a
        | some i, none => stagePiece w r piece i
    | none => w

/-- A piece has been copied: set aside, sent directly in directory order, or drained from staging. -/
def pieceDone (h : Hub) (w : Work) (r : CopierRun) (piece : Nat) : Work :=
  if isStaged r piece && w.copier.protectedSet.contains piece then releaseAll h (unprotect h w piece)
  else if r.staged.head?.map (fun x => x.1) = some piece then settleSlot h (drainOldest h w)
  else if r.todo.head? = some piece then
    match pieceFault h w piece with
    | some (c, a) => epochReadError h w c a
    | none =>
      let w1 := (sendPiece h w r piece (piece * pieceSize)).setRun (fun x => { x with todo := x.todo.drop 1 })
      settleSlot h (releaseAll h (unprotect h w1 piece))
  else w

def execPieceCopied (piece : Nat) (s : State) : Out :=
  onWork s fun h w =>
    match w.copier.run with
    | some r => if w.copier.phase = 2 then pieceDone h w r piece else w
    | none => w

/-! ### Commit (R404, R406 steps 6 and 7) -/

def directoryBytes (r : CopierRun) : List Byte :=
  r.pieces.flatMap (fun p => leBytes 8 (p * pieceSize) ++ leBytes 4 (alGet 0 r.crcs p) ++ leBytes 4 0)

def imageBytes (r : CopierRun) : List Byte := memRead r.image 0 pieceSize

/-- The snapshot record, COMMIT last. -/
def recordOf (h : Hub) (r : CopierRun) : List Byte :=
  padTo 248
    (leBytes 4 0x534E ++ leBytes 2 1 ++ leBytes 2 0 ++ leBytes 8 r.desc.epoch.toNat ++ leBytes 8 r.stepNumber.toNat ++
      leBytes 4 h.ident.number.toNat ++ leBytes 4 r.pieces.length ++ leBytes 4 (crc32 (directoryBytes r ++ imageBytes r)) ++
      leBytes 1 r.bank) ++
    leBytes 8 1

/-- The next part of the commit, once all before it has been accepted. -/
def commitNext (h : Hub) (w : Work) : Work :=
  match w.copier.run with
  | none => w
  | some r =>
    if slotPending w ∨ r.slotFail ≠ 0 then w
    else if r.sent = 0 then
      let w1 := bytesToSlot h w (slotBase r + 0x1000) (directoryBytes r)
      (bytesToSlot h w1 (slotBase r + 0x800000) (imageBytes r)).setRun (fun x => { x with sent := 1 })
    else if r.sent = 1 then (bytesToSlot h w (slotBase r) (recordOf h r)).setRun (fun x => { x with sent := 2 })
    else
      endCopier h (w.setCopier (fun c => { c with epoch := r.desc.epoch, protectedSet := [] })) 0

def execEpochCommit (s : State) : Out :=
  onWork s fun h w =>
    match w.copier.run with
    | some r =>
      if (w.copier.phase = 2 ∨ w.copier.phase = 3) ∧ r.todo = [] ∧ r.staged = [] then
        let w0 := if w.copier.phase = 2 then enterCopierPhase h w 3 else w
        settleSlot h (commitNext h (commitNext h (commitNext h w0)))
      else w
    | none => w

/-! ### Reads of an image or of a source -/

/-- Read `n` bytes at an atlas address into the buffer from `place` on: at once from this module, by READs from another
one. `xl` translates a local address (11 R321). -/
def startRead (h : Hub) (w : Work) (xl : Bool) (cls atlas n place : Nat) : Work :=
  let fail (w : Work) (p : Nat) (c : Code) (a : Nat) : Work :=
    w.setRun (fun r => { r with failed := r.failed ++ [(p, c, a)] })
  match targetOf h atlas with
  | .self a =>
    (match (if xl then moduleRead h w a n else physRead h w a n) with
     | .ok bs => w.setRun (fun r => { r with buffer := memWrite r.buffer place bs })
     | .error (c, x) => fail (copierReadError h w c x) place c (atlasOf x))
  | .remote m a =>
    (packetSpans n).foldl
      (fun w sp =>
        match sendRequest h w 0xFFFF m cls 0x01 (a + sp.1) sp.2 [] (.copierRead (place + sp.1)) with
        | (w1, c) =>
          if c = 0 then w1.setRun (fun r => { r with missing := r.missing ++ [place + sp.1] })
          else fail w1 (place + sp.1) c (atlas + sp.1))
      w
  | .none => fail w place 0x0401 atlas

/-- The answer of another module to a read of the copier (12 R374). -/
def copierRead (w : Work) (place : Nat) (p : Packet) : Work :=
  w.setRun (fun r =>
    let r1 := { r with missing := r.missing.filter (fun x => x != place) }
    if p.status = 0 then { r1 with buffer := memWrite r1.buffer place p.payload }
    else { r1 with failed := r1.failed ++ [(place, p.status, p.src * 2 ^ 47 + p.addr)] })

/-- The buffer is empty and nothing has failed. -/
def clearReads (r : CopierRun) : CopierRun := { r with buffer := [], missing := [], failed := [] }

/-- Stop with the first failure noted in COPIER_ERR. -/
def stopCopier (h : Hub) (w : Work) (status : Code) (entry : Nat) (err : Code × Nat) : Work :=
  endCopier h (setCopierErr w err.1 entry err.2) status

def firstFailure (r : CopierRun) (other : Code) : Code × Nat :=
  match r.failed with
  | [] => (other, 0)
  | x :: _ => (x.2.1, x.2.2)

/-! ### Restore (R411 to R413) -/

/-- Every stream is idle or disabled. -/
def streamsAtRest (w : Work) : Bool := w.engines.all (fun en => en.streams.all (fun st => st.desc.isNone && !st.fault))

/-- Restore and refill are refused while anything else runs (R411, R416). -/
def copierBusy (w : Work) : Bool := w.copier.phase != 0 || w.upd.phase != 0 || !streamsAtRest w

/-- The record of a slot qualifies: its EPOCH. -/
def recordEpoch (h : Hub) (r : CopierRun) (slot : Nat) : Option Nat :=
  let b := memRead r.buffer (256 * slot) 256
  if r.failed.any (fun f => f.1 / 256 == slot) then none
  else if fld b 0xF8 8 = 1 ∧ fld b 0 4 = 0x534E ∧ fld b 4 2 = 1 ∧ fld b 0x18 4 % 2 ^ 17 = h.ident.number.toNat ∧
      fld b 0x1C 4 ≤ slotCapacity r.desc then some (fld b 8 8)
  else none

/-- The slot of R411 step 1. -/
def chooseSlot (h : Hub) (r : CopierRun) : Option Nat :=
  match recordEpoch h r 0, recordEpoch h r 1 with
  | some a, some b => some (if a < b then 1 else 0)
  | some _, none => some 0
  | none, some _ => some 1
  | none, none => none

/-- Where the register image and the record stand in the buffer while an image is checked. -/
def imagePlace : Nat := 0x600000

/-- Step 1: the records have been read. -/
def restoreRecords (h : Hub) (w : Work) (r : CopierRun) : Work :=
  match chooseSlot h r with
  | none => stopCopier h w 0x0906 0 (firstFailure r 0x0906)
  | some s =>
    let b := memRead r.buffer (256 * s) 256
    let n := fld b 0x1C 4
    let r1 := { clearReads r with
      slot := s, stage := 1, imageEpoch := BitVec.ofNat 64 (fld b 8 8), source := fld b 0x20 4, pieces := List.range n }
    let w1 := w.setCopier (fun c => { c with run := some r1 })
    startRead h (startRead h w1 false 3 (slotBase r1 + 0x1000) (16 * n) 0) false 3 (slotBase r1 + 0x800000) pieceSize imagePlace

/-- A directory entry is to be restored. -/
def inRegions (r : CopierRun) (a : Nat) : Bool :=
  r.desc.listCount == 0 || r.regions.any (fun x => decide (x.addr ≤ a ∧ a < x.addr + x.pieces * pieceSize))

/-- The bases of the image are those in force. -/
def basesAgree (h : Hub) (w : Work) (img : List Byte) : Bool :=
  fld img 0x38 8 == (engineRegister h w 0 0x500).getD 0 && fld img 0x40 8 == w.fabric.gazBase &&
    fld img 0x48 8 == (engineRegister h w 0 0x700).getD 0

/-- Begin the read of the next piece of a restore. -/
def nextPiece (h : Hub) (w : Work) (r : CopierRun) : Work :=
  match r.work with
  | [] => w
  | (k, _) :: _ => startRead h w false 3 (slotBase r + 0xA00000 + k * pieceSize) pieceSize 0

/-- Step 2: the directory and the register image have been read. -/
def restoreCheck (h : Hub) (w : Work) (r : CopierRun) : Work :=
  let dir := memRead r.buffer 0 (16 * r.pieces.length)
  let img := memRead r.buffer imagePlace pieceSize
  if !r.failed.isEmpty || crc32 (dir ++ img) != r.source || !basesAgree h w img then
    stopCopier h w 0x0906 0 (firstFailure r 0x0906)
  else
    let mine := r.pieces.filter (fun k => inRegions r (fld dir (16 * k) 8))
    let r1 := { clearReads r with
      stage := 2
      image := memWrite [] 0 img
      crcs := r.pieces.map (fun k => (fld dir (16 * k) 8, fld dir (16 * k + 8) 4))
      work := mine.map (fun k => (k, fld dir (16 * k) 8)) }
    nextPiece h (w.setCopier (fun c => { c with run := some r1, restoreBad := true, done := 0, total := mine.length })) r1

/-- Write a piece that has been read. -/
def putPiece (w : Work) (a : Nat) (bs : List Byte) : Work :=
  { w with mem := memWrite w.mem a bs, coh := dropRange w.coh a bs.length }

/-- Step 4: the registers of the image. -/
def restoreRegisters (h : Hub) (w : Work) (m : List Host.Cell) : Work :=
  let rd (o : Nat) : Nat := leNat (memRead m o 8)
  let gen (e : Nat) : GenState :=
    ⟨BitVec.ofNat 64 (rd (engineImage e)), BitVec.ofNat 12 (rd (engineImage e + 8)), 0,
      ((List.range 2048).map (fun l => (l, BitVec.ofNat 64 (rd (engineImage e + 0x40 + 8 * l))))).filter (fun x => x.2 != 0)⟩
  let w1 := w.setUpd (fun u =>
    { u with
      groupBase := rd 0, groupCount := rd 8, contourBase := rd 0x10, contourCount := rd 0x18, surveyBase := rd 0x20
      surveyCount := rd 0x28, seed := BitVec.ofNat 64 (rd 0x30)
      counters :=
        ((List.range 768).map (fun i => (i, BitVec.ofNat 64 (rd (0x140 + 8 * i))))).filter (fun x => x.2 != 0) })
  ((List.range 72).filter (present h)).foldl (fun w e => w.setEngine e (fun en => { en with gen := gen e })) w1

/-- Step 5. -/
def finishRestore (h : Hub) (w : Work) (r : CopierRun) : Work :=
  let w1 := if r.desc.listCount = 0 then restoreRegisters h w r.image else w
  endCopier h (w1.setCopier (fun c => { c with restoreBad := false, epoch := r.imageEpoch })) 0

/-- Step 3: a piece has been read. -/
def restorePiece (h : Hub) (w : Work) (r : CopierRun) : Work :=
  match r.work with
  | [] => finishRestore h w r
  | (k, a) :: rest =>
    let bs := memRead r.buffer 0 pieceSize
    let err := firstFailure r 0x0907
    if !r.failed.isEmpty && err.1.toNat / 256 == 5 then stopCopier h w 0x0905 0 err
    else if !r.failed.isEmpty then stopCopier h w 0x0907 0 err
    else if crc32 bs != (r.crcs.getD k (0, 0)).2 || !inLpddr h a pieceSize then
      stopCopier h w 0x0907 0 (0x0907, slotBase r + 0xA00000 + k * pieceSize)
    else
      let r1 := { clearReads r with work := rest }
      nextPiece h ((putPiece w a bs).setCopier (fun c => { c with run := some r1, done := c.done + 1 })) r1

/-- What a restore does next, when nothing it reads is missing. -/
def restoreNext (h : Hub) (w : Work) : Work :=
  match w.copier.run with
  | none => w
  | some r =>
    if !r.missing.isEmpty then w
    else if r.stage = 0 then restoreRecords h w r
    else if r.stage = 1 then restoreCheck h w r
    else restorePiece h w r

def repeatWork (f : Work → Work) : Nat → Work → Work
  | 0, w => w
  | n + 1, w => repeatWork f n (f w)

/-- A restore or refill is accepted. -/
def beginRun (h : Hub) (w : Work) (phase : Nat) (r : CopierRun) : Work :=
  enterCopierPhase h (w.setCopier (fun c => { c with run := some r })) phase

def goRestore (h : Hub) (w : Work) : Work :=
  if copierBusy w then refuseCopier h w 0x0901
  else
    match readCopierDesc h w with
    | none => refuseCopier h w 0x0902
    | some (_, d) =>
      if listDescBad h d then refuseCopier h w 0x0902
      else
        match readRegions h w d with
        | .error (c, a) => refuseCopier h (copierReadError h w c a) 0x0902
        | .ok rs =>
          let w1 := beginRun h w 4 { freshRun d with regions := rs }
          let w2 := startRead h (startRead h w1 false 3 d.slot0 256 0) false 3 d.slot1 256 256
          repeatWork (fun w => match w.copier.run with
            | some r => if r.stage < 2 then restoreNext h w else w
            | none => w) 2 w2

def execRestoreComplete (s : State) : Out :=
  onWork s fun h w =>
    match w.copier.run with
    | some r => if w.copier.phase = 4 then repeatWork (restoreNext h) (w.copier.total + r.pieces.length + 393220) w else w
    | none => w

/-! ### Refill (R415, R416, R420) -/

/-- Begin the read of the next piece from the first source that has not failed, or stop with 0x0908. -/
def nextSource (h : Hub) (w : Work) : Work :=
  match w.copier.run with
  | none => w
  | some r =>
    match r.work with
    | [] => endCopier h w 0
    | (a, ix) :: _ =>
      match ((r.regions.getD ix ⟨0, 0, []⟩).sources.filter (fun m => !r.failedSources.contains m)).head? with
      | none => stopCopier h w 0x0908 ix (w.copier.errCode, w.copier.errAddr.toNat)
      | some m =>
        startRead h (w.setRun (fun x => { clearReads x with source := m, stage := 1 })) true 2 (m * 2 ^ 47 + a) pieceSize 0

/-- A piece of a refill has been read, or its source has failed. -/
def refillPiece (h : Hub) (w : Work) (r : CopierRun) (a ix : Nat) (rest : List (Nat × Nat)) : Work :=
  match r.failed with
  | (_, c, x) :: _ =>
    nextSource h ((setCopierErr w c ix x).setRun (fun y => { y with failedSources := r.source :: y.failedSources }))
  | [] =>
    match (if a % pieceSize = 0 then moduleAddr h w true a else .error 0x0203) with
    | .error c => stopCopier h w 0x0902 ix (c, atlasOf a)
    | .ok p =>
      let w1 := (putPiece w p (memRead r.buffer 0 pieceSize)).setRun (fun y => { y with work := rest })
      nextSource h (w1.setCopier (fun c => { c with done := c.done + 1 }))

def refillNext (h : Hub) (w : Work) : Work :=
  match w.copier.run with
  | none => w
  | some r =>
    if !r.missing.isEmpty then w
    else
      match r.work with
      | [] => endCopier h w 0
      | (a, ix) :: rest => if r.stage = 0 then nextSource h w else refillPiece h w r a ix rest

/-- The pieces of a region list, in order. -/
def refillWork (rs : List RefillEntry) : List (Nat × Nat) :=
  (rs.zipIdx).flatMap (fun x => (List.range x.1.pieces).map (fun i => (x.1.addr + i * pieceSize, x.2)))

def goRefill (h : Hub) (w : Work) : Work :=
  if copierBusy w then refuseCopier h w 0x0901
  else
    match readCopierDesc h w with
    | none => refuseCopier h w 0x0902
    | some (_, d) =>
      if listDescBad h d then refuseCopier h w 0x0902
      else
        match readRegions h w d with
        | .error (c, a) => refuseCopier h (copierReadError h w c a) 0x0902
        | .ok rs =>
          let todo := refillWork rs
          refillNext h
            (beginRun h (w.setCopier (fun c => { c with done := 0, total := todo.length })) 5
              { freshRun d with regions := rs, work := todo })

def execRefillComplete (s : State) : Out :=
  onWork s fun h w =>
    match w.copier.run with
    | some r =>
      if w.copier.phase = 5 then repeatWork (refillNext h) (2 * r.work.length + 3 * r.regions.length + 1) w else w
    | none => w

/-! ### COPIER_GO (R406, R409, R411, R416, R427) -/

/-- The copier takes stores: it stands on a host die, which has power and its reference (15 R487). -/
def copierReady (h : Hub) : Bool := h.ident.powered && h.ident.powerState != 2 && !h.safety.refFail

/-- A store to COPIER_GO: ABORT first, and OP judged on the phase before the store. -/
def storeCopierGo (h : Hub) (w : Work) (v : Word) : Work :=
  let busy := w.copier.phase != 0
  let open_ := 1 ≤ w.copier.phase && w.copier.phase ≤ 3
  let w1 := if bitOf v.toNat 3 && open_ then endEpoch h w 0x0903 else w
  let op := bitsOf v.toNat 0 3
  if op < 1 ∨ 3 < op then w1
  else if busy then refuseCopier h w1 0x0901
  else if op = 1 then goSnapshot h w1
  else if op = 2 then goRestore h w1
  else goRefill h w1

/-- COPIER_GO with OP 1. -/
def execCopierSnapshot (v : Word) (s : State) : Out :=
  onWork s fun h w => if copierReady h && bitsOf v.toNat 0 3 == 1 then storeCopierGo h w v else w

/-- COPIER_GO with OP 2. -/
def execCopierRestore (v : Word) (s : State) : Out :=
  onWork s fun h w => if copierReady h && bitsOf v.toNat 0 3 == 2 then storeCopierGo h w v else w

/-- COPIER_GO with OP 3. -/
def execCopierRefill (v : Word) (s : State) : Out :=
  onWork s fun h w => if copierReady h && bitsOf v.toNat 0 3 == 3 then storeCopierGo h w v else w

/-- COPIER_GO with ABORT. -/
def execCopierAbort (v : Word) (s : State) : Out :=
  onWork s fun h w => if copierReady h && bitOf v.toNat 3 then storeCopierGo h w v else w

/-! ### The ledger (R414) -/

/-- Masters of the replica groups of the gazetteer. -/
def replicaMasters (h : Hub) (w : Work) : List Nat :=
  ((List.range 4096).filterMap (fun g =>
    match gazEntry h w g with
    | .error _ => none
    | .ok b => if gazValid b && bitsOf (fld b 0 4) 1 2 == 2 then some (fld b 0x18 4 % 2 ^ 17) else none)).eraseDups

/-- The loss at VERIFY_ADDR. -/
def verifyLoss (h : Hub) (w : Work) : Except (Code × Nat) Nat :=
  let a := w.copier.verifyAddr
  if a % 2 ≠ 0 ∨ !inOneRegion h a 6 then .error (0x0401, a)
  else
    match physRead h w a 6 with
    | .error e => .error e
    | .ok b => .ok (leNat b)

/-- The comparison; a loss that cannot be read leaves no result (DESIGN CHOICE, log 25). -/
def verifyNow (h : Hub) (w : Work) : Work :=
  let step := w.copier.verifyStep
  let en := w.copier.ledger.getD (step.toNat % 64) (BitVec.allOnes 64, 0)
  let result (w : Work) (n : Nat) (c : Code) : Work := copierStatus h (w.setCopier (fun x => { x with verifyResult := n })) c
  if en.1 ≠ step ∨ step = BitVec.allOnes 64 then result w 3 0x090A
  else
    match verifyLoss h w with
    | .error (c, a) => result (setCopierErr w c 0 (atlasOf a)) 0 c
    | .ok v =>
      if v = en.2.toNat then result w 1 0
      else
        raiseAlarm h (result (w.setCopier (fun c => { c with verifyFail := true })) 2 0x0909) 0x0909 53 (unitOf 8 0) []
          (replicaMasters h w)

def execVerifyGo (v : Word) (s : State) : Out :=
  onWork s fun h w => if copierReady h && bitOf v.toNat 0 then verifyNow h w else w

/-- LEDGER_LOSS enters the loss under LEDGER_STEP. -/
def execLedgerLoss (v : Word) (s : State) : Out :=
  onWork s fun h w =>
    if copierReady h then
      w.setCopier (fun c =>
        { c with ledger := c.ledger.set (c.ledgerStep.toNat % 64) (c.ledgerStep, v.setWidth 48) })
    else w

/-- A 1 written to VERIFY_FAIL. -/
def execVerifyFailClear (v : Word) (s : State) : Out :=
  onWork s fun h w =>
    if copierReady h && bitOf v.toNat 4 then w.setCopier (fun c => { c with verifyFail := false }) else w

end Sys2Proof.Machine
end

