-- ==== Sys2Proof/Machine/EngineRegs.lean ====
section
/-!
DEFINITION. Engine registers with a behaviour of their own (07 R210 to R214, 08 R236, 11 R360), self-parking (15 R484)
and the single-engine reset (07 R214, 15 R493).
-/

namespace Sys2Proof.Machine

/-! ### ENGINE_SELF_PARK (15 R484) -/

/-- Every stream is idle or disabled, and no instruction is incomplete. -/
def engineIdle (en : Engine) : Bool :=
  en.ops.isEmpty && en.streams.all (fun s => s.desc.isNone && !s.fault && !s.ringWaits) && en.saving.isNone

def execEngineSelfPark (e : Nat) (s : State) : Out :=
  onWork s fun h w =>
    if working h w e && engineIdle (w.engine e) then w.setEngine e (fun en => { en with selfParked := true }) else w

/-! ### Single-engine reset (07 R214) -/

/-- What a stream keeps in a reset: BASE, LOG2_SLOTS, NEXT_SEQ and its counters. -/
def resetStreamOf (s : Stream) : Stream :=
  { resetStream with
    log2 := s.log2, base := s.base, nextSeq := s.nextSeq, tokenWait := s.tokenWait, runTokenWait := s.runTokenWait }

/-- The array after a reset: no sets, its counters kept (15 R493). -/
def resetArrayOf (a : ArrayUnit) : ArrayUnit := { a with active := none, shadow := none }

/-- TRAP_STATUS and the record are cleared, TRAP_CTRL is kept (08 R236). -/
def resetTrapOf (t : TrapState) : TrapState := { resetTrap with enable := t.enable, record := t.record }

/-- Steps 1, 2, 4 and 5 on the engine itself. -/
def clearEngine (e : Nat) (en : Engine) : Engine :=
  { en with
    streams := en.streams.map resetStreamOf
    ops := []
    stopped := false
    saving := none
    resetting := true
    genHold := none
    tokenSat := false
    gen := resetGen e
    tokens := List.replicate 64 0
    notices := []
    arr := resetArrayOf en.arr
    tiles := [resetTile, resetTile]
    trap := resetTrapOf en.trap
    selfParked := false }

/-- Every REDUCE that names an engine whose own REDUCEs are gone is ended (07 R204). -/
def abandonReduces (h : Hub) (e : Nat) (mine : List ReduceP) (w : Work) : Work :=
  (List.range 256).foldl
    (fun w rid =>
      let own := mine.filter (fun p => p.reduceId == rid)
      let tables := ((liveReduces w rid).map (fun x => x.par.table) ++ own.map (fun p => p.table)).filter (fun t => t.contains e)
      if tables.isEmpty then w
      else endReduction h w rid 0x0213 (tables.flatten.eraseDups.filter (fun x => x != e)) (e :: own.flatMap joinedEngines))
    w

/-- Where the record of the descriptor that a stream holds goes, 0 for nowhere, and the ISN that it gives: that of its RUN,
and 0 for a descriptor of another type or one that has not begun (07 R174). -/
def resetRecord (h : Hub) (st : Stream) (d : Desc) : Nat × Word :=
  if st.running then (st.complAddr.toNat, st.isn)
  else
    let a := fld d.payload 8 8
    (if complOk h a then a else 0, 0)

/-- Completion records of the descriptors that the reset abandons, with code 0x0211. -/
def writeResetRecords (h : Hub) (e : Nat) (streams : List Stream) (w : Work) : Work :=
  (streams.zipIdx).foldl
    (fun w x =>
      match x.1.desc.map (resetRecord h x.1) with
      | none => w
      | some (a, isn) =>
        if a = 0 then w
        else
          match engineStore h w e true a (completionBytes e x.2 isn 0x0211) with
          | .ok w1 => w1
          | .error _ => w)
    w

/-! What operations in flight have written when their engine stops (07 R214 step 2; 15 R488, R489): how much of each was
accepted by then is free (DESIGN CHOICE, log 57). -/

/-- A free number from 0 to `n`. -/
def freePart (w : Work) (n : Nat) : Nat := (Config.freeWord w.freeIx).toNat % (n + 1)

/-- The operation is the one that its unit works on. -/
def atFront (en : Engine) (isOfUnit : Op → Bool) (o : Op) : Bool :=
  (en.ops.find? isOfUnit).map (fun x => x.id) == some o.id && mayStart en o && o.phase != .ran

/-- A drain has stored or handed over a part of its rows. -/
def stopDrain (w : Work) (e : Nat) (o : Op) (p : DrainP) (b : Option Nat) : Work :=
  match o.conv with
  | none => w
  | some ci =>
    if p.empty then w
    else
      let n := freePart w p.rows
      let s := drainRows w.tick e o p ci n n
      handOver s.work e b s.handed none

/-- An element-unit operation has written a part of its rows, and of the elements of one more. -/
def stopEu (w : Work) (o : Op) (p : EuP) (handed : List (List Nat)) : Work :=
  match o.conv with
  | none => w
  | some ci =>
    if p.empty then w
    else
      let n := freePart w (euRows p handed)
      let part := freePart w.tick p.cols
      let s := (List.range n).foldl (euRowStep o p ci handed) ⟨w.tick.tick, emptyCounts p.conv.dst, [], false⟩
      if n < euRows p handed then (euPartRow o p ci handed s n part).work else s.work

/-- What a transfer writes in this module. -/
def bulkParts (h : Hub) (w : Work) (e : Nat) (o : Op) (p : BulkP) : List (Nat × List Byte) :=
  if p.rowBytes = 0 ∨ p.rows = 0 then []
  else if !p.load then storeWords h w e p (storeSpans w o p).1 (fun _ _ => false)
  else if p.keep.isNone then loadParts h w e p (fun _ => false)
  else if !spanHere h p p.far then []
  else
    match farRead h w e p p.far 64 with
    | .ok hd => if headerRefused hd p.rowBytes p.rows then [] else frameParts h w e p hd (fun _ => false)
    | .error _ => []

/-- Each 64-byte word of a transfer's destination is old or new. -/
def stopBulk (h : Hub) (w : Work) (e : Nat) (o : Op) (p : BulkP) : Work :=
  partialWords w (bulkParts h w e o p) (fun w a bs =>
    if p.load then w.sram a bs
    else
      match farWrite h w e p a bs with
      | .ok w1 => w1
      | .error _ => w)

/-- Each 64-byte word of a reduction's root is old or new; a root that a NaN halts is not written (08 R234). -/
def stopReduce (w : Work) (e : Nat) (o : Op) (p : ReduceP) : Work :=
  if p.members ≤ 2 ^ nextLevel p then
    let r := rootRow w e o p
    if trapHalts o (rootNans r.1) then w
    else partialWords w (wordParts p.dstAddr (rowBytesOf .a48 r.2.1)) (fun w a bs => w.sram a bs)
  else w

def stopOp (h : Hub) (e : Nat) (w : Work) (o : Op) : Work :=
  let en := w.engine e
  match o.kind with
  | .drain p b => if atFront en isTileOp o then stopDrain w e o p b else w
  | .eu p _ handed _ _ => if atFront en isEu o then freeEuWaits (stopEu w o p handed) e else w
  | .bulk p => if mayTransfer en o then stopBulk h w e o p else w
  | .reduce p => if queueMayStart en o then stopReduce w e o p else w
  | .array p _ (some s) _ t =>
    if o.phase == .started then leaveArray w e o (o.planes + freePart w (planesFrom p s t - o.planes)) |>.tick else w
  | .inset _ => if o.phase == .started then freeInsetWaits w e else w
  | _ => w

/-- The operations of engine `e` stop where they are: drains first, since they hand rows to the element unit. -/
def stopOps (h : Hub) (w : Work) (e : Nat) : Work :=
  let w1 := ((w.engine e).ops.filter isTileOp).foldl (stopOp h e) w
  ((w1.engine e).ops.filter (fun o => !isTileOp o)).foldl (stopOp h e) w1

/-- A write of 1 to RESET: steps 1 to 5. -/
def resetEngineNow (h : Hub) (w : Work) (e : Nat) : Work :=
  let en := w.engine e
  let mine := en.ops.filterMap reduceOf
  let w1 := (stopOps h w e).setEngine e (fun en => { en with resetting := true, ops := [] })
  let w2 := abandonReduces h e mine w1
  let w3 := evictAll h
    (match en.saving with
     | some j => cutSave h w2 e j (fun _ => false)
     | none => w2) (fun a _ => a == agentOf e)
  (writeResetRecords h e en.streams w3).setEngine e (clearEngine e)

def execSingleEngineReset (e : Nat) (v : Word) (s : State) : Out :=
  onWork s fun h w =>
    if e < 72 && bitOf v.toNat 0 && !(w.engine e).resetting && h.ident.powered && h.ident.complexReady then
      resetEngineNow h w e
    else w

/-- Step 6: RESETTING becomes 0. -/
def execSingleEngineResetDone (e : Nat) (s : State) : Out :=
  onWork s fun _ w => w.setEngine e (fun en => { en with resetting := false })

/-! ### QCFG (07 R211) -/

/-- A write to QCFG: LOG2_SLOTS and BASE change only while ENABLE is 0; ENABLE is set only for a good ring. -/
def writeQcfg (h : Hub) (st : Stream) (v : Word) : Stream :=
  let n := v.toNat
  let s1 := if st.enable then st else { st with log2 := bitsOf n 0 5, base := bitsOf n 12 35 * 4096 }
  if !bitOf n 5 then { s1 with enable := false }
  else if st.enable then s1
  else if 4 ≤ s1.log2 ∧ s1.log2 ≤ 16 ∧ inLpddr h s1.base (2 ^ s1.log2 * 64) then
    { s1 with enable := true, hint := none, rereads := 0, unsealed := false, ringWaits := false }
  else { s1 with enable := false }

def execQcfgWrite (e q : Nat) (v : Word) (s : State) : Out :=
  onWork s fun h w => w.setStream e q (fun st => writeQcfg h st v)

/-! ### STREAM_STATUS.FAULT (07 R206, R212) -/

/-- A 1 written to FAULT returns a faulted stream to idle or disabled, and it takes its next descriptor. -/
def execStreamFaultClear (e q : Nat) (v : Word) (s : State) : Out :=
  onWork s fun h w =>
    if (w.stream e q).fault && bitOf v.toNat 4 then
      let w1 := w.setStream e q (fun st => { st with fault := false })
      if working h w1 e then readQueue h w1 e q else w1.setStream e q (fun st => { st with ringWaits := st.enable })
    else w

/-! ### TRAP_STATUS.FIRED (08 R236) -/

def execTrapRearm (e : Nat) (v : Word) (s : State) : Out :=
  onWork s fun _ w =>
    if bitOf v.toNat 0 then w.setEngine e (fun en => { en with trap := { en.trap with fired := false, count := 0 } }) else w

/-! ### XLATE_INVAL (11 R325, R360) -/

/-- A write of 1 to INVAL: every kept translation is dropped, and PENDING shows it until the accesses before it are over. -/
def execXlateInval (e : Nat) (v : Word) (s : State) : Out :=
  onWork s fun _ w =>
    if bitOf v.toNat 0 then w.setEngine e (fun en => { en with xl := { en.xl with pending := true } }) else w

def execXlateInvalDone (e : Nat) (s : State) : Out :=
  onWork s fun _ w =>
    w.setEngine e (fun en => if en.xl.pending then { en with xl := { en.xl with pending := false, kept := [] } } else en)

end Sys2Proof.Machine
end

