-- ==== Sys2Proof/Machine/Resets.lean ====
section
/-!
DEFINITION. Resets and power states (15 R483 to R493): the engine-complex reset, the module warm reset, cold power-on,
Module standby, and the host link.
-/

namespace Sys2Proof.Machine

/-! ### Work in flight at a reset (R488, R489) -/

/-- The operations of every engine stop; a free part of their writes was accepted. -/
def stopEngines (h : Hub) (w : Work) : Work := (List.range 72).foldl (stopOps h) w

/-- Every agent stops issuing: engines, update units and the collective logic. -/
def stopAgents (h : Hub) (w : Work) : Work :=
  let w1 := stopEngines h w
  let w2 := match w1.upd.run with
    | some r => if w1.upd.phase = 3 ∨ w1.upd.phase = 4 then interruptUnits h w1 r else w1
    | none => w1
  w2.colls.queues.foldl
    (fun w q => match q.cur with
      | some c => partDst h w c
      | none => w)
    w2

/-! ### The parts of an engine-complex reset (R489) -/

/-- Collectives in flight complete with 0x0503 and send the abort of 12 R394. -/
def abortCollectives (h : Hub) (w : Work) (code : Code) : Work :=
  (List.range 16).foldl
    (fun w k => match (collQ w k).cur with
      | some c => abortColl h w k c code
      | none => w)
    w

/-- A step of the update in progress ends with OUTCOME 5 and STATUS 0x0701, leaving the state of 09 R270. -/
def resetUpdateStep (h : Hub) (w : Work) : Work :=
  if w.upd.phase = 0 then w
  else
    match w.upd.run with
    | none => endStep h w w.upd.accepted 5 0x0701
    | some r =>
      let w1 := if w.upd.phase = 3 ∨ w.upd.phase = 4 then interruptUnits h w r else w
      let key := (r.desc.voteGroup, r.desc.step)
      let w2 :=
        if w.upd.phase = 2 ∧ r.index = 0 then
          w1.setUpd (fun u =>
            { u with
              decided := key :: u.decided
              boxes := u.boxes.filter (fun b => !(b.group == key.1 && b.step == key.2)) })
        else w1
      endStep h w2 r.desc.step 5 0x0701

/-- An open epoch ends under 13 R409; a restore or refill ends where it stands (13 R412, R420). -/
def resetCopierRun (h : Hub) (w : Work) : Work :=
  if w.copier.phase = 0 then w
  else if w.copier.phase ≤ 3 then endEpoch h w 0x0903
  else endCopier h w 0x0701

/-- An edge cache can still reach the home of a line: those of M0 to M7 lie across the host link, whose two halves both
lead there by the rings (DEDUCED, log 28). -/
def reachable (h : Hub) (ln : Nat) : Bool := decide (8 ≤ lineHome ln) || h.ident.links.any id

/-- Dirty lines of the edge caches that are lost. -/
def lostLines (h : Hub) (w : Work) : Nat :=
  w.coh.lines.countP (fun l => decide (8 ≤ l.agent) && dirty l && !reachable h l.line)

/-- Step 3: what leaves the edge caches, and what vanishes. -/
def flushEdges (h : Hub) (w : Work) : Work :=
  let w1 := evictAll h w (fun a ln => decide (8 ≤ a) && reachable h ln)
  { w1 with
    coh :=
      { w1.coh with
        lines := w1.coh.lines.filter (fun l => l.agent < 8)
        victims := w1.coh.victims.filter (fun v => v.agent < 8) } }

/-- Step 6: what leaves the cluster caches. -/
def flushClusters (h : Hub) (w : Work) : Work := evictAll h w (fun a ln => decide (a < 8) && decide (8 ≤ lineHome ln))

/-- An agent of the engine complex. -/
def isEdgeAgent (a : Nat) : Bool := decide (8 ≤ a ∧ a < 80)

/-- A request that a home of M0 to M7 holds for an engine, or for a step that the reset ends. -/
def leavesHome : HeldReq → Bool
  | .command (.readUnique a _ _) => isEdgeAgent a
  | .command (.upgrade a _ _) => isEdgeAgent a
  | .own a _ _ => isEdgeAgent a
  | .step _ _ => true
  | _ => false

/-- The homes of M8 to M23 reset; requests not yet accepted there, and those of the edge caches, are abandoned. -/
def resetHomes (w : Work) : Work :=
  { w with
    coh :=
      { w.coh with
        homes := w.coh.homes.mapIdx (fun i hm =>
          if 8 ≤ i then resetHome
          else
            { hm with
              txns := hm.txns.filter (fun t => !isEdgeAgent t.agent)
              held := hm.held.filter (fun r => !leavesHome r) }) } }

/-- A core whose access waits at a home of M8 to M23 takes the precise access fault (R489). -/
def faultCores (h : Hub) (w : Work) : Work :=
  ((w.coh.homes.drop 8).flatMap (fun hm => hm.txns.filter (fun t => t.agent < 8))).foldl
    (fun w t => coreFault h w t.agent t.addr) w

/-- Every engine resets; FW4 writes TENSOR_TABLE and XLATE_BASE again; FW3's counts go on. -/
def resetEngines (w : Work) : Work :=
  { w with
    engines := w.engines.mapIdx (fun e en =>
      { resetEngine e with
        ttLog2 := w.tables.ttLog2
        ttBase := w.tables.ttBase
        xl := { resetXlate with enable := w.tables.xlEnable, base := w.tables.xlBase }
        ras := en.ras }) }

/-- Engine SRAM is cleared. -/
def clearSram (h : Hub) (w : Work) : Work := { w with mem := w.mem.filter (fun c => c.1 < lpddrEnd h) }

def isEngineRequest : Requester → Bool
  | .bulk _ _ _ => true
  | .atomicOp _ _ => true
  | .signalOp _ _ => true
  | _ => false

def dropEngineRequests (w : Work) : Work :=
  { w with fabric := { w.fabric with requests := w.fabric.requests.filter (fun r => !isEngineRequest r.2) } }

/-- The state of the engine complex is lost (steps 2 to 6). -/
def loseComplex (h : Hub) (w : Work) : Work :=
  flushClusters h (clearSram h (resetEngines (dropEngineRequests (resetHomes (flushEdges h (faultCores h w))))))

/-- Step 1, and what else ends with the complex: its operations, remote requests, collectives and the update in progress. -/
def endComplexWork (h : Hub) (w : Work) : Work :=
  resetUpdateStep h (abortCollectives h (refuseInbox h (stopEngines h w)) 0x0503)

def setReady (h : Hub) (b : Bool) : Hub := { h with ident := { h.ident with complexReady := b } }

/-- An engine-complex reset from its beginning to step 6; ENGINE_COMPLEX_READY ends it. The log record counts the lost
lines in its first four bytes (DESIGN CHOICE, log 28). -/
def complexReset (h : Hub) (w : Work) : Hub × Work :=
  let h1 := setReady h false
  let w1 := endComplexWork h1 (resetCopierRun h1 w)
  let n := lostLines h1 w1
  (h1, emit h1 (loseComplex h1 w1) ⟨10, 0x0701, 53, unitOf 0 0, 0, leBytes 4 n⟩)

/-! ### Module warm reset and cold power-on (R488, R493, 17 R526) -/

/-- The register state of the hub after a module warm reset; the safety partition and the flash keep theirs. -/
def warmHub (h : Hub) : Hub :=
  { ident :=
      { resetIdent with
        variant := h.ident.variant, serial := h.ident.serial, flashBank := (bankRecord h.fw.flash).active }
    fw :=
      { resetFirmware with
        flash := h.fw.flash
        procs := h.fw.procs.map (fun p => { resetFwProc with dump := p.dump, restarts := p.restarts })
        update := { resetFirmware.update with trial := (bankRecord h.fw.flash).trial } }
    safety := { h.safety with requestMv := 650 }
    sec :=
      { resetSecurity with
        coldWaits := h.sec.coldWaits, spiOpen := h.sec.spiOpen, bypass := h.sec.bypass, debugIr := h.sec.debugIr } }

/-- The working state after a module warm reset: LPDDR5X, the loss ledger, the domain counters and the causal clock stay. -/
def warmWork (h : Hub) (w : Work) : Work :=
  { resetWork with
    mem := w.mem.filter (fun c => c.1 < lpddrEnd h)
    copier := { resetCopier with ledger := w.copier.ledger }
    fabric := { resetFabric with referenceLost := w.fabric.referenceLost }
    logs :=
      { resetLogs with causal := w.logs.causal, procCausal := w.logs.procCausal, domainCounts := w.logs.domainCounts }
    replies := w.replies
    freeIx := w.freeIx }

/-- The boot follows, unless the reference is lost or the flash is in a programmer's hands (R451, 19 R544, R551). -/
def bootAfter (h : Hub) (w : Work) : Hub × Work :=
  if h.safety.refFail || h.sec.spiOpen then (h, w)
  else runBoot { h with sec := { h.sec with coldWaits := false } } w h.sec.coldWaits

/-- An open epoch ends, and its SP bits are cleared (13 R409). -/
def endOpenEpoch (h : Hub) (w : Work) : Work :=
  if 1 ≤ w.copier.phase ∧ w.copier.phase ≤ 3 then endEpoch h w 0x0903 else w

def warmReset (h : Hub) (w : Work) : Hub × Work := bootAfter (warmHub h) (warmWork h (endOpenEpoch h (stopAgents h w)))

/-- Cold power-on: what the flash and the part itself hold stays, and so does the state of the two reference inputs. -/
def coldHub (h : Hub) : Hub :=
  { ident :=
      { resetIdent with
        variant := h.ident.variant, serial := h.ident.serial, flashBank := (bankRecord h.fw.flash).active }
    fw :=
      { resetFirmware with
        flash := h.fw.flash
        update := { resetFirmware.update with trial := (bankRecord h.fw.flash).trial } }
    safety :=
      { resetSafety with
        tripCount := h.safety.tripCount
        tripLog := h.safety.tripLog
        refFail := h.safety.refFail }
    sec := resetSecurity }

def coldWork (w : Work) : Work :=
  { resetWork with
    fabric := { resetFabric with referenceLost := w.fabric.referenceLost }
    freeIx := w.freeIx }

/-- The input has stayed at or above 50 V for 100 ms with PRESENT_N low: the module, Off or not yet booted, starts
(19 R540). -/
def execColdPowerOn (volts presentLow : Bool) (s : State) : Out :=
  if volts ∧ presentLow ∧ (!s.hub.ident.powered ∨ s.hub.sec.coldWaits) ∧ !s.hub.safety.refFail then
    onState s (bootAfter (coldHub s.hub) (coldWork s.work))
  else if volts ∧ presentLow ∧ !s.hub.ident.powered then onState s (coldHub s.hub, coldWork s.work)
  else .next s

/-- A reset is ignored while the module is Off or stops (R491). -/
def mayReset (h : Hub) : Bool := h.ident.powered && !h.safety.stopping

def execModuleWarmReset (s : State) : Out :=
  if mayReset s.hub then onState s (warmReset s.hub s.work) else .next s

/-- The complex runs, so that a reset of it can begin. -/
def complexRuns (h : Hub) : Bool := mayReset h && h.ident.complexReady && h.ident.powerState != 2

def execEngineComplexReset (s : State) : Out :=
  if complexRuns s.hub then onState s (complexReset s.hub s.work) else .next s

/-! ### RESET_REQUEST and the end of an engine-complex reset (R491, 14 R446) -/

/-- The reset that a RESET_REQUEST asks for. -/
def requestedReset (h : Hub) (w : Work) (kind proc : Nat) : Hub × Work :=
  if !mayReset h then (h, w)
  else if kind = 1 then warmReset h w
  else if kind = 2 then (if complexRuns h then complexReset h w else (h, w))
  else if fwRuns h proc then triggerRestart h w.tick proc 5 (sixthRestart h w proc) none
  else (h, w)

/-- The reset requests that waited go on, one after another, until one of them begins a reset of the complex or the
module. -/
def serveResets : List (Nat × Nat) → Hub × Work → Hub × Work
  | [], x => x
  | r :: rs, x =>
    let y := requestedReset x.1 x.2 r.1 r.2
    if y.1.ident.complexReady then serveResets rs y
    else if r.1 = 1 then y
    else ({ y.1 with fw := { y.1.fw with pendingResets := rs } }, y.2)

/-- The reset, or the boot, is finished: ENGINE_COMPLEX_READY becomes 1 and the RESET_REQUESTs that waited go on. -/
def execEngineComplexReady (s : State) : Out :=
  let h := s.hub
  if h.ident.powered ∧ h.ident.bootDone ∧ !h.sec.stoppedBoot ∧ !h.safety.refFail ∧ h.ident.powerState ≠ 2 ∧
      !h.ident.complexReady then
    let h1 := setReady h true
    onState s (serveResets h1.fw.pendingResets ({ h1 with fw := { h1.fw with pendingResets := [] } }, s.work))
  else .next s

/-! ### The host link (R490) -/

def setLink (h : Hub) (link : Nat) (up : Bool) : Hub :=
  { h with ident := { h.ident with links := h.ident.links.set link up } }

def execHostLinkFailure (link : Nat) (s : State) : Out :=
  if s.hub.ident.powered then .next { s with hub := setLink s.hub link false } else .next s

def execHostLinkRetrained (link : Nat) (s : State) : Out :=
  if s.hub.ident.powered ∧ s.hub.ident.powerState ≠ 2 then .next { s with hub := setLink s.hub link true } else .next s

/-- 2 ms have passed and the link is not trained. -/
def execHostLinkTimeout (link : Nat) (s : State) : Out :=
  if s.hub.ident.links.getD link true = false ∧ complexRuns s.hub then
    let w1 := raiseAlarm s.hub s.work 0x0701 53 (unitOf 0 0) [] []
    onState s (complexReset s.hub w1)
  else .next s

/-- A ring fault at a stop, which has the number of its agent or home (11 R335): those of engines are counted per engine,
the others with the homes and rings (13 R423, 14 RAS_COUNTS). -/
def countRingFault (w : Work) (stop : Nat) : Work :=
  if 8 ≤ stop ∧ stop < 80 then w.setEngine (stop - 8) (fun en => { en with ras := { en.ras with ring := min (en.ras.ring + 1) max32 } })
  else { w with coh := { w.coh with homeRing := min (w.coh.homeRing + 1) max32 } }

/-- A message's second parity failure is a ring fault at the stop that found it (11 R334). -/
def execRingParityFailure (m : RingMessage) (s : State) : Out :=
  let w := s.work
  if !s.hub.ident.powered then .next s
  else
    let c := w.coh
    if c.resent.contains m.number then
      let w1 := countRingFault { w with coh := { c with resent := c.resent.filter (fun x => x != m.number) } } m.stop
      let w2 := raiseAlarm s.hub w1 0x0701 53 (unitOf 0 0) [] []
      if complexRuns s.hub then onState s (complexReset s.hub w2) else onState s (s.hub, w2)
    else onState s (s.hub, { w with coh := { c with resent := c.resent ++ [m.number] } })

/-! ### Power states (R483 to R486) -/

/-- Engines go on where they stood: WAITs are served, and rings whose reads waited are read. -/
def wakeEngines (h : Hub) (w : Work) : Work :=
  (List.range 72).foldl (fun w e => wakeStreams h (serveTokens h w e) e) w

def setPower (h : Hub) (st : Nat) : Hub := { h with ident := { h.ident with powerState := st } }

/-- A port that is down holds nothing: its packets are resent by the transport over other ports (R364). -/
def downPort (p : Port) : Port :=
  { p with
    st := .down
    attempts := 0
    queues := [[], [], [], []]
    held := []
    failed := []
    credits := [1024, 1024, 1024, 1024]
    deficit := [0, 0, 0, 0]
    turn := 0 }

def portsDown (w : Work) : Work := { w with fabric := { w.fabric with ports := w.fabric.ports.map downPort } }

/-- FW2 reports each port that goes down (R486 step 2). -/
def reportPortsDown (h : Hub) (w : Work) : Work :=
  (List.range 16).foldl (fun x n => if (portOf w n).st == .down then x else portLog h x n) (portsDown w)

/-- Steps 1 to 3 of the entry into Module standby. -/
def enterStandby (h : Hub) (w : Work) : Hub × Work :=
  let h1 := setReady h false
  (setPower h1 2, loseComplex h1 (reportPortsDown h1 (endComplexWork h1 (evictAll h1 w (fun _ _ => true)))))

/-- Step 5: FW0 and FW2 to FW5 suspend. -/
def suspendProcs (h : Hub) : Hub :=
  { h with ident := { h.ident with fwAlive := (List.range 6).map (fun n => n == 1 && h.ident.fwAlive.getD n false) } }

/-- Module standby is left: the processors go on, and FW2 brings the links up; ENGINE_COMPLEX_READY follows. -/
def leaveStandby (h : Hub) (w : Work) : Hub × Work :=
  if h.ident.powered ∧ h.ident.powerState = 2 then
    let h1 : Hub :=
      { (setPower h 0) with
        ident := { (setPower h 0).ident with fwAlive := (List.range 6).map (fun n => (h.proc n).st == 1) } }
    (h1, trainPorts h1 w)
  else (h, w)

end Sys2Proof.Machine
end

