-- ==== Sys2Proof/Machine/FwCommands.lean ====
section
/-!
DEFINITION. The mailbox commands that FW0 and FW1 serve (14 R446, R456 to R462, 15 R472, R485, R486, 16 R499, R500):
versions, resets, power, firmware staging and activation, and the configuration record; and an opcode that is in no table.
-/

namespace Sys2Proof.Machine

/-- The command is done, with status 0 and a result. -/
def mbDone (h : Hub) (w : Work) (result : List Byte) : MbResult := ⟨h, w, some (0, result)⟩

/-- The command waits in its mailbox: nothing changes yet. -/
def mbWait (h : Hub) (w : Work) : MbResult := ⟨h, w, none⟩

/-- The opcodes of R446. -/
def knownCommand (op : Nat) : Bool :=
  let n := op % 256
  match op / 256 with
  | 1 => decide (1 ≤ n ∧ n ≤ 2)
  | 2 => decide (1 ≤ n ∧ n ≤ 2)
  | 3 => decide (1 ≤ n ∧ n ≤ 12)
  | 4 => decide (1 ≤ n ∧ n ≤ 5)
  | 5 => decide (1 ≤ n ∧ n ≤ 6)
  | 6 => decide (n = 1)
  | 7 => decide (1 ≤ n ∧ n ≤ 6)
  | _ => false

def execMailboxUnknownOpcode (k : Nat) (s : State) : Out :=
  match heldCommand s.hub k (fun o => !knownCommand o) with
  | none => .next s
  | some _ => wholeCommand s k (completeCommand s.hub s.work k 0x0602 [])

/-! ### GET_VERSIONS and RESET_REQUEST -/

def runGetVersions (h : Hub) (w : Work) (_ : Nat) (_ : List Byte) : MbResult :=
  let staged := if h.fw.update.stage = 3 then h.fw.update.stagedVersion.toNat else 0
  mbDone h w (leBytes 8 h.sec.running.version.toNat ++ leBytes 8 staged ++ leBytes 1 h.ident.flashBank)

def execGetVersions (k : Nat) (s : State) : Out := serveCommand 0x0101 0 false [] runGetVersions k s

def resetArgsBad (p : List Byte) : Bool :=
  let kind := fld p 8 1
  kind == 0 || decide (3 < kind) || (kind == 3 && decide (5 < fld p 9 1))

def runResetRequest (h : Hub) (w : Work) (_ : Nat) (p : List Byte) : MbResult :=
  if resetArgsBad p then mbRefuse h w 0x0604 else mbDone h w []

/-- The reset follows its completion; one asked for during an engine-complex reset waits (15 R491). -/
def beginRequested (p : List Byte) (h : Hub) (w : Work) : Hub × Work :=
  if h.ident.complexReady then requestedReset h w (fld p 8 1) (fld p 9 1)
  else ({ h with fw := { h.fw with pendingResets := h.fw.pendingResets ++ [(fld p 8 1, fld p 9 1)] } }, w)

def execResetRequest (k : Nat) (s : State) : Out :=
  serveCommandThen 0x0102 0 true [(8, 1), (9, 1)] runResetRequest beginRequested k s

/-! ### Power -/

/-- No stream is in a STATE other than 0 or 8, and no step is in progress (15 R485). -/
def mayIdle (h : Hub) (w : Work) : Bool :=
  w.upd.phase == 0 &&
    (List.range 72).all (fun e =>
      !present h e || (List.range 4).all (fun q => streamState h w e q == 0 || streamState h w e q == 8))

/-- A firmware staging or activation is in progress (15 R485). -/
def updateBusy (h : Hub) : Bool :=
  h.fw.update.stage == 1 || h.fw.update.stage == 2 || h.fw.procs.any (fun p => p.st == 4)

def epochOpen (w : Work) : Bool := 1 ≤ w.copier.phase && w.copier.phase ≤ 3

def runSetPowerState (h : Hub) (w : Work) (_ : Nat) (p : List Byte) : MbResult :=
  let st := fld p 8 1
  let now := h.ident.powerState
  if 2 < st then mbRefuse h w 0x0604
  else if st = 1 ∧ !mayIdle h w then mbRefuse h w 0x0606
  else if st = now then mbDone h w []
  else if st = 0 then
    let h1 := setPower h 0
    mbDone h1 (wakeEngines h1 w) []
  else if st = 1 then mbDone (setPower h 1) w []
  else if now ≠ 1 || updateBusy h then mbRefuse h w 0x0606
  else if epochOpen w then mbWait h w
  else
    let r := enterStandby h w
    mbDone r.1 r.2 []

/-- The cores and the other processors suspend after the completion (15 R486 step 5). -/
def suspendAfter (p : List Byte) (h : Hub) (w : Work) : Hub × Work :=
  if fld p 8 1 = 2 ∧ h.ident.powerState = 2 then (suspendProcs h, w) else (h, w)

def execSetPowerState (k : Nat) (s : State) : Out :=
  serveCommandThen 0x0201 1 true [(8, 1)] runSetPowerState suspendAfter k s

def runSetPowerCap (h : Hub) (w : Work) (_ : Nat) (p : List Byte) : MbResult :=
  let cap := fld p 8 4
  if cap < 1000 ∨ 2300 < cap then mbRefuse h w 0x0604 else mbDone { h with fw := { h.fw with powerCap := cap } } w []

def execSetPowerCap (k : Nat) (s : State) : Out := serveCommand 0x0202 1 true [(8, 4)] runSetPowerCap k s

/-! ### Staging (14 R457, R458, R461) -/

def Hub.setUpdate (h : Hub) (f : FwUpdate → FwUpdate) : Hub := { h with fw := { h.fw with update := f h.fw.update } }

/-- The erased or programmed bytes of the inactive bank. -/
def Hub.setBank (h : Hub) (b : Nat) (m : List Host.Cell) : Hub :=
  let f := h.fw.flash
  { h with fw := { h.fw with flash := if b = 0 then { f with bank0 := m } else { f with bank1 := m } } }

/-- FW0 is erasing the inactive bank, whose contents are gone from the start of the erase (R463). -/
def erasing (h : Hub) : Bool := h.fw.update.waitingMailbox.isSome

def runStageBegin (h : Hub) (w : Work) (k : Nat) (p : List Byte) : MbResult :=
  let n := fld p 8 8
  if n = 0 ∨ n % 4096 ≠ 0 ∨ maxBundle < n then mbRefuse h w 0x0604
  else if h.fw.update.deferred ∨ h.fw.update.trial then mbRefuse h w 0x0606
  else if erasing h then mbWait h w
  else
    mbLater
      ((h.setBank (stagedBank h) []).setUpdate (fun u =>
        { u with
          stage := 1
          stagedKib := 0
          bundleBytes := n
          stagedVersion := 0
          stagedDigest := []
          waitingMailbox := some k }))
      w k

def execFwStageBegin (k : Nat) (s : State) : Out := serveCommand 0x0701 0 true [(8, 8)] runStageBegin k s

/-- The erase is finished; a cancellation meanwhile leaves STAGE_STATE 0 (DESIGN CHOICE, log 31). -/
def execEraseComplete (s : State) : Out :=
  let h := s.hub
  match h.fw.update.waitingMailbox with
  | none => .next s
  | some k =>
    if !fwRuns h 0 then .next s
    else
      let h1 := h.setUpdate (fun u =>
        { u with stage := if u.stage = 1 then 2 else u.stage, waitingMailbox := none })
      match (h1.mailbox k).cmd with
      | none => onState s (h1, s.work)
      | some d =>
        if d.kind = 0x0701 ∧ (h1.mailbox k).busyLong ∧ fwRuns h1 4 then onState s (completeCommand h1 s.work k 0 [])
        else onState s (h1, s.work)

def runStageWrite (h : Hub) (w : Work) (_ : Nat) (p : List Byte) : MbResult :=
  let src := fld p 8 8
  let off := fld p 0x10 4
  let n := fld p 0x14 4
  let u := h.fw.update
  if src % 4096 ≠ 0 ∨ n % 4096 ≠ 0 ∨ 0x1000000 < n ∨ (n ≠ 0 ∧ !inLpddr h src n) then mbRefuse h w 0x0604
  else if u.stage ≠ 2 ∨ off ≠ u.stagedKib * 1024 ∨ u.bundleBytes < off + n then mbRefuse h w 0x0607
  else
    match fwRead h w src n with
    | .error c => mbRefuse h w c
    | .ok bs =>
      let b := stagedBank h
      mbDone ((h.setBank b (bankWrite (h.fw.flash.bank b) off bs)).setUpdate (fun u => { u with stagedKib := u.stagedKib + n / 1024 }))
        w []

def execFwStageWrite (k : Nat) (s : State) : Out :=
  serveCommand 0x0702 0 true [(8, 8), (0x10, 4), (0x14, 4)] runStageWrite k s

/-- With nothing staged there is nothing to check: 0x0607 (DEDUCED, log 31). -/
def runStageVerify (h : Hub) (w : Work) (_ : Nat) (_ : List Byte) : MbResult :=
  if h.fw.update.stage < 2 then mbRefuse h w 0x0607
  else
    let m := h.fw.flash.bank (stagedBank h)
    let c := bundleCode m
    if c ≠ 0 then mbRefuse (h.setUpdate (fun u => { u with stage := 4 })) w c
    else
      let id := bundleId m
      mbDone (h.setUpdate (fun u => { u with stage := 3, stagedVersion := id.version, stagedDigest := imageDigests m })) w
        (leBytes 8 id.version.toNat)

def execFwStageVerify (k : Nat) (s : State) : Out := serveCommand 0x0703 0 true [] runStageVerify k s

/-! ### Activation and its cancellation (14 R459, R460) -/

def runActivate (h : Hub) (w : Work) (k : Nat) (_ : List Byte) : MbResult :=
  let u := h.fw.update
  if u.stage ≠ 3 then mbRefuse h w 0x0607
  else if u.deferred ∨ u.trial then mbRefuse h w 0x0606
  else if emergency h.safety then mbRefuse (h.setUpdate (fun u => { u with deferred := true })) w 0x0605
  else
    match (h.mailbox k).cmd with
    | none => mbWait h w
    | some d =>
      let r := activate (mbLater h w k).hub w (some (k, BitVec.ofNat 64 (fld d.payload 0 8), d.seq))
      ⟨r.1, r.2, none⟩

def execFwActivate (k : Nat) (s : State) : Out := serveCommand 0x0704 0 true [] runActivate k s

def runCancel (h : Hub) (w : Work) (_ : Nat) (_ : List Byte) : MbResult :=
  let u := h.fw.update
  if u.deferred then mbDone (h.setUpdate (fun u => { u with deferred := false })) w []
  else if u.stage = 1 ∨ u.stage = 2 then mbDone (h.setUpdate (fun u => { u with stage := 0 })) w []
  else mbRefuse h w 0x060A

def execFwCancel (k : Nat) (s : State) : Out := serveCommand 0x0705 0 true [] runCancel k s

/-! ### CONFIG_STAGE (16 R500) -/

/-- The record as FW0 writes it: CFG_SEQ one above the other copy's, and CFG_COMMIT. -/
def committedCfg (b : List Byte) (seq : Nat) : List Byte :=
  b.take 0x48 ++ leBytes 8 seq ++ (b.drop 0x50).take (0x22C0 - 0x50) ++ leBytes 8 1

/-- The copy that is not the one in use (DEDUCED, log 31). -/
def writeCfg (f : Flash) (source : Nat) (b : List Byte) : Flash :=
  if source = 0 then { f with config1 := committedCfg b (cfgSeq f.config0 + 1) }
  else { f with config0 := committedCfg b (cfgSeq f.config1 + 1) }

def runConfigStage (h : Hub) (w : Work) (_ : Nat) (p : List Byte) : MbResult :=
  let src := fld p 8 8
  if fld p 0x10 4 ≠ cfgBytes ∨ src % 4096 ≠ 0 ∨ !inLpddr h src cfgBytes then mbRefuse h w 0x0604
  else
    match fwRead h w src cfgBytes with
    | .error c => mbRefuse h w c
    | .ok b =>
      let c := cfgCode h.ident.serial b
      if c ≠ 0 then mbRefuse h w c
      else mbDone { h with fw := { h.fw with flash := writeCfg h.fw.flash h.sec.cfgSource b } } w []

def execConfigStage (k : Nat) (s : State) : Out := serveCommand 0x0706 0 true [(8, 8), (0x10, 4)] runConfigStage k s

end Sys2Proof.Machine
end

