-- ==== Sys2Proof/Machine/FabricCommands.lean ====
section
/-!
DEFINITION. The mailbox commands that FW2 serves (14 R446, 12 R366, R370, R384 to R386, R394, R395): the module number,
route and Ethernet tables, the gazetteer, collective queues, group changes, injection rules and ports.
-/

namespace Sys2Proof.Machine

def Work.setFabric (w : Work) (f : Fabric → Fabric) : Work := { w with fabric := f w.fabric }

def runSetModuleNumber (h : Hub) (w : Work) (_ : Nat) (p : List Byte) : MbResult :=
  let n := fld p 8 4
  if 0x1FFFE < n then mbRefuse h w 0x0604
  else if h.ident.numberValid then mbRefuse h w 0x0606
  else mbDone { h with ident := { h.ident with number := BitVec.ofNat 17 n, numberValid := true } } w []

def execSetModuleNumber (k : Nat) (s : State) : Out := serveCommand 0x0301 2 true [(8, 4)] runSetModuleNumber k s

/-! ### Tables (R366, R370) -/

/-- An address argument for `n` bytes that are read; its range counts only when there are any (18 R528). -/
def srcArg (h : Hub) (a n align : Nat) : Bool := a % align == 0 && (n == 0 || inLpddr h a n)

/-- Replace the entries of a table from `first` on, `n` of them, by `new`. -/
def replaceEntries {β : Type} (l : List (Nat × β)) (first n : Nat) (new : List (Nat × β)) : List (Nat × β) :=
  l.filter (fun x => decide (x.1 < first) || decide (first + n ≤ x.1)) ++ new

/-- The entries of a route table that are not 0. -/
def routeEntries (b : List Byte) (first n : Nat) : List (Nat × BitVec 16) :=
  ((List.range n).map (fun i => (first + i, BitVec.ofNat 16 (fld b (2 * i) 2)))).filter (fun x => x.2 != 0#16)

def runLoadRoutes (h : Hub) (w : Work) (_ : Nat) (p : List Byte) : MbResult :=
  let src := fld p 8 8
  let first := fld p 0x10 4
  let n := fld p 0x14 4
  let dies := fld p 0x18 1
  if n = 0 ∨ 131072 < first + n ∨ dies = 0 ∨ 3 < dies ∨ !srcArg h src (2 * n) 64 then mbRefuse h w 0x0604
  else
    match fwRead h w src (2 * n) with
    | .error c => mbRefuse h w c
    | .ok b =>
      let put (l : List (Nat × BitVec 16)) (die : Nat) : List (Nat × BitVec 16) :=
        if bitOf dies die then replaceEntries l first n (routeEntries b first n) else l
      mbDone h (w.setFabric (fun f => { f with routes0 := put f.routes0 0, routes1 := put f.routes1 1 })) []

def execLoadRoutes (k : Nat) (s : State) : Out :=
  serveCommand 0x0302 2 true [(8, 8), (0x10, 4), (0x14, 4), (0x18, 1)] runLoadRoutes k s

def ethEntryOf (b : List Byte) : EthEntry := ⟨fld b 0 4 % 2 ^ 17, (b.drop 4).take 16, (b.drop 0x14).take 6, fld b 0x1A 2⟩

def runLoadEthTable (h : Hub) (w : Work) (_ : Nat) (p : List Byte) : MbResult :=
  let src := fld p 8 8
  let first := fld p 0x10 4
  let n := fld p 0x14 4
  if 4096 < first + n ∨ !srcArg h src (32 * n) 64 then mbRefuse h w 0x0604
  else
    match fwRead h w src (32 * n) with
    | .error c => mbRefuse h w c
    | .ok b =>
      let new := (List.range n).map (fun i => (first + i, ethEntryOf (b.drop (32 * i))))
      mbDone h (w.setFabric (fun f => { f with ethTable := replaceEntries f.ethTable first n new })) []

def execLoadEthTable (k : Nat) (s : State) : Out :=
  serveCommand 0x0303 2 true [(8, 8), (0x10, 4), (0x14, 4)] runLoadEthTable k s

/-! ### The gazetteer and collective queues (R384, R386, R394) -/

/-- The queue runs a descriptor; one that only waits for its group does not (DEDUCED, log 32). -/
def cqRuns (q : CollQueue) : Bool := q.desc.isSome || q.cur.isSome

def runSetGazBase (h : Hub) (w : Work) (_ : Nat) (p : List Byte) : MbResult :=
  let a := fld p 0x10 8
  if !addrArg h a 0x80000 4096 then mbRefuse h w 0x0604
  else if w.colls.queues.any cqRuns then mbRefuse h w 0x0606
  else mbDone h (w.setFabric (fun f => { f with gazBase := a })) []

def execSetGazBase (k : Nat) (s : State) : Out := serveCommand 0x0304 2 true [(0x10, 8)] runSetGazBase k s

/-- A ring lies in LPDDR5X and clear of the firmware area (14 R430, R440). -/
def ringPlaced (h : Hub) (base log2 : Nat) : Bool := decide (0x100000 ≤ base) && inLpddr h base (64 * 2 ^ log2)

def ringArgsOk (base log2 : Nat) : Bool := decide (4 ≤ log2) && decide (log2 ≤ 16) && base % 4096 == 0

def runSetCq (h : Hub) (w : Work) (_ : Nat) (p : List Byte) : MbResult :=
  let q := fld p 8 1
  let log2 := fld p 9 1
  let seq := BitVec.ofNat 32 (fld p 0x0C 4)
  let base := fld p 0x10 8
  let en := fld p 0x18 1
  if 15 < q ∨ 1 < en ∨ !ringArgsOk base log2 then mbRefuse h w 0x0604
  else if cqRuns (collQ w q) then mbRefuse h w 0x0606
  else if en = 1 ∧ !ringPlaced h base log2 then mbRefuse h w 0x0103
  else
    let w1 := if en = 1 then sealRing h w base log2 seq else w
    mbDone h
      (w1.setCollQ q (fun _ => { resetCollQueue with enabled := en == 1, base := base, log2 := log2, nextSeq := seq })) []

def execSetCq (k : Nat) (s : State) : Out :=
  serveCommand 0x0305 2 true [(8, 1), (9, 1), (0x0C, 4), (0x10, 8), (0x18, 1)] runSetCq k s

def runCqClearStop (h : Hub) (w : Work) (_ : Nat) (p : List Byte) : MbResult :=
  let q := fld p 8 1
  if 15 < q then mbRefuse h w 0x0604
  else mbDone h (readColl h (w.setCollQ q (fun x => { x with stopped := false, stopCode := 0 })) q) []

def execCqClearStop (k : Nat) (s : State) : Out := serveCommand 0x0306 2 true [(8, 1)] runCqClearStop k s

/-- The group's wait ends here: abandoned collectives are forgotten with their messages, and queues that waited at a
descriptor of the group read it again. -/
def endGroupWait (h : Hub) (w : Work) (g : Nat) : Work :=
  let gone (b : List Byte) : Bool := w.colls.dead.any (fun x => x.1 == g && fld b 8 2 == g && fld b 4 4 == x.2.toNat)
  let w1 := w.setColls (fun c =>
    { c with
      heldGroups := c.heldGroups.filter (fun x => x != g)
      waiting := c.waiting.filter (fun b => !gone b)
      dead := c.dead.filter (fun x => x.1 != g) })
  (List.range 16).foldl
    (fun w q =>
      if (collQ w q).groupHeld then readColl h (w.setCollQ q (fun x => { x with groupHeld := false })) q else w)
    w1

def groupInFlight (w : Work) (g : Nat) : Bool :=
  w.colls.queues.any (fun q => match q.cur with | some c => c.group == g | none => false)

def runSetNextSeq (h : Hub) (w : Work) (_ : Nat) (p : List Byte) : MbResult :=
  let g := fld p 8 2
  if 4095 < g then mbRefuse h w 0x0604
  else if groupInFlight w g then mbRefuse h w 0x0606
  else mbDone h (endGroupWait h (physWrite h w (gazAddr w g + 0x20) ((p.drop 0x0C).take 4)) g) []

def execSetNextSeq (k : Nat) (s : State) : Out := serveCommand 0x0307 2 true [(8, 2), (0x0C, 4)] runSetNextSeq k s

/-! ### Group changes (R385) -/

/-- FW2 of a member writes the pending fields, and PENDING last. -/
def pendingFields (h : Hub) (w : Work) (g epoch : Nat) (changeSeq : BitVec 32) (addr members index : Nat) : Work :=
  let a := gazAddr w g
  let w1 := physWrite h w (a + 0x0C) (leBytes 4 epoch)
  let w2 := physWrite h w1 (a + 0x24) (leBytes 4 changeSeq.toNat)
  let w3 := physWrite h w2 (a + 0x30) (leBytes 8 addr ++ leBytes 4 members ++ leBytes 4 index)
  physWrite h w3 (a + 0x28) (leBytes 4 1)

/-- The pending index of a module: its place in the new list, or all ones when it leaves. -/
def pendingIndex (new : List Nat) (m : Nat) : Nat :=
  if new.contains m then new.findIdx (fun x => x == m) else 0xFFFFFFFF

/-- One part of the new member list at a member: it enters the pending member array, at the address that the message names
(DESIGN CHOICE, log 93); with the last part the pending fields are written. -/
def takePart (h : Hub) (w : Work) (g epoch : Nat) (changeSeq : BitVec 32) (addr total index first : Nat) (part : List Byte) :
    Work :=
  let w1 := physPut h w (addr + 4 * first) part
  if total ≤ first + part.length / 4 then pendingFields h w1 g epoch changeSeq addr total index else w1

/-- The whole change at a member. -/
def writePending (h : Hub) (w : Work) (g epoch : Nat) (changeSeq : BitVec 32) (addr : Nat) (new : List Nat)
    (index : Nat) : Work := takePart h w g epoch changeSeq addr new.length index 0 (memberBytes new)

/-- A group-control message reaches FW2 of this member. -/
def execGroupControl (group epoch : Nat) (changeSeq : BitVec 32) (addr : Nat) (members : List Nat) (index : Nat)
    (s : State) : Out :=
  if fwRuns s.hub 2 ∧ group < 4096 then onWork s fun h w => writePending h w group epoch changeSeq addr members index
  else .next s

/-- The parts of a change for one member. -/
def tellMember (h : Hub) (g epoch : Nat) (seq : BitVec 32) (addr : Nat) (new : List Nat) (acc : Work × Code) (m : Nat) :
    Work × Code :=
  (groupParts new).foldl
    (fun (acc : Work × Code) p =>
      if acc.2 != 0 then acc
      else
        sendControl h acc.1 m (groupPayload g epoch seq addr new.length (pendingIndex new m) p.1 p.2) (.group g m))
    acc

/-- The master tells every other old and new member, with the code of the first message refused. -/
def tellMembers (h : Hub) (w : Work) (g epoch : Nat) (seq : BitVec 32) (addr : Nat) (new : List Nat) (others : List Nat) :
    Work × Code :=
  others.foldl (tellMember h g epoch seq addr new) (w, 0)

def runGroupChange (h : Hub) (w : Work) (k : Nat) (p : List Byte) : MbResult :=
  let g := fld p 8 2
  let seq := BitVec.ofNat 32 (fld p 0x0C 4)
  let addr := fld p 0x10 8
  let n := fld p 0x18 4
  let epoch := fld p 0x1C 4
  if 4095 < g ∨ n = 0 ∨ 65536 < n ∨ !addrArg h addr (4 * n) 64 then mbRefuse h w 0x0604
  else
    match gazEntry h w g with
    | .error (c, _) => mbRefuse h w c
    | .ok b =>
      if !gazValid b || fld b 8 4 != 0 || bitOf (fld b 0x28 4) 0 then mbRefuse h w 0x0606
      else
        match gazMembers h w b, memberArray h w addr n with
        | .error (c, _), _ => mbRefuse h w c
        | _, .error (c, _) => mbRefuse h w c
        | .ok old, .ok new =>
          let others := ((old ++ new).filter (fun m => !isSelf h m)).eraseDups
          let w1 := pendingFields h w g epoch seq addr n (pendingIndex new (ownNumber h))
          match tellMembers h w1 g epoch seq addr new others with
          | (w2, c) =>
            if c ≠ 0 then mbRefuse h w2 c
            else if others = [] then mbDone h w2 []
            else
              mbLater h
                (w2.setFabric (fun f =>
                  { f with
                    changes :=
                      ⟨g, k, others.flatMap (fun m => (groupParts new).map (fun _ => m))⟩ ::
                        f.changes.filter (fun x => x.group != g) })) k

def execGroupChange (k : Nat) (s : State) : Out :=
  serveCommand 0x0308 2 true [(8, 2), (0x0C, 4), (0x10, 8), (0x18, 4), (0x1C, 4)] runGroupChange k s

/-- The command that a mailbox has in service with a late completion, of one opcode. -/
def lateCommand (h : Hub) (k op : Nat) : Option Desc :=
  let m := h.mailbox k
  m.cmd.filter (fun d => m.busyLong && d.kind == op && fwRuns h 4)

/-- A member of a changing group has acknowledged a part, or its message failed. -/
def groupAnswer (h : Hub) (w : Work) (g member : Nat) (status : Code) : Hub × Work :=
  match w.fabric.changes.find? (fun c => c.group == g) with
  | none => (h, w)
  | some c =>
    let left := c.waiting.erase member
    let rest := w.fabric.changes.filter (fun x => x.group != g)
    if status = 0 ∧ left ≠ [] then
      (h, w.setFabric (fun f => { f with changes := { c with waiting := left } :: rest }))
    else
      let w1 := w.setFabric (fun f => { f with changes := rest })
      match lateCommand h c.mailbox 0x0308 with
      | some d => if fld d.payload 8 2 = g then completeCommand h w1 c.mailbox status [] else (h, w1)
      | none => (h, w1)

/-! ### Link fault injection (R395) -/

def ruleOf (b : List Byte) : InjectionRule :=
  let at_ := fld b 1 1
  { action := fld b 0 1
    port := bitsOf at_ 0 4
    ingress := bitOf at_ 4
    classes := bitsOf (fld b 2 1) 0 4
    countMode := fld b 3 1 == 1
    prob := fld b 4 4
    count := fld b 8 4
    skip := fld b 0x0C 4
    seed := BitVec.ofNat 64 (fld b 0x10 8)
    hold := fld b 0x18 2
    matched := 0
    affected := 0
    held := [] }

/-- A reserved ACTION or MODE, or a HOLD outside 1 to 64 with ACTION 4 (18 R530; DEDUCED, log 32). -/
def ruleBad (b : List Byte) : Bool :=
  decide (4 < fld b 0 1) || decide (1 < fld b 3 1) || (fld b 0 1 == 4 && (fld b 0x18 2 == 0 || decide (64 < fld b 0x18 2)))

def offRule : InjectionRule := ruleOf []

/-- The rules with `new` in place from `first` on. -/
def putRules (rules : List InjectionRule) (first : Nat) (new : List InjectionRule) : List InjectionRule :=
  let r := rules ++ List.replicate (32 - rules.length) offRule
  r.take first ++ new ++ r.drop (first + new.length)

def runLoadInjection (h : Hub) (w : Work) (_ : Nat) (p : List Byte) : MbResult :=
  let src := fld p 8 8
  let first := fld p 0x10 1
  let n := fld p 0x11 1
  if 32 < first + n ∨ !srcArg h src (32 * n) 64 then mbRefuse h w 0x0604
  else if !h.ident.cfg.testMode then mbRefuse h w 0x050A
  else
    match fwRead h w src (32 * n) with
    | .error c => mbRefuse h w c
    | .ok b =>
      let raw := (List.range n).map (fun i => (b.drop (32 * i)).take 32)
      if raw.any ruleBad then mbRefuse h w 0x0604
      else if n = 0 then mbDone h w []
      else mbDone h (w.setFabric (fun f => { f with rules := putRules f.rules first (raw.map ruleOf) })) []

def execLoadInjection (k : Nat) (s : State) : Out :=
  serveCommand 0x0309 2 true [(8, 8), (0x10, 1), (0x11, 1)] runLoadInjection k s

/-! ### Transport and ports (R364, R372) -/

def runSetTransport (h : Hub) (w : Work) (_ : Nat) (p : List Byte) : MbResult :=
  let us := fld p 8 4
  if us < 5 ∨ 10000 < us then mbRefuse h w 0x0604 else mbDone h (w.setFabric (fun f => { f with rtoUs := us })) []

def execSetTransport (k : Nat) (s : State) : Out := serveCommand 0x030A 2 true [(8, 4)] runSetTransport k s

def portCode : PortState → Nat
  | .down => 0
  | .up => 1
  | .retraining => 2
  | .ethUp => 3

def runPortStatus (h : Hub) (w : Work) (_ : Nat) (p : List Byte) : MbResult :=
  let n := fld p 8 1
  if 15 < n then mbRefuse h w 0x0604
  else
    let x := portOf w n
    mbDone h w (leBytes 4 (portCode x.st) ++ leBytes 4 x.replays ++ leBytes 4 x.retrains ++ leBytes 4 x.c0Over)

def execPortStatus (k : Nat) (s : State) : Out := serveCommand 0x030B 2 false [(8, 1)] runPortStatus k s

/-- A port starts a retrain (R363, R364). -/
def startRetrain (p : Port) : Port := { p with st := .retraining, attempts := 0, retrains := min (p.retrains + 1) max32 }

/-- Without the fabric reference the port stays down, and the command is done (19 R551). -/
def runPortReset (h : Hub) (w : Work) (k : Nat) (p : List Byte) : MbResult :=
  let n := fld p 8 1
  if 15 < n then mbRefuse h w 0x0604
  else if w.fabric.referenceLost then mbDone h w []
  else mbLater h (w.setPort n startRetrain) k

def execPortReset (k : Nat) (s : State) : Out := serveCommand 0x030C 2 true [(8, 1)] runPortReset k s

/-- A port is up or down: every PORT_RESET of it completes. -/
def finishPortReset (h : Hub) (w : Work) (port : Nat) : Hub × Work :=
  (List.range 16).foldl
    (fun (x : Hub × Work) k =>
      match lateCommand x.1 k 0x030C with
      | some d => if fld d.payload 8 1 = port then completeCommand x.1 x.2 k 0 [] else x
      | none => x)
    (h, w)

end Sys2Proof.Machine
end

