-- ==== Sys2Proof/Machine/LogCtl.lean ====
section
/-!
DEFINITION. The commands of the log funnel and of FW5 (17 R509, R510, R516, R517, R521, R523).
-/

namespace Sys2Proof.Machine

/-- The funnel works on the host die while the module has power (R510). -/
def funnelWorks (h : Hub) : Bool := h.ident.powered

def execLogRecord (r : LogSource) (s : State) : Out :=
  onWork s fun h w => if funnelWorks h && decide (1 ≤ r.cls) && decide (r.cls ≤ 11) then emit h w r else w

def execAlarm (r : LogSource) (dests : List Nat) (s : State) : Out :=
  onWork s fun h w => if funnelWorks h then raiseAlarm h w r.code r.domain r.unit r.detail dests else w

/-- The oldest waiting alarm goes once the window allows its packets (R517). -/
def execAlarmSend (windowPassed : Bool) (s : State) : Out :=
  onWork s fun h w =>
    if !funnelWorks h then w
    else
      let w1 := if windowPassed then w.setLogs (fun l => { l with alarmWindow := 0 }) else w
      match w1.logs.alarmQueue with
      | [] => w1
      | a :: rest =>
        if w1.logs.alarmWindow + a.dests.length ≤ 24 ∨ w1.logs.alarmWindow = 0 then
          sendAlarmTo h (w1.setLogs (fun l => { l with alarmQueue := rest })) a.record a.dests
        else w1

/-! ### FW5 (R509, R523) -/

/-- Remove the first queued record of a class. -/
def takeRecord (cls : Nat) : List QueueEntry → Option (LogRec × List QueueEntry)
  | [] => none
  | q :: qs =>
    if q.record.cls = cls then some (q.record, qs)
    else (takeRecord cls qs).map (fun x => (x.1, q :: x.2))

/-- A written record goes to the forward ring too, where its class is forwarded. -/
def forwardRecord (h : Hub) (w : Work) (r : LogRec) : Work :=
  let l := w.logs
  if !l.fwdEnable || !bitOf l.fwdClasses r.cls then w
  else
    let a := l.fwdAddr + l.fwdNext.toNat % 2 ^ l.fwdLog2 * 64
    let bs := recordBytes r l.fwdNext
    let w1 := w.setLogs (fun l => { l with fwdNext := l.fwdNext + 1 })
    let failed (w : Work) : Work := w.setLogs (fun l => { l with fwdFails := min (l.fwdFails + 1) max32 })
    match targetOf h a with
    | .self x =>
      (match physStore h w1 x bs with
       | .ok w2 => if inOneRegion h x 64 then w2 else failed w1
       | .error _ => failed w1)
    | .remote m x =>
      (match sendRequest h w1 0xFFFF m 3 0x02 x 64 bs .log with
       | (w2, c) => if c = 0 then w2 else failed w1)
    | .none => failed w1

/-- FW5 writes the drop summary that is due in a class, and forwards it as it does every record (R521, R523). -/
def writeSummary (h : Hub) (w : Work) (cls : Nat) : Work :=
  if summaryDue w.logs cls then forwardRecord h (putSummary h w cls) (summaryRecord h w cls).2 else w

/-- The oldest queued record of a class into its ring, when no drop summary waits before it and a slot is free (R521, R523). -/
def writeNext (h : Hub) (w : Work) (cls : Nat) : Work :=
  match takeRecord cls w.logs.queue with
  | none => w
  | some (r, rest) =>
    if (w.logs.unsummed.getD cls (0, 0)).1 ≠ 0 ∨ !ringFree w.logs cls then w
    else forwardRecord h (putRing h (w.setLogs (fun l => { l with queue := rest })) cls r) r

/-- FW5 writes the oldest queued record of a class; class-0 records, which the funnel has written, only leave the queue. -/
def writeOldest (h : Hub) (w : Work) (cls : Nat) : Work :=
  match takeRecord cls w.logs.queue with
  | none => w
  | some (r, rest) =>
    if cls = 0 then forwardRecord h (w.setLogs (fun l => { l with queue := rest })) r
    else writeNext h (writeSummary h w cls) cls

def execLogRingWrite (cls : Nat) (s : State) : Out :=
  onWork s fun h w => if fwRuns h 5 then writeOldest h w cls else w

end Sys2Proof.Machine
end

