-- ==== Sys2Proof/Machine/Ports.lean ====
section
/-!
DEFINITION. Links and ports (12 R362 to R364, R381, 19 R551): flit errors, retraining, credits, and the fabric reference.
-/

namespace Sys2Proof.Machine

/-- The fabric dies work. -/
def fabricWorks (h : Hub) : Bool := h.ident.powered && h.ident.powerState != 2

/-- The fibres of lane `lane` of a port: its connector, and the positions that transmit and receive it (19 R547). -/
def laneFibres (port lane : Nat) : Nat × Nat × Nat := (port / 2, 4 * (port % 2) + lane + 1, 16 - (4 * (port % 2) + lane))

/-- A port goes down: FW2 reports it, and a PORT_RESET of it is over. -/
def portDown (h : Hub) (w : Work) (port : Nat) : Hub × Work :=
  if (portOf w port).st == .down then (h, w) else finishPortReset h (portLog h (w.setPort port downPort) port) port

/-- A flit fails its CRC: a replay; the same flit a second time: a retrain (R363). `flit` is its number on the link. -/
def execFlitCrcFailure (port flit : Nat) (s : State) : Out :=
  onWork s fun h w =>
    let p := portOf w port
    if p.st != .up || port ≥ 16 || !fabricWorks h then w
    else if p.failed.contains flit then portLog h (w.setPort port (fun p => { startRetrain p with failed := [] })) port
    else w.setPort port (fun p => { p with failed := p.failed ++ [flit], replays := min (p.replays + 1) max32 })

def upState (w : Work) (port : Nat) : PortState := if w.fabric.ethPorts.contains port then .ethUp else .up

/-- Within 200 µs: the port carries traffic again, its unacknowledged flits first (R364). -/
def execRetrainComplete (port : Nat) (s : State) : Out :=
  let w := s.work
  if (portOf w port).st = .retraining ∧ port < 16 ∧ fabricWorks s.hub ∧ !w.fabric.referenceLost then
    let st := upState w port
    onState s (finishPortReset s.hub (w.setPort port (fun p => pump { p with st := st, attempts := 0, failed := [] })) port)
  else .next s

/-- 200 µs pass: another attempt, or the port is down after the third (R364). -/
def execRetrainTimeout (port : Nat) (s : State) : Out :=
  let p := portOf s.work port
  if p.st = .retraining ∧ port < 16 ∧ fabricWorks s.hub then
    if p.attempts + 1 < 3 then
      .next { s with work := s.work.setPort port (fun p => { p with attempts := p.attempts + 1 }) }
    else onState s (portDown s.hub s.work port)
  else .next s

/-- The partner returns credits of a class and acknowledges flits, oldest first (R363). -/
def returnCredits (p : Port) (cls credits flits : Nat) : Port :=
  pump
    { p with
      credits := p.credits.modify cls (fun c => min 1024 (c + credits))
      held := p.held.drop flits }

def execCreditReturn (port cls credits flits : Nat) (s : State) : Out :=
  onWork s fun h w => if (portOf w port).st == .up && fabricWorks h then w.setPort port (fun p => returnCredits p cls credits flits) else w

/-- Every port goes down (19 R551). -/
def execFabricReferenceLost (s : State) : Out :=
  if !s.hub.ident.powered || s.work.fabric.referenceLost then .next s
  else
    let w := s.work.setFabric (fun f => { f with referenceLost := true })
    onState s ((List.range 16).foldl (fun (x : Hub × Work) n => portDown x.1 x.2 n) (s.hub, w))

/-- The reference has run for 10 ms: FW2 retrains the ports. -/
def execFabricReferenceRestored (s : State) : Out :=
  onWork s fun h w =>
    if !w.fabric.referenceLost || !h.ident.powered then w
    else
      let w1 := w.setFabric (fun f => { f with referenceLost := false })
      if fabricWorks h && h.ident.bootDone && !h.sec.stoppedBoot then trainPorts h w1 else w1

end Sys2Proof.Machine
end

