-- ==== Sys2Proof/Machine/Transport.lean ====
section
/-!
DEFINITION. The transport (12 R365, R366, R370 to R373, 17 R514): packets that arrive, are delivered or forwarded,
acknowledgements, retransmission and probes.
-/

namespace Sys2Proof.Machine

/-! ### The receiver (R373) -/

def receiverOf (w : Work) (src cls : Nat) : Receiver :=
  (w.fabric.receivers.find? (fun r => r.src == src && r.cls == cls)).getD ⟨src, cls, 0, [], [], []⟩

def Work.setReceiver (w : Work) (r : Receiver) : Work :=
  w.setFabric (fun f => { f with receivers := r :: f.receivers.filter (fun x => !(x.src == r.src && x.cls == r.cls)) })

/-- The later of two causal values (17 R515). -/
def laterCausal (a b : BitVec 32) : BitVec 32 := if 1 ≤ (b - a).toNat ∧ (b - a).toNat < 2 ^ 31 then b else a

/-- A packet is delivered: the causal clock follows it, and it waits to be performed (17 R514). -/
def deliverOne (w : Work) (p : Packet) : Work :=
  (w.setLogs (fun l => { l with causal := laterCausal l.causal p.causal })).setFabric (fun f =>
    { f with inbox := f.inbox ++ [p] })

/-- Deliver the held packets that have become next in order. -/
def drainAhead : Nat → Receiver → List Packet → Receiver × List Packet
  | 0, r, out => (r, out)
  | n + 1, r, out =>
    match r.ahead.find? (fun p => p.psn == r.expected) with
    | none => (r, out)
    | some p =>
      drainAhead n { r with expected := r.expected + 1, ahead := r.ahead.filter (fun x => x.psn != p.psn) } (out ++ [p])

/-- Note that a PSN is to be acknowledged. -/
def noteAck (r : Receiver) (psn : BitVec 32) : Receiver :=
  if r.acks.contains psn then r else { r with acks := r.acks ++ [psn] }

/-- A packet for this module reaches its receiver state. -/
def takePacket (h : Hub) (w : Work) (p : Packet) : Work :=
  let r := receiverOf w p.src p.cls
  let d := (p.psn - r.expected).toNat
  if d = 0 then
    let (r1, out) := drainAhead 257 { noteAck r p.psn with expected := r.expected + 1 } [p]
    out.foldl deliverOne (w.setReceiver r1)
  else if d ≤ 256 then
    let r1 := noteAck r p.psn
    w.setReceiver (if r.ahead.any (fun x => x.psn == p.psn) then r1 else { r1 with ahead := r1.ahead ++ [p] })
  else if d < 2 ^ 31 then w
  else
    let w1 := w.setReceiver (noteAck r p.psn)
    match r.kept.find? (fun x => x.1 == p.psn) with
    | some x => (sendPacket h w1 x.2.1 x.2.2).1
    | none => w1

/-! ### Acknowledgements and probes (R372) -/

/-- A packet of fabric management, neither numbered nor held. -/
def managementPacket (h : Hub) (dest cls op : Nat) (psn : BitVec 32) (tag addr path : Nat) (causal : BitVec 32) : Packet :=
  ⟨dest, cls, op, ownNumber h, 0, psn, causal, addr, tag, 0, path, 0, true, []⟩

/-- Send an acknowledgement on a permitted port; without one it is lost, and the sender resends. -/
def sendAck (h : Hub) (w : Work) (dest cls : Nat) (psn : BitVec 32) (probe : Bool) (port : Nat) : Work :=
  let s := senderOf w dest cls
  match nextPort (sprayPorts w s 0xFFFF) s.lastPort with
  | none => w
  | some n =>
    if ethReachable w n dest then
      egress h w n (managementPacket h dest cls ackOp psn (if probe then 1 else 0) port n w.logs.causal)
    else w

/-- An acknowledgement that stands alone leaves within 2 µs. -/
def execAckTimer (src cls : Nat) (s : State) : Out :=
  onWork s fun h w =>
    let r := receiverOf w src cls
    if fabricWorks h then
      r.acks.foldl (fun w psn => sendAck h w src cls psn false 0) (w.setReceiver { r with acks := [] })
    else w

/-- The response to a packet has been acknowledged: it is kept no longer (R373). -/
def freeKept (w : Work) (p : Packet) : Work :=
  if p.op < 0x80 then w
  else
    w.setFabric (fun f =>
      { f with
        receivers := f.receivers.map (fun r =>
          if r.src == p.dest && r.cls == p.cls then
            { r with kept := r.kept.filter (fun x => !(x.2.2.tag == p.tag && x.2.2.op == p.op)) }
          else r) })

/-- An acknowledgement of one packet arrives, or that of a probe on a port. -/
def takeAck (w : Work) (src cls : Nat) (psn : BitVec 32) (probe : Bool) (port : Nat) : Work :=
  let s := senderOf w src cls
  if probe then
    w.setSender
      { s with
        left := s.left.filter (fun n => n != port)
        timeouts := s.timeouts.filter (fun x => x.1 != port)
        unreachable := false }
  else
    match s.held.find? (fun x => x.packet.psn == psn) with
    | none => w
    | some x =>
      freeKept
        (w.setSender
          { s with
            held := s.held.filter (fun y => y.packet.psn != psn)
            timeouts := s.timeouts.filter (fun t => t.1 != x.packet.path) })
        x.packet

def execPacketAck (src cls : Nat) (psn : BitVec 32) (probe : Bool) (port : Nat) (s : State) : Out :=
  onWork s fun h w => if fabricWorks h then takeAck w src cls psn probe port else w

/-- A probe on a port that has left a destination's spray, or toward a destination that counts as unreachable. -/
def execProbePacket (dest cls port : Nat) (s : State) : Out :=
  onWork s fun h w =>
    let x := senderOf w dest cls
    if fabricWorks h && (x.unreachable || x.left.contains port) && (permitted w dest).contains port && portIsUp w port &&
        ethReachable w port dest then
      egress h w port (managementPacket h dest cls probeOp 0 0 port port w.logs.causal)
    else w

/-- Acknowledgements and probes that arrive. -/
def takeManagement (h : Hub) (w : Work) (p : Packet) : Work :=
  if p.op = ackOp then takeAck w p.src p.cls p.psn (p.tag == 1) p.addr
  else sendAck h w p.src p.cls p.psn true p.addr

/-! ### Forwarding (R365, R366, R370) -/

/-- A request that cannot go on is answered with 0x0501. -/
def refuseTransit (h : Hub) (w : Work) (p : Packet) : Work :=
  if 0x80 ≤ p.op ∨ isManagement p then w
  else
    (sendPacket h w 0xFFFF ⟨p.src, p.cls, p.op + 0x80, ownNumber h, 0, 0, 0, p.addr, p.tag, 0x0501, 0, 0, true, []⟩).1

/-- The port for a packet in transit: PATH when it is permitted and up, else the next one in turn (DEDUCED, log 36). -/
def transitPort (w : Work) (p : Packet) : Option Nat :=
  let ports := (permitted w p.dest).filter (portIsUp w)
  if ports.contains p.path then some p.path else nextPort ports p.path

def forwardPacket (h : Hub) (w : Work) (p : Packet) : Work :=
  match transitPort w p with
  | none => refuseTransit h w p
  | some n => if ethReachable w n p.dest then egress h w n p else refuseTransit h w p

/-- The checks of R369 that a packet fails where it is discarded. -/
def packetBad (p : Packet) : Bool := p.reserved != 0 || decide (4096 < p.length) || !p.crcOk

/-- A packet that has come in is discarded, taken, or forwarded. -/
def routePacket (h : Hub) (w : Work) (p : Packet) : Work :=
  if packetBad p then w
  else if !isSelf h p.dest then forwardPacket h w p
  else if isManagement p then takeManagement h w p
  else takePacket h w p

/-- A packet arrives at a port. -/
def arrive (h : Hub) (w : Work) (port : Nat) (p : Packet) : Work :=
  let (w1, out) := inject h w port true p
  out.foldl (routePacket h) w1

/-- The flits of a packet reach a link's end; what is no packet is discarded (R369). -/
def execPacketForward (port : Nat) (bytes : List Byte) (s : State) : Out :=
  onWork s fun h w =>
    if fabricWorks h && (portOf w port).st == .up then
      match packetOf bytes with
      | some p => arrive h w port p
      | none => w
    else w

/-- The frames that an Ethernet port takes. -/
def frameOk (f : EthFrame) : Bool :=
  f.ipv6 && !f.fragment && decide (f.tags ≤ 1) && f.udpPort == 50592 && decide (f.bytes ≤ 9216)

def execEthFrame (port : Nat) (f : EthFrame) (s : State) : Out :=
  onWork s fun h w =>
    if fabricWorks h && (portOf w port).st == .ethUp then
      match (if frameOk f then packetOf f.payload else none) with
      | some p => arrive h w port p
      | none => w.setPort port (fun x => { x with discards := min (x.discards + 1) max32 })
    else w

end Sys2Proof.Machine
end

