-- ==== Sys2Proof/Machine/Remote.lean ====
section
/-!
DEFINITION. Remote operations at their target, their responses, and packets that are never acknowledged (12 R372, R374 to
R379, 17 R518, R523, 18 R530).
-/

namespace Sys2Proof.Machine

/-! ### Register space from another module (01 R29, R30) -/

/-- One naturally aligned 64-bit access. -/
def oneWord (a n : Nat) : Bool := n == 8 && a % 8 == 0

/-- A load of the identity block. -/
def remoteLoad (h : Hub) (w : Work) (o n : Nat) : Except Code (List Byte) :=
  if oneWord o n && decide (o < 0x1000) then
    match readRegister h w o with
    | some v => .ok (leBytes 8 v)
    | none => .error 0x0401
  else .error 0x0401

/-- A store to a doorbell of a mailbox, of a collective queue or of an engine queue. -/
def remoteDoorbell (h : Hub) (w : Work) (o : Nat) (v : Word) : Except Code (Hub × Work) :=
  if 0x1000000 ≤ o ∧ o < 0x1000080 then .ok (storeMbDoorbell h w ((o - 0x1000000) / 8) v)
  else if 0x1008000 ≤ o ∧ o < 0x1008080 then .ok (h, storeCqDoorbell h w ((o - 0x1008000) / 8) v)
  else if 0x10000 ≤ o ∧ o < 0x58000 ∧ o % 0x1000 < 0x20 then
    let e := (o - 0x10000) / 0x1000
    let q := o % 0x1000 / 8
    if !present h e then .error 0x0401
    else if (w.stream e q).enable then .ok (h, ringQueue h w e q (v.setWidth 32))
    else .ok (h, w)
  else if 0x1000000 ≤ o ∧ o < 0x1010000 then
    (if (readRegister h w o).isSome then .ok (h, w) else .error 0x0401)
  else .error 0x0401

/-! ### READ, WRITE, ATOMIC (R374 to R376) -/

/-- Access `k` of the inbox, when it may be performed now (R377). -/
def nextAccess (h : Hub) (w : Work) (k op : Nat) : Option Packet :=
  match inboxAt w k (fun p => p.op == op) with
  | some p => if fabricWorks h && !behindLine w k p then some p else none
  | none => none

/-- The engine complex does not answer, or LENGTH is 0 (R379, 18 R530). -/
def refusedAccess (h : Hub) (n : Nat) : Option Code :=
  if targetDown h then some 0x0503 else if n = 0 ∨ 4096 < n then some 0x0401 else none

def readHere (h : Hub) (w : Work) (a n : Nat) : Except (Code × Nat) (List Byte) :=
  match regionOf h a with
  | .regs o => (match remoteLoad h w o n with | .ok b => .ok b | .error c => .error (c, a))
  | _ => moduleRead h w a n

/-- A read that has met a parity error takes the bad line to its home (11 R332). -/
def afterReadError (h : Hub) (w : Work) (c : Code) (a : Nat) : Work :=
  match moduleAddr h w false a with
  | .ok p => badLeaves h w 80 c p
  | .error _ => w

def execRemoteRead (k : Nat) (s : State) : Out :=
  onWork s fun h w =>
    match nextAccess h w k 0x01 with
    | none => w
    | some p =>
      match refusedAccess h p.length with
      | some c => answer h w k p c []
      | none =>
        match readHere h w p.addr p.length with
        | .ok b => answer h w k p 0 b
        | .error (c, a) => answer h (afterReadError h w c a) k p c []

/-- A write, whole or not at all. -/
def writeHere (h : Hub) (w : Work) (a : Nat) (bs : List Byte) : Except (Code × Nat) (Hub × Work) :=
  match regionOf h a with
  | .regs o =>
    if oneWord o bs.length then
      (match remoteDoorbell h w o (BitVec.ofNat 64 (leNat bs)) with | .ok x => .ok x | .error c => .error (c, a))
    else .error (0x0401, a)
  | _ => (match moduleStore h w a bs with | .ok w1 => .ok (h, w1) | .error x => .error x)

/-- The name of a remote access among the steps that wait for a protected piece (R376). -/
def remoteStep (p : Packet) : Nat × Nat × Nat := (5, 4 * p.src + p.cls, p.psn.toNat)

def execRemoteWrite (k : Nat) (s : State) : Out :=
  let h := s.hub
  let w := s.work
  match nextAccess h w k 0x02 with
  | none => .next s
  | some p =>
    match refusedAccess h p.payload.length with
    | some c => onState s (h, answer h w k p c [])
    | none =>
      match writeHere h w p.addr p.payload with
      | .ok (h1, w1) =>
        if (newlyHeld w w1).isEmpty then onState s (h1, answer h1 w1 k p 0 [])
        else onState s (h, wholeStep w (remoteStep p) w1)
      | .error (c, a) => onState s (h, answer h (afterReadError h w c a) k p c [])

/-- The payload and the address of an ATOMIC are legal (R375). -/
def atomicPacketOk (p : Packet) : Bool :=
  p.payload.length == 24 && atomicOk p.addr (fld p.payload 0 1) (fld p.payload 1 1) && fld p.payload 2 6 == 0

def execRemoteAtomic (k : Nat) (s : State) : Out :=
  onWork s fun h w =>
    match nextAccess h w k 0x03 with
    | none => w
    | some p =>
      if targetDown h then answer h w k p 0x0503 []
      else if !atomicPacketOk p then answer h w k p 0x0408 []
      else
        match moduleAddr h w true p.addr with
        | .error c => answer h w k p c []
        | .ok a =>
          match atomicAt h w a (fld p.payload 0 1) (fld p.payload 1 1) (fld p.payload 8 8) (fld p.payload 0x10 8) with
          | .error (c, x) => answer h (badLeaves h w 80 c x) k p c []
          | .ok (w1, old) => wholeStep w (remoteStep p) (answer h w1 k p 0 (leBytes 8 old))

/-! ### CONTROL (R374, R385, R394, 09 R267, 17 R518) -/

/-- An alarm of another module. -/
def alarmOf (b : List Byte) : LogRec :=
  { domainCount := BitVec.ofNat 64 (fld b 0 8)
    step := BitVec.ofNat 64 (fld b 8 8)
    causal := BitVec.ofNat 32 (fld b 0x10 4)
    causeIn := BitVec.ofNat 32 (fld b 0x14 4)
    origin := BitVec.ofNat 32 (fld b 0x18 4)
    code := BitVec.ofNat 16 (fld b 0x1C 2)
    cls := fld b 0x1E 1
    flags := fld b 0x1F 1 ||| 1
    unit := BitVec.ofNat 16 (fld b 0x20 2)
    rep := fld b 0x22 2
    detail := (b.drop 0x24).take 20 }

def isAlarm (b : List Byte) : Bool := b.length == 64 && fld b 0x3A 2 == 0x0A00

/-- A message for FW2: done while FW2 runs, else held up to 64 (14 R428). -/
def groupMessage (h : Hub) (w : Work) (k : Nat) (p : Packet) : Hub × Work :=
  let b := p.payload
  if fwRuns h 2 then
    (h, answer h (takePart h w (fld b 2 2) (fld b 4 4) (BitVec.ofNat 32 (fld b 8 4)) (fld b 0x14 8) (fld b 0x0C 4)
      (fld b 0x10 4) (fld b 0x1C 4) (b.drop 0x20)) k p 0 [])
  else if h.fw.heldControl.length < 64 then
    ({ h with fw := { h.fw with heldControl := h.fw.heldControl ++ [p] } }, dropInbox w k)
  else (h, answer h w k p 0x0503 [])

def controlMessage (h : Hub) (w : Work) (k : Nat) (p : Packet) : Hub × Work :=
  let b := p.payload
  if b.isEmpty then (h, answer h w k p 0x0401 [])
  else if isAlarm b then (h, answer h (putAlarm h w (alarmOf b)) k p 0 [])
  else
    match fld b 0 1 with
    | 1 =>
      if targetDown h then (h, answer h w k p 0x0503 [])
      else
        let w1 := answer h w k p 0 []
        (h, causedBy p.causal w1 (fun w =>
          takeFlag h (traceVote h w) (fld b 2 2) (fld b 4 4) (BitVec.ofNat 64 (fld b 8 8)) (fld b 1 1 == 1)))
    | 2 =>
      if targetDown h then (h, answer h w k p 0x0503 [])
      else
        let w1 := answer h w k p 0 []
        (h, causedBy p.causal w1 (fun w => takeOutcome h (traceVote h w) (BitVec.ofNat 64 (fld b 8 8)) (fld b 1 1)))
    | 3 => groupMessage h w k p
    | 4 =>
      (h, causedBy p.causal (answer h w k p 0 []) (fun w => takeAbort h w (fld b 2 2) (BitVec.ofNat 32 (fld b 4 4))))
    | _ => (h, answer h w k p 0 [])

/-- FW2 takes the parts of a member list in the order they came. -/
def behindPart (w : Work) (k : Nat) (p : Packet) : Bool :=
  let part (x : Packet) : Bool := x.op == 0x20 && fld x.payload 0 1 == 3 && !isAlarm x.payload
  part p && (w.fabric.inbox.take k).any (fun x => part x && x.src == p.src)

def execControlPacket (k : Nat) (s : State) : Out :=
  match inboxAt s.work k (fun p => p.op == 0x20) with
  | none => .next s
  | some p =>
    if fabricWorks s.hub && !behindPart s.work k p then onState s (controlMessage s.hub s.work k p) else .next s

/-! ### Responses (R374, R331) -/

/-- The bytes of a response to a bulk transfer, or its failure. -/
def bulkAnswer (b : BulkP) (tag far : Nat) (status : Code) (data : List Byte) : BulkP :=
  let b1 := { b with waiting := b.waiting.filter (fun t => t != tag) }
  if status ≠ 0 then { b1 with fail := minFault b1.fail (some (status, far)) }
  else if b.load then { b1 with got := b1.got ++ (data.zipIdx).map (fun x => (far + x.2, x.1)) }
  else b1

/-- What an operation that waits learns from its response. -/
def opAnswer (kind : OpKind) (tag far : Nat) (status : Code) (data : List Byte) : OpKind :=
  match kind with
  | .bulk b => .bulk (bulkAnswer b tag far status data)
  | .atomic p => .atomic { p with answer := some (status, BitVec.ofNat 64 (leNat (data.take 8))) }
  | .signal p => .signal { p with answer := some status }
  | k => k

def setOpAnswer (w : Work) (e id tag far : Nat) (status : Code) (data : List Byte) : Work :=
  w.setEngine e (fun en => en.setOp id (fun o => { o with kind := opAnswer o.kind tag far status data }))

/-- The requester of a tag learns the outcome of its request; `cause` is the CAUSAL of the response, 0 without one. -/
def settleRequest (h : Hub) (w : Work) (p : Packet) (cause : BitVec 32) : Hub × Work :=
  match w.fabric.requests.find? (fun r => r.1 == p.tag) with
  | none => (h, w)
  | some (tag, who) =>
    let w1 := w.setFabric (fun f => { f with requests := f.requests.filter (fun r => r.1 != tag) })
    match who with
    | .bulk e id far => (h, setOpAnswer w1 e id tag far p.status p.payload)
    | .atomicOp e id => (h, setOpAnswer w1 e id tag 0 p.status p.payload)
    | .signalOp e id => (h, setOpAnswer w1 e id tag 0 p.status p.payload)
    | .core => (h, w1.reply p.status p.payload)
    | .copierWrite =>
      (h, causedBy cause w1 (fun w => settleSlot h (w.setRun (noteSlotFail p.status (p.src * 2 ^ 47 + p.addr)))))
    | .copierRead place => (h, copierRead w1 place p)
    | .collective k =>
      (match (collQ w1 k).cur with
       | some c => (h, if p.status = 0 then w1 else causedBy cause w1 (fun w => abortColl h w k c p.status))
       | none => (h, w1))
    | .vote => (h, w1)
    | .alarm => (h, w1)
    | .log =>
      (h, if p.status = 0 then w1 else w1.setLogs (fun l => { l with fwdFails := min (l.fwdFails + 1) max32 }))
    | .group g m => groupAnswer h w1 g m p.status

/-- A response says that its request has arrived: the request is held no longer (DEDUCED, log 36). -/
def releaseRequest (w : Work) (p : Packet) : Work :=
  w.setFabric (fun f =>
    { f with
      senders := f.senders.map (fun s =>
        if s.cls == p.cls then
          { s with held := s.held.filter (fun x => !(x.packet.tag == p.tag && x.packet.op + 0x80 == p.op)) }
        else s) })

def execPacketResponse (k : Nat) (s : State) : Out :=
  match inboxAt s.work k (fun p => decide (0x80 ≤ p.op)) with
  | none => .next s
  | some p =>
    if fabricWorks s.hub then onState s (settleRequest s.hub (releaseRequest (dropInbox s.work k) p) p p.causal) else .next s

/-! ### Packets that are not acknowledged (R372) -/

/-- A port times out once more in a row for a destination; the third time it leaves the spray. -/
def countTimeout (s : Sender) (port : Nat) : Sender :=
  let n := alGet 0 s.timeouts port + 1
  if 3 ≤ n then { s with left := addOnce s.left port, timeouts := alDel s.timeouts port }
  else { s with timeouts := alSet s.timeouts port n }

/-- A held packet is given up: a request completes with the code. -/
def abandonPacket (h : Hub) (w : Work) (s : Sender) (p : Packet) (code : Code) : Hub × Work :=
  let w1 := w.setSender { s with held := s.held.filter (fun y => y.packet.psn != p.psn) }
  if 0x80 ≤ p.op then (h, freeKept w1 p)
  else settleRequest h w1 { p with src := p.dest, status := code, payload := [] } 0

/-- The seventh resend has failed: the request completes with 0x0502 and the destination counts as unreachable. -/
def giveUp (h : Hub) (w : Work) (s : Sender) (x : HeldPacket) : Hub × Work :=
  let p := x.packet
  abandonPacket h (emit h w ⟨5, 0x0502, p.path, unitOf 4 p.path, 0, []⟩) { s with unreachable := true } p 0x0502

/-- The next port in turn is an Ethernet port without an entry for the destination: the resend is refused (R366). -/
def resendRefused (w : Work) (s : Sender) (x : HeldPacket) : Bool :=
  match resendPort w s x with
  | some port => !ethReachable w port s.dest
  | none => false

def execRetransmitTimeout (dest cls : Nat) (psn : BitVec 32) (s : State) : Out :=
  let h := s.hub
  let w := s.work
  let sn := senderOf w dest cls
  match sn.held.find? (fun x => x.packet.psn == psn) with
  | none => .next s
  | some x =>
    if !fabricWorks h then .next s
    else
      let s1 := countTimeout sn x.packet.path
      if x.resends < 7 then
        (if resendRefused w s1 x then onState s (abandonPacket h w s1 x.packet 0x0501)
         else onState s (h, resendPacket h (w.setSender s1) s1 x))
      else onState s (giveUp h w s1 x)

end Sys2Proof.Machine
end

