-- ==== Sys2Proof/Machine/ParityError.lean ====
section
/-!
DEFINITION. A parity or read error reaches the operation that consumes the data (11 R331, 05 R126): the consumer ends
precisely, with its address, and what it would have written from that data does not change. A consumer that does not run
meets no error: the command changes nothing (log 1).
-/

namespace Sys2Proof.Machine

/-- 0x0402 for a parity error, 0x0403 for a read error. -/
def errorCode (readError : Bool) : Code := if readError then 0x0403 else 0x0402

/-! ### Counts of FW3 (13 R423) -/

/-- Where the bad byte of an engine's operand stood. -/
inductive RasKind where
  | sram | tile | arrayWord
  deriving DecidableEq, Repr

/-- Count a parity fault of an engine; read errors of LPDDR5X are not the engine's. -/
def countRas (w : Work) (e : Nat) (k : RasKind) (readError : Bool) : Work :=
  if readError then w
  else
    w.setEngine e (fun en =>
      { en with ras := match k with
        | .sram => { en.ras with sram := min (en.ras.sram + 1) max32 }
        | .tile => { en.ras with tile := min (en.ras.tile + 1) max32 }
        | .arrayWord => { en.ras with arrayWord := min (en.ras.arrayWord + 1) max32 } })

/-! ### Operations of an engine (04 R122, R123; 05 R137; 06 R154, R166; 07 R195) -/

/-- The place of the byte at `addr` in the concatenation of spans (address, length), if one of them holds it. -/
def placeIn : List (Nat × Nat) → Nat → Option Nat
  | [], _ => none
  | (a, n) :: r, addr => if a ≤ addr ∧ addr < a + n then some (addr - a) else (placeIn r addr).map (fun k => n + k)

/-- Far spans of a load: those of a frame are known once its header is read. -/
def loadSpans (h : Hub) (w : Work) (e : Nat) (p : BulkP) : List (Nat × Nat × Nat) :=
  if p.keep.isNone then bulkSpans p
  else
    (p.far, 0, 64) ::
      (match farRead h w e p p.far 64 with
       | .ok hd => if headerRefused hd p.rowBytes p.rows then [] else frameSpans p (some hd)
       | .error _ => [])

/-- The far address of a byte of this module that a load reads. -/
def loadAccess (h : Hub) (w : Work) (e : Nat) (p : BulkP) (addr : Nat) : Option Nat :=
  (loadSpans h w e p).findSome? (fun x => match targetOf h x.1 with
    | .self l => if l ≤ addr ∧ addr < l + x.2.2 then some (x.1 + (addr - l)) else none
    | _ => none)

/-- A load meets a bad byte of its far block (07 R195, 10 R296). -/
def loadError (h : Hub) (w : Work) (e : Nat) (o : Op) (p : BulkP) (code : Code) (addr : Nat) : Work :=
  let bad (a : Nat) : Bool := a == addr
  match loadAccess h w e p addr with
  | none => w
  | some f =>
    let parts :=
      if p.keep.isNone then loadParts h w e p bad
      else if f < p.far + 64 then []
      else
        match farRead h w e p p.far 64 with
        | .ok hd => frameParts h w e p hd bad
        | .error _ => []
    faultOp h (partialWords w parts (fun w a bs => w.sram a bs)) e o code f none (((p.keep.map (fun u => u.entry)).getD 0))

/-- The line of the far block that a store writes in part and that holds `addr`: the far address of its first byte written. -/
def mergeAccess (h : Hub) (spans : List (Nat × List Byte)) (addr : Nat) : Option Nat :=
  (spans.flatMap (fun x => lineParts x.1 x.2)).findSome? (fun x => match targetOf h x.1 with
    | .self l => if l / 128 = addr / 128 ∧ x.2.length < 128 then some x.1 else none
    | _ => none)

/-- A store meets a bad byte of its near block, or of a line that it writes in part. Under the codec the failing access is the
frame's (DESIGN CHOICE, log 60). -/
def storeError (h : Hub) (w : Work) (e : Nat) (o : Op) (p : BulkP) (code : Code) (addr : Nat) : Work :=
  let spans := (storeSpans w o p).1
  let near := (bulkSpans p).map (fun x => (x.2.1, x.2.2))
  let put (w : Work) (a : Nat) (bs : List Byte) : Work := match farWrite h w e p a bs with
    | .ok w1 => w1
    | .error _ => w
  let done (f : Nat) (bad : Nat → Nat → Bool) : Work :=
    faultOp h (partialWords w (storeWords h w e p spans bad) put) e o code f none (((p.keep.map (fun u => u.entry)).getD 0))
  match placeIn near addr, mergeAccess h spans addr with
  | some k, _ =>
    (match p.keep with
     | none => done (((bulkSpans p).findSome? (fun x =>
         if x.2.1 ≤ addr ∧ addr < x.2.1 + x.2.2 then some (x.1 + (addr - x.2.1)) else none)).getD p.far) (fun i _ => i == k)
     | some u =>
       let f := (fmtOfCode u.srcFmt).getD .fp32
       let raw (r i : Nat) : Bool := rowAddr p.near p.nearStride r + i == addr
       done p.far (fun i _ => !codedGood u.mode f p.rowBytes p.rows raw i))
  | none, some f =>
    done f (fun _ a => (mergeAccess h [(a, [0])] addr).isSome)
  | none, none => w

/-- A bulk transfer ends with a memory error: other words of its destination are old or new (07 R195). -/
def bulkError (h : Hub) (w : Work) (e : Nat) (o : Op) (p : BulkP) (code : Code) (addr : Nat) : Work :=
  if p.load then loadError h w e o p code addr else storeError h w e o p code addr

/-- The operation that a faulted drain feeds faults first when a row that it was handed halts it (06 R164, 08 R234). -/
def haltFirst (h : Hub) (w : Work) (e : Nat) (bound : Option Nat) : Work :=
  match (w.engine e).ops.find? isEu with
  | some o =>
    (match o.kind with
     | .eu p _ handed _ _ =>
       if bound = some o.id ∧ mayStart (w.engine e) o ∧ o.phase ≠ .ran then
         (match runEu h w e o p handed handed.length 0 with
          | (w1, some (c, a)) => if c = 0x0301 then endEu h (freeEuWaits w1 e) e o p.tensorId (some (c, a)) else w
          | (_, none) => w)
       else w
     | _ => w)
  | none => w

/-- A preload ends with `n` rows written; a drain ends when its row `n` is read (05 R132, R137; DEDUCED, log 40). -/
def tileError (h : Hub) (w : Work) (e : Nat) (o : Op) (n : Nat) (code : Code) (addr : Nat)
    (detail : Option (Nat × Nat × Nat)) : Work :=
  match o.kind with
  | .preload p => endPreload h (runPreload h w e o { p with rows := min n p.rows }).1 e o p (some (code, addr))
  | .drain p b =>
    let w1 := (runDrain h w e o p b (min n p.rows) (storedBefore p (min n p.rows))).1
    endDrain h (haltFirst h w1 e b) e o p b (some (code, addr, detail))
  | _ => w

/-- An element-unit operation ends after `n` elements, or after `n` rows with one result a row (06 R166). -/
def euError (h : Hub) (w : Work) (e : Nat) (o : Op) (n : Nat) (code : Code) (addr : Nat) : Work :=
  match o.kind with
  | .eu p _ handed _ _ =>
    let all := euRows p handed
    let r := if rowWise p.op then runEu h w e o p handed (min n all) 0
             else if n / p.cols < all then runEu h w e o p handed (n / p.cols) (n % p.cols)
             else runEu h w e o p handed all 0
    endEu h (freeEuWaits r.1 e) e o p.tensorId (some (code, addr))
  | _ => w

/-- Operation `o` consumes the bad data after `n` rows, tokens or elements. -/
def operationError (h : Hub) (w : Work) (e : Nat) (o : Op) (n : Nat) (code : Code) (addr : Nat) (re : Bool) : Work :=
  let ras := re || decide (addr < sramBase 0)
  match o.kind with
  | .wload _ _ => if o.phase == .started then countRas (faultLoad h w e o code addr) e .arrayWord ras else w
  | .array p _ (some s) _ t =>
    if o.phase == .started then
      countRas (faultArray h w e o (min (planesFrom p s t) ((n - t) * stepsPerToken p s)) code addr none) e .arrayWord ras
    else w
  | .array .. => w
  | .inset p =>
    if o.phase == .started && !p.empty then countRas (faultInset h (freeInsetWaits w e) e o p code addr none) e .arrayWord ras else w
  | .preload p =>
    if frontTileOp h w e == some o && o.phase != .ran && !p.empty then
      countRas (tileError h w e o n code addr none) e .sram ras
    else w
  | .drain p _ =>
    if frontTileOp h w e == some o && o.phase != .ran && !p.empty then
      countRas (tileError h w e o n code addr none) e .sram ras
    else w
  | .eu p _ _ _ _ =>
    if frontEu h w e == some o && o.phase != .ran && !p.empty then
      countRas (euError h w e o n code addr) e .sram ras
    else w
  | .bulk p =>
    if mayTransfer (w.engine e) o && p.rowBytes != 0 && p.rows != 0 then
      countRas (bulkError h w e o p code addr) e .sram ras
    else w
  | .atomic _ => if mayTransfer (w.engine e) o then faultOp h w e o code addr none 0 else w
  | .reduce p => if mayStart (w.engine e) o then countRas (faultReduce h w e o p code addr) e .sram ras else w
  | .fence => w
  | .signal _ => w
  | .wait _ => w

/-- A tile element is read by the array, the inset path or a drain (05 R126). -/
def tileOperand (h : Hub) (w : Work) (e : Nat) (o : Op) (row col : Nat) (code : Code) (re : Bool) : Work :=
  match o.kind with
  | .array p _ (some s) _ t =>
    if o.phase == .started && decide (t ≤ row ∧ row < p.m ∧ col < s.nCols) then
      let planes := min (planesFrom p s t) (arrayNanStep (stepsPerToken p s) t row col + 1)
      countRas (faultArray h w e o planes code 0 (some (p.tile, row, col))) e .tile re
    else w
  | .inset p =>
    if o.phase == .started && decide (p.row0 ≤ row ∧ row < p.row0 + p.m ∧ col < p.nCols) then
      countRas (faultInset h (freeInsetWaits w e) e o p code 0 (some (p.tile, row, col))) e .tile re
    else w
  | .drain p _ =>
    if frontTileOp h w e == some o && o.phase != .ran && decide (p.row0 ≤ row ∧ row < p.row0 + p.rows ∧ col < p.cols) then
      countRas (tileError h w e o (row - p.row0) code 0 (some (p.tile, row, col))) e .tile re
    else w
  | _ => w

/-- A context save reads a bad element of tile `t`: its area stays incomplete (05 R126, R144). -/
def saveError (h : Hub) (w : Work) (e : Nat) (j : CtxJob) (t row col : Nat) (code : Code) (re : Bool) : Work :=
  let a := j.addr + 0x30000 + t * 0xC0000 + (512 * row + col) * 6
  let w1 := cutSave h w e j (fun x => decide (a ≤ x ∧ x < a + 6))
  let w2 := w1.setEngine e (fun en => { releaseContext en with saving := none })
  let w3 := recordFault h (countRas w2 e .tile re) e j.stream code { descFaultAt 0 with detail := some (t, row, col) }
  finishDescriptor h w3 e j.stream 0 code

/-- Operation `id` of engine `e` reads a bad element. -/
def tileElemError (h : Hub) (w : Work) (e id row col : Nat) (code : Code) (re : Bool) : Work :=
  match (w.engine e).op id with
  | some o => tileOperand h w e o row col code re
  | none => w

/-- The context save of engine `e` reads a bad element of tile `t`. -/
def savedElemError (h : Hub) (w : Work) (e t row col : Nat) (code : Code) (re : Bool) : Work :=
  let en := w.engine e
  match en.saving with
  | some j => if en.ops.all (mayStay en) && decide (t < 2 ∧ row < 256 ∧ col < 512) then saveError h w e j t row col code re else w
  | none => w

/-! ### Reads of the sequencer (07 R206, 14 R436) -/

def streamError (h : Hub) (w : Work) (e q : Nat) (code : Code) (addr : Nat) : Work :=
  let st := w.stream e q
  if st.desc.isNone then
    (if st.enable && !st.fault && !st.unsealed then ringFault h w e q code addr else w)
  else if streamReady h w e q then refuseInstr h (serveStream w e q) e q code 0 addr none 0
  else if !st.running && (w.engine e).saving.isNone && (w.engine e).genHold != some q then
    refuseDescriptor h w e q code addr
  else w

/-! ### Agents beside the engines -/

/-- The copier: an epoch ends (13 R409); a restore or refill counts the piece as failed (13 R411, R416). -/
def copierError (h : Hub) (w : Work) (code : Code) (addr : Nat) : Work :=
  match w.copier.run with
  | none => w
  | some r =>
    if w.copier.phase = 2 then epochReadError h w code addr
    else if (w.copier.phase = 4 ∨ w.copier.phase = 5) ∧ r.missing.isEmpty then
      (copierReadError h w code addr).setRun (fun r => { r with failed := r.failed ++ [(0, code, atlasOf addr)] })
    else w

/-- The collective logic: its collective ends on every member, or its descriptor is refused (12 R394). -/
def collectiveError (h : Hub) (w : Work) (k : Nat) (code : Code) (addr : Nat) : Work :=
  let q := collQ w k
  if !collWorks h then w
  else
    match q.cur, q.desc with
    | some c, _ => abortColl h (noteReadError h w code (unitOf 7 k) addr) k c code
    | none, some d =>
      if knownColl d.kind then
        let c := collFrom d
        endColl h (noteReadError h w code (unitOf 7 k) addr) k (if complOk h c.complAddr then c.complAddr else 0)
          (if 2 ^ 14 ≤ c.signal then 0 else c.signal) (reducing c.kind && c.partialCode != 0) c.collSeq code 0 none
      else w
    | none, none => w

/-- A dirty line of a cache has bad data, which nothing consumes before it leaves the cache (11 R332). -/
def markLine (w : Work) (agent ln : Nat) : Work :=
  { w with
    coh :=
      { w.coh with
        lines := w.coh.lines.map (fun l =>
          if l.agent = agent ∧ l.line = ln ∧ (l.st = .m ∨ l.st = .o) then { l with bad := true } else l)
        victims := w.coh.victims.map (fun v =>
          if v.agent = agent ∧ v.line = ln ∧ !v.done then { v with bad := true } else v) } }

/-- The code goes back to the requester of a remote access (11 R331, 12 R376). -/
def remoteError (h : Hub) (w : Work) (k : Nat) (code : Code) (addr : Nat) : Work :=
  match inboxAt w k isAccess with
  | some p => if fabricWorks h && !behindLine w k p then answer h (afterReadError h w code addr) k p code [] else w
  | none => w

/-- A core of cluster `n` meets bad data: the transaction that fetches its line ends without a grant, and its store changes
nothing (11 R331). -/
def coreError (h : Hub) (w : Work) (n : Nat) (code : Code) (addr : Nat) : Work :=
  let ln := lineOf addr
  let w1 := (emitMemError h (badLeaves h w n code addr) code (unitOf 6 n) addr).reply code []
  match activeTxn w1.coh ln with
  | some t =>
    if t.agent = n ∨ isUncached t.kind then
      releaseHome h (advanceLine h (dirNote h (grantLine (freeTracker (returnSupply w1 t) t) none code) ln) ln) (lineHome ln)
    else w1
  | none => w1

/-- The error reaches its consumer. -/
def consumeError (h : Hub) (w : Work) (c : ErrConsumer) (addr : Nat) (re : Bool) : Work :=
  let code := errorCode re
  match c with
  | .engineOp e id n =>
    (match (w.engine e).op id with
     | some o => if working h w e then operationError h w e o n code addr re else w
     | none => w)
  | .savedElem e t row col => if working h w e then savedElemError h w e t row col code re else w
  | .tileElem e id row col => if working h w e then tileElemError h w e id row col code re else w
  | .stream e q => if working h w e then streamError h w e q code addr else w
  | .preCheck => if updReady h then goBit h w w.upd.phase (some (code, addr)) else w
  | .updateUnit u =>
    (match w.upd.run with
     | some r => if w.upd.phase = 3 ∧ updReady h then faultStep h (noteReadError h w code (unitOf 3 u) addr) r code (some addr) else w
     | none => w)
  | .copier => if copierReady h then copierError h w code addr else w
  | .collective k => collectiveError h w k code addr
  | .core n => if h.ident.powered then coreError h w n code addr else w
  | .remote k => remoteError h w k code addr
  | .dirtyLine a => markLine w a (lineOf addr)

/-- A read error that reached its consumer, `w1` after `w`, came after two retries of the read (R330). -/
def noteRetries (readError : Bool) (w w1 : Work) : Work := if readError && w1 != w then countRetries w1 true 2 else w1

def execMemoryParityError (c : ErrConsumer) (addr : Nat) (readError : Bool) (s : State) : Out :=
  onWork s fun h w => noteRetries readError w (consumeError h w c addr readError)

end Sys2Proof.Machine
end

