-- ==== Sys2Proof/Machine/RasCommands.lean ====
section
/-!
DEFINITION. The mailbox commands that FW3, FW4 and FW5 serve (14 R446, 08 R215, 11 R322, R332, R333, R349, 13 R423, 17 R509):
quarantine lists, directory reads, retirement, fault counts, mailboxes, tables, telemetry, crash dumps and log rings.
-/

namespace Sys2Proof.Machine

/-! ### FW3: quarantine, directory, retirement -/

def runQuarantineRead (h : Hub) (w : Work) (_ : Nat) (p : List Byte) : MbResult :=
  let n := fld p 8 1
  let dst := fld p 0x10 8
  if 23 < n ∨ !addrArg h dst 2048 64 then mbRefuse h w 0x0604
  else
    let hm := w.coh.home n
    let bs := padTo 2048 (hm.quarantine.flatMap (fun ln => leBytes 8 (ln * 128)))
    mbDone h (physWrite h w dst bs) (leBytes 2 hm.quarantine.length ++ leBytes 1 (if hm.overflow then 1 else 0))

def execQuarantineRead (k : Nat) (s : State) : Out := serveCommand 0x0401 3 false [(8, 1), (0x10, 8)] runQuarantineRead k s

/-- 128 zero bytes as a whole-line write at the home. -/
def runQuarantineClear (h : Hub) (w : Work) (_ : Nat) (p : List Byte) : MbResult :=
  let a := fld p 8 8
  if !addrArg h a 128 128 then mbRefuse h w 0x0604 else mbDone h (physWrite h w a (List.replicate 128 0)) []

def execQuarantineClear (k : Nat) (s : State) : Out := serveCommand 0x0402 3 true [(8, 8)] runQuarantineClear k s

def dirStateCode : LineState → Nat
  | .s => 1
  | .e => 2
  | .m => 3
  | .o => 3

/-- The record of R349. -/
def dirRecord (d : Option DirEntry) : List Byte :=
  match d with
  | none => leBytes 10 0 ++ leBytes 1 0 ++ leBytes 1 0xFF ++ leBytes 4 0
  | some e =>
    leBytes 10 (maskOf 80 (fun a => e.sharers.contains a)) ++ leBytes 1 (dirStateCode e.st) ++ leBytes 1 e.owner ++ leBytes 4 0

def runDirRead (h : Hub) (w : Work) (_ : Nat) (p : List Byte) : MbResult :=
  let a := fld p 8 8
  let dst := fld p 0x10 8
  if !addrArg h a 64 64 ∨ !addrArg h dst 16 16 then mbRefuse h w 0x0604
  else if !h.ident.cfg.coherenceMode then mbRefuse h w 0x0606
  else
    let ln := lineOf a
    mbDone h (physWrite h w dst (dirRecord ((w.coh.home (lineHome ln)).dir.find? (fun d => d.line == ln)))) []

def execDirRead (k : Nat) (s : State) : Out := serveCommand 0x0403 3 false [(8, 8), (0x10, 8)] runDirRead k s

/-- A single-engine reset, and the engine is gone until a module warm reset: its SRAM contents are lost (13 R423). -/
def retireNow (h : Hub) (w : Work) (e : Nat) : Hub × Work :=
  let w1 := (resetEngineNow h w e).setEngine e (fun en => { en with resetting := false })
  ({ h with ident := { h.ident with cmdRetired := addOnce h.ident.cmdRetired e } },
    { w1 with mem := memClear w1.mem (sramBase e) sramSize })

def runRetireEngine (h : Hub) (w : Work) (_ : Nat) (p : List Byte) : MbResult :=
  let e := fld p 8 1
  if 71 < e then mbRefuse h w 0x0604
  else if retired h e then mbRefuse h w 0x0606
  else
    let r := retireNow h w e
    mbDone r.1 r.2 []

def execRetireEngine (k : Nat) (s : State) : Out := serveCommand 0x0404 3 true [(8, 1)] runRetireEngine k s

def runRasCounts (h : Hub) (w : Work) (_ : Nat) (p : List Byte) : MbResult :=
  let e := fld p 8 1
  if e = 0xFF then
    mbDone h w (leBytes 4 0 ++ leBytes 4 0 ++ leBytes 4 0 ++ leBytes 4 w.coh.homeRing ++ leBytes 4 w.coh.eccRetries)
  else if 71 < e then mbRefuse h w 0x0604
  else
    let r := (w.engine e).ras
    mbDone h w (leBytes 4 r.sram ++ leBytes 4 r.tile ++ leBytes 4 r.arrayWord ++ leBytes 4 r.ring ++ leBytes 4 0)

def execRasCounts (k : Nat) (s : State) : Out := serveCommand 0x0405 3 false [(8, 1)] runRasCounts k s

/-! ### FW4: mailboxes (R442) -/

def runMbOpen (h : Hub) (w : Work) (_ : Nat) (p : List Byte) : MbResult :=
  let j := fld p 8 1
  let cmdLog2 := fld p 9 1
  let cplLog2 := fld p 0x0A 1
  let priv := fld p 0x0B 1
  let cmd := fld p 0x10 8
  let cpl := fld p 0x18 8
  if j = 0 ∨ 15 < j ∨ 1 < priv ∨ !ringArgsOk cmd cmdLog2 ∨ !ringArgsOk cpl cplLog2 then mbRefuse h w 0x0604
  else if (h.mailbox j).isOpen then mbRefuse h w 0x0606
  else if !ringPlaced h cmd cmdLog2 ∨ !ringPlaced h cpl cplLog2 then mbRefuse h w 0x0103
  else
    let m : Mailbox :=
      { resetMailbox with
        isOpen := true
        priv := priv == 1
        cmdBase := cmd
        cmdLog2 := cmdLog2
        cplBase := cpl
        cplLog2 := cplLog2
        doneSeq := 0xFFFFFFFF }
    mbDone (h.setMailbox j (fun _ => m)) (openMailbox h w j m) []

def execMbOpen (k : Nat) (s : State) : Out :=
  serveCommand 0x0501 4 true [(8, 1), (9, 1), (0x0A, 1), (0x0B, 1), (0x10, 8), (0x18, 8)] runMbOpen k s

/-- OPEN is cleared after the mailbox's current command. -/
def closeMailbox (h : Hub) (w : Work) (j : Nat) : Hub × Work :=
  let m := h.mailbox j
  if m.cmd.isSome then (h.setMailbox j (fun m => { m with closing := true }), w)
  else
    let m1 := { m with isOpen := false }
    (h.setMailbox j (fun _ => m1), if m.isOpen then writeDirectory h w j m1 else w)

def runMbClose (h : Hub) (w : Work) (_ : Nat) (p : List Byte) : MbResult :=
  let j := fld p 8 1
  if j = 0 ∨ 15 < j then mbRefuse h w 0x0604
  else
    let r := closeMailbox h w j
    mbDone r.1 r.2 []

def execMbClose (k : Nat) (s : State) : Out := serveCommand 0x0502 4 true [(8, 1)] runMbClose k s

/-! ### FW4: tables of the whole module -/

/-- A stream of an engine holds a descriptor (DEDUCED for "any engine stream runs", log 33). -/
def streamsRun (w : Work) : Bool := w.engines.any (fun en => en.streams.any (fun st => st.desc.isSome))

def setTensorTable (w : Work) (log2 base : Nat) : Work :=
  { w with
    tables := { w.tables with ttLog2 := log2, ttBase := base }
    engines := w.engines.map (fun en => { en with ttLog2 := log2, ttBase := base }) }

def runSetTensorTable (h : Hub) (w : Work) (_ : Nat) (p : List Byte) : MbResult :=
  let log2 := fld p 8 1
  let base := fld p 0x10 8
  if 20 < log2 ∨ base % 4096 ≠ 0 ∨ (log2 ≠ 0 ∧ !inLpddr h base (256 * 2 ^ log2)) then mbRefuse h w 0x0604
  else if streamsRun w || w.upd.phase != 0 then mbRefuse h w 0x0606
  else mbDone h (setTensorTable w log2 base) []

def execSetTensorTable (k : Nat) (s : State) : Out := serveCommand 0x0503 4 true [(8, 1), (0x10, 8)] runSetTensorTable k s

/-- The translations kept from the table before go with it (DESIGN CHOICE, log 33). -/
def setXlate (w : Work) (on : Bool) (base : Nat) : Work :=
  { w with
    tables := { w.tables with xlEnable := on, xlBase := base }
    engines := w.engines.map (fun en => { en with xl := { en.xl with enable := on, base := base, kept := [] } }) }

def runSetXlate (h : Hub) (w : Work) (_ : Nat) (p : List Byte) : MbResult :=
  let en := fld p 8 1
  let base := fld p 0x10 8
  if 1 < en ∨ base % 8192 ≠ 0 ∨ (en = 1 ∧ !inLpddr h base 8192) then mbRefuse h w 0x0604
  else if streamsRun w || w.upd.phase != 0 || w.copier.phase != 0 then mbRefuse h w 0x0606
  else mbDone h (setXlate w (en == 1) base) []

def execSetXlate (k : Nat) (s : State) : Out := serveCommand 0x0504 4 true [(8, 1), (0x10, 8)] runSetXlate k s

/-! ### FW4: telemetry and dumps -/

/-- The hottest junction of the last temperature sample, in 0.1 °C. -/
def hottest (s : Safety) : Nat := min 32767 (10 * s.temps.foldl max 0)

/-- Power, engine rail and temperature are those of the last samples (DEDUCED, log 33). -/
def runTelemetry (h : Hub) (w : Work) (_ : Nat) (_ : List Byte) : MbResult :=
  let s := h.safety
  let late := (w.fabric.ports.map (fun p => p.c0Over)).sum
  mbDone h w
    (leBytes 4 (toFp32 (.fin false s.power 1)) ++ leBytes 2 s.measuredMv ++ leBytes 2 (hottest s) ++
      leBytes 2 (maskOf 16 (portIsUp w)) ++ leBytes 2 0 ++ leBytes 4 (min late max32) ++ leBytes 8 h.fw.served)

def execTelemetry (k : Nat) (s : State) : Out := serveCommand 0x0505 4 false [] runTelemetry k s

def runDumpClear (h : Hub) (w : Work) (_ : Nat) (p : List Byte) : MbResult :=
  let n := fld p 8 1
  if 5 < n then mbRefuse h w 0x0604
  else mbDone (h.setProc n (fun x => { x with dump := { x.dump with valid := false, lost := 0 } })) w []

def execDumpClear (k : Nat) (s : State) : Out := serveCommand 0x0506 4 true [(8, 1)] runDumpClear k s

/-! ### FW5: log rings (17 R509) -/

def runSetLogRing (h : Hub) (w : Work) (_ : Nat) (p : List Byte) : MbResult :=
  let c := fld p 8 1
  let log2 := fld p 9 1
  let base := fld p 0x10 8
  if 11 < c ∨ !ringArgsOk base log2 then mbRefuse h w 0x0604
  else if !ringPlaced h base log2 then mbRefuse h w 0x0103
  else
    mbDone h
      ((sealRing h w base log2 0).setLogs (fun l =>
        { l with heads := l.heads.set c 0, rings := l.rings.set c (some ⟨base, log2, 0⟩) }))
      []

def execSetLogRing (k : Nat) (s : State) : Out := serveCommand 0x0601 5 true [(8, 1), (9, 1), (0x10, 8)] runSetLogRing k s

end Sys2Proof.Machine
end

