-- ==== Sys2Proof/Machine/Reread.lean ====
section
/-!
DEFINITION. The re-reads of an unsealed slot (14 R438, R439, R444): the next one of an engine stream, of a collective queue
or of FW4, which also looks again at a completion ring that was full.
-/

namespace Sys2Proof.Machine

def rereadQueue (h : Hub) (w : Work) (e q : Nat) : Work :=
  if (w.stream e q).rereads ≠ 0 ∧ working h w e then readQueue h w e q else w

def rereadColl (h : Hub) (w : Work) (k : Nat) : Work :=
  if (collQ w k).rereads ≠ 0 ∧ collWorks h then readColl h w k else w

def rereadMailbox (h : Hub) (w : Work) (k : Nat) : Hub × Work :=
  if (h.mailbox k).rereads ≠ 0 ∨ (h.mailbox k).full then readMailbox h w k else (h, w)

def execSealReread (c : Consumer) (s : State) : Out :=
  match c with
  | .engineQueue e q => onWork s fun h w => rereadQueue h w e q
  | .collectiveQueue k => onWork s fun h w => rereadColl h w k
  | .mailbox k =>
    let r := rereadMailbox s.hub s.work k
    .next { s with hub := r.1, work := r.2 }

end Sys2Proof.Machine
end

