-- ==== Sys2Proof/Machine/SafetyCtl.lean ====
section
/-!
DEFINITION. The safety controller (15 R471 to R478, 19 R540, R551): input samples, over-current and thermal responses,
orderly stops, the reference, and the engine rail.
-/

namespace Sys2Proof.Machine

def Hub.setSafety (h : Hub) (f : Safety → Safety) : Hub := { h with safety := f h.safety }

/-- The safety controller runs while the module has power (R473). -/
def scRuns (h : Hub) : Bool := h.ident.powered

/-! ### Trips (R478, R482) -/

/-- SOURCE of the input. -/
def inputSource : Nat := 0xFF

/-- A trip entry, its class-0 alarm, and its log record of class 7. -/
def trip (h : Hub) (w : Work) (code : Code) (source value : Nat) : Hub × Work :=
  let n := min (h.safety.tripCount + 1) max32
  let h1 := h.setSafety (fun s =>
    { s with
      tripCount := n
      lastCode := code
      tripLog := s.tripLog.set (n % 16) ⟨code, source, min value 65535, w.logs.domainCounts.getD 54 0⟩ })
  let detail := leBytes 2 source ++ leBytes 2 value
  let w1 := raiseAlarm h1 w code 54 (unitOf 9 0) detail []
  (h1, emit h1 w1 ⟨7, code, 54, unitOf 9 0, 0, detail⟩)

/-- A change of CAP_MV is a class-7 record (17 R508). -/
def capLog (h : Hub) (w : Work) : Work :=
  emit h w ⟨7, 0x0702, 54, unitOf 9 0, 0, leBytes 2 inputSource ++ leBytes 2 h.safety.capMv⟩

/-! ### Over-current (R474, R475) -/

/-- Lower CAP_MV by 10 mV below `mv`, to no less than 600 mV. -/
def lowerCap (s : Safety) (mv : Nat) : Safety := { s with capMv := max 600 (mv - 10) }

/-- The first action of an over-current response. -/
def beginOvercurrent (h : Hub) (w : Work) (f : Safety → Safety) : Hub × Work :=
  trip (h.setSafety (fun s => f (lowerCap s (min s.capMv (setpointMv s))))) w 0x0702 inputSource h.safety.power

def conditionHolds (s : Safety) : Bool := s.ocPeak || s.ocSustained

/-- Input power above PEAK_W for 100 µs. -/
def execPeakOvercurrent (s : State) : Out :=
  if scRuns s.hub ∧ s.hub.safety.peakW < s.hub.safety.power ∧ !s.hub.safety.ocPeak then
    onState s (beginOvercurrent s.hub s.work (fun x => { x with ocPeak := true }))
  else .next s

/-- Input power above SUSTAINED_W for PEAK_WINDOW_MS. -/
def execSustainedOvercurrent (s : State) : Out :=
  if scRuns s.hub ∧ s.hub.safety.sustainedW < s.hub.safety.power ∧ !s.hub.safety.ocSustained then
    onState s (beginOvercurrent s.hub s.work (fun x => { x with ocSustained := true }))
  else .next s

/-- The 10 µs sample: `volts` in 10 mV, `power` in W, and the rails `mv` as measured. A response is released when its
condition has cleared. -/
def sampleInput (s : Safety) (power volts : Nat) (mv : Nat → Nat) : Safety :=
  { s with
    power := min power 65535
    voltage := min volts 65535
    measuredMv := min (mv 0) 1023
    rails := s.rails.mapIdx (fun n r => { r with measured := mv n })
    ocPeak := s.ocPeak && decide (s.peakW < power)
    ocSustained := s.ocSustained && decide (s.sustainedW < power) }

/-- The rails as measured are free (R481, log 96). -/
def execInputSample (power volts : Nat) (s : State) : Out :=
  if scRuns s.hub then
    let mv (n : Nat) : Nat := (Config.freeRailMv s.work.freeIx n).toNat
    .next { s with hub := s.hub.setSafety (fun x => sampleInput x power volts mv), work := s.work.tick }
  else .next s

def execCapStep (s : State) : Out :=
  if scRuns s.hub ∧ conditionHolds s.hub.safety ∧ 600 < s.hub.safety.capMv then
    let h1 := s.hub.setSafety (fun x => lowerCap x x.capMv)
    onState s (h1, capLog h1 s.work)
  else .next s

def execOvercurrentPark (s : State) : Out :=
  if scRuns s.hub ∧ conditionHolds s.hub.safety ∧ s.hub.safety.capMv ≤ 600 ∧ !s.hub.safety.ocParked then
    .next { s with hub := s.hub.setSafety (fun x => { x with ocParked := true }) }
  else .next s

def execOvercurrentParkRelease (s : State) : Out :=
  if scRuns s.hub ∧ s.hub.safety.ocParked ∧ !conditionHolds s.hub.safety then
    let h1 := s.hub.setSafety (fun x => { x with ocParked := false })
    onState s (h1, wakeEngines h1 s.work)
  else .next s

/-- Input power at or below 95 % of SUSTAINED_W for 10 ms. -/
def execCapRaise (s : State) : Out :=
  if scRuns s.hub ∧ 100 * s.hub.safety.power ≤ 95 * s.hub.safety.sustainedW ∧ s.hub.safety.capMv < 750 then
    let h1 := s.hub.setSafety (fun x => { x with capMv := min 750 (x.capMv + 10) })
    onState s (h1, capLog h1 s.work)
  else .next s

/-! ### Orderly stop (R477) -/

/-- Every engine is parked, staging stops, an epoch ends, the trip is entered, and the module is Off. -/
def orderlyStop (h : Hub) (w : Work) (code : Code) (source value : Nat) : Hub × Work :=
  let h0 := h.setSafety (fun s => { s with stopping := true })
  let w0 := resetCopierRun h0 w
  let (h1, w1) := trip h0 w0 code source value
  ({ h1 with
      ident :=
        { h1.ident with
          powered := false, bootDone := false, complexReady := false, links := [false, false]
          fwAlive := List.replicate 6 false }
      fw :=
        { h1.fw with
          update := { h1.fw.update with stage := if h1.fw.update.stage = 1 ∨ h1.fw.update.stage = 2 then 0 else h1.fw.update.stage } } },
    portsDown w1)

/-- Input below UNDER_V for 10 µs; `volts` in 0.1 V. -/
def execUnderVoltage (volts : Nat) (s : State) : Out :=
  if scRuns s.hub ∧ volts < s.hub.safety.underV then onState s (orderlyStop s.hub s.work 0x0704 inputSource volts)
  else .next s

/-- Input above OVER_V for 10 µs. -/
def execOverVoltage (volts : Nat) (s : State) : Out :=
  if scRuns s.hub ∧ s.hub.safety.overV < volts then onState s (orderlyStop s.hub s.work 0x0704 inputSource volts)
  else .next s

/-- A rail outside its window for 20 µs. -/
def execRailWindowTrip (rail mv : Nat) (s : State) : Out :=
  let r := s.hub.safety.rails.getD rail ⟨0, 0, 0⟩
  if scRuns s.hub ∧ rail < 8 ∧ (mv < r.low ∨ r.high < mv) then
    let h1 := s.hub.setSafety (fun x =>
      { x with
        rails := x.rails.modify rail (fun r => { r with measured := mv })
        measuredMv := if rail = 0 then min mv 1023 else x.measuredMv })
    onState s (orderlyStop h1 s.work 0x0705 rail mv)
  else .next s

/-- PRESENT_N goes high (19 R540); `volts` in 0.1 V. -/
def execPresentNRelease (volts : Nat) (s : State) : Out :=
  if scRuns s.hub then onState s (orderlyStop s.hub s.work 0x0704 inputSource volts) else .next s

/-! ### Temperature (R474, R482) -/

/-- The first die at or above a threshold, with its temperature. -/
def hotDie (temps : List Nat) (c : Nat) : Option (Nat × Nat) :=
  (temps.zipIdx.find? (fun x => decide (c ≤ x.1))).map (fun x => (x.2, x.1))

def execTempSample (temps : List Nat) (s : State) : Out :=
  if !scRuns s.hub then .next s
  else
    let t := (temps ++ s.hub.safety.temps.drop temps.length).take 9
    let h1 := s.hub.setSafety (fun x => { x with temps := t })
    match hotDie t h1.safety.stopC, hotDie t h1.safety.parkC with
    | some (d, c), _ => onState s (orderlyStop h1 s.work 0x0704 d c)
    | none, some (d, c) =>
      if h1.safety.thermalPark then .next { s with hub := h1 }
      else onState s (trip (h1.setSafety (fun x => { x with thermalPark := true })) s.work 0x0703 d c)
    | none, none => .next { s with hub := h1 }

def execThermalRelease (s : State) : Out :=
  if scRuns s.hub ∧ s.hub.safety.thermalPark ∧ s.hub.safety.temps.all (fun t => decide (t ≤ s.hub.safety.releaseC)) then
    let h1 := s.hub.setSafety (fun x => { x with thermalPark := false })
    onState s (h1, wakeEngines h1 s.work)
  else .next s

/-! ### The reference (R451, R474, 19 R551) -/

/-- No edge of the module reference for 1 µs. While the module is Off only the state of the input is noted. -/
def execReferenceLost (s : State) : Out :=
  let h1 := s.hub.setSafety (fun x => { x with refFail := true })
  if s.hub.safety.refFail then .next s
  else if scRuns s.hub then onState s (trip h1 s.work 0x0706 inputSource 0)
  else .next { s with hub := h1 }

/-- The reference has run for 10 ms: a module warm reset follows, or the boot that waited. -/
def execReferenceRestored (s : State) : Out :=
  let h1 := s.hub.setSafety (fun x => { x with refFail := false })
  if !s.hub.safety.refFail then .next s
  else if !mayReset h1 then .next { s with hub := h1 }
  else if h1.ident.bootDone then onState s (warmReset h1 s.work)
  else onState s (bootAfter h1 s.work)

/-! ### The engine rail (R470, R471) -/

/-- FW1 may ask for `mv`: it holds the input power at or below its cap, so that it asks for no more than now while the last
sample lies above the cap (R472; DEDUCED, log 97). -/
def mayRequest (h : Hub) (mv : Nat) : Bool :=
  decide (600 ≤ mv ∧ mv ≤ 750 ∧ mv % 5 = 0) && (decide (mv ≤ h.safety.requestMv) || decide (h.safety.power ≤ h.fw.powerCap))

/-- FW1 requests a setpoint of 600 mV to 750 mV in steps of 5 mV. -/
def execRailRequest (mv : Nat) (s : State) : Out :=
  if fwRuns s.hub 1 ∧ mayRequest s.hub mv then
    .next { s with hub := s.hub.setSafety (fun x => { x with requestMv := mv }) }
  else .next s

end Sys2Proof.Machine
end

