-- ==== Sys2Proof/Machine/Sideband.lean ====
section
/-!
DEFINITION. The sideband connector and the management port (19 R542 to R546), the wake timer (15 R483), and the debug port
(16 R501).
-/

namespace Sys2Proof.Machine

/-! ### RESET_N and SPI recovery (R542, R544) -/

/-- A falling edge of RESET_N is a module warm reset. -/
def execResetN (s : State) : Out :=
  if mayReset s.hub then onState s (warmReset s.hub s.work) else .next s

def setSpi (h : Hub) (b : Bool) : Hub := { h with sec := { h.sec with spiOpen := b } }

/-- RESET_N has been low for 1 s: the contacts connect to the flash, and no boot runs meanwhile. -/
def execSpiRecovery (s : State) : Out :=
  if mayReset s.hub then onState s (warmReset (setSpi s.hub true) s.work) else .next s

/-- RESET_N rises: the contacts disconnect and the boot runs. -/
def execSpiRecoveryEnd (s : State) : Out :=
  if s.hub.sec.spiOpen ∧ mayReset s.hub then onState s (warmReset (setSpi s.hub false) s.work) else .next s

/-! ### FAULT_N (R541) -/

/-- The level of FAULT_N: low while EMERGENCY is 1, or while a bit of FW_ALIVE is 0 once the boot has completed. -/
def faultN (h : Hub) : Bool :=
  !(emergency h.safety || (h.ident.bootDone && (List.range 6).any (fun n => !h.ident.fwAlive.getD n false)))

/-! ### Wake (R543, R546, 15 R483) -/

/-- The wake timer that FW1 set expires in Module standby. -/
def execWakeTimer (s : State) : Out := onState s (leaveStandby s.hub s.work)

/-- The I²C target answers with a status alone. -/
def i2cStatusReply (w : Work) (c : Code) : Work :=
  { w with replies := { w.replies with i2cStatus := c, i2cData := 0 } }

def execWake (s : State) : Out :=
  if i2cAnswers s.hub then onState s (leaveStandby s.hub (i2cStatusReply s.work 0)) else .next s

/-- READ_REG and WAKE have rows of their own; every other command byte is unknown. -/
def execI2cUnknownCommand (b : Byte) (s : State) : Out :=
  onWork s fun h w => if i2cAnswers h && b != 1 && b != 2 then i2cStatusReply w 0x0604 else w

def wakeType : Nat := 0x88B5

/-- A frame that reaches the management port. -/
def execWakeFrame (toOurMac : Bool) (etherType : Nat) (payload : List Byte) (s : State) : Out :=
  if i2cAnswers s.hub ∧ toOurMac ∧ etherType = wakeType ∧ payload.take 8 = leBytes 8 s.hub.ident.serial.toNat then
    onState s (leaveStandby s.hub s.work)
  else .next s

/-! ### The debug port (R501) -/

/-- The mandatory instructions of IEEE 1149.1 in the model's numbering: 0 EXTEST, 1 SAMPLE, 2 PRELOAD, 3 BYPASS; every other
number is a vendor debug instruction (DESIGN CHOICE, log 29). -/
def bypassIr : Nat := 3

def isVendorIr (ir : Nat) : Bool := decide (bypassIr < ir)

/-- The instruction that takes effect. -/
def effectiveIr (h : Hub) (ir : Nat) : Nat := if isVendorIr ir && !h.sec.debugOpen then bypassIr else ir

def execDebugInstruction (ir : Nat) (s : State) : Out :=
  if s.hub.ident.powered then
    let i := effectiveIr s.hub ir
    .next { s with hub := { s.hub with sec := { s.hub.sec with debugIr := i, bypass := i == bypassIr } } }
  else .next s

end Sys2Proof.Machine
end

