-- ==== Sys2Proof/Machine/Dispatch.lean ====
section
/-!
DEFINITION. One arm per command; each arm is one call of the command's meaning.
-/

namespace Sys2Proof.Machine

def exec (i : Instr) (s : State) : Host.Outcome State Fault Refusal :=
  match i with
  | .doorbell e q v => Sys2Proof.Machine.execDoorbell e q v s
  | .sealReread c => Sys2Proof.Machine.execSealReread c s
  | .run e q => Sys2Proof.Machine.execRun e q s
  | .setGen e q => Sys2Proof.Machine.execSetGen e q s
  | .setGenApply e => Sys2Proof.Machine.execSetGenApply e s
  | .ctxSave e q entered => Sys2Proof.Machine.execCtxSave e q entered s
  | .ctxSaveComplete e => Sys2Proof.Machine.execCtxSaveComplete e s
  | .ctxRestore e q => Sys2Proof.Machine.execCtxRestore e q s
  | .resume e q => Sys2Proof.Machine.execResume e q s
  | .unknownDescriptor e q => Sys2Proof.Machine.execUnknownDescriptor e q s
  | .nop e q => Sys2Proof.Machine.execNop e q s
  | .endRun e q => Sys2Proof.Machine.execEndRun e q s
  | .endComplete e q => Sys2Proof.Machine.execEndComplete e q s
  | .setd e q => Sys2Proof.Machine.execSetd e q s
  | .addd e q => Sys2Proof.Machine.execAddd e q s
  | .branch e q => Sys2Proof.Machine.execBranch e q s
  | .tileWait e q => Sys2Proof.Machine.execTileWait e q s
  | .wload e q => Sys2Proof.Machine.execWload e q s
  | .wloadStart e => Sys2Proof.Machine.execWloadStart e s
  | .wloadComplete e => Sys2Proof.Machine.execWloadComplete e s
  | .array e q => Sys2Proof.Machine.execArray e q s
  | .arrayStart e => Sys2Proof.Machine.execArrayStart e s
  | .feederEntryArrival e waited => Sys2Proof.Machine.execFeederEntryArrival e waited s
  | .arrayComplete e => Sys2Proof.Machine.execArrayComplete e s
  | .inset e q => Sys2Proof.Machine.execInset e q s
  | .insetStart e => Sys2Proof.Machine.execInsetStart e s
  | .insetComplete e waited => Sys2Proof.Machine.execInsetComplete e waited s
  | .preload e q => Sys2Proof.Machine.execPreload e q s
  | .preloadComplete e => Sys2Proof.Machine.execPreloadComplete e s
  | .drain e q => Sys2Proof.Machine.execDrain e q s
  | .drainComplete e => Sys2Proof.Machine.execDrainComplete e s
  | .eu e q => Sys2Proof.Machine.execEu e q s
  | .smaxUpdate e q => Sys2Proof.Machine.execSmaxUpdate e q s
  | .smaxFinal e q => Sys2Proof.Machine.execSmaxFinal e q s
  | .euComplete e waited => Sys2Proof.Machine.execEuComplete e waited s
  | .bulkLoad e q => Sys2Proof.Machine.execBulkLoad e q s
  | .bulkStore e q => Sys2Proof.Machine.execBulkStore e q s
  | .bulkLoadComplete e id => Sys2Proof.Machine.execBulkLoadComplete e id s
  | .bulkStoreComplete e id => Sys2Proof.Machine.execBulkStoreComplete e id s
  | .atomic e q => Sys2Proof.Machine.execAtomic e q s
  | .atomicComplete e id => Sys2Proof.Machine.execAtomicComplete e id s
  | .fence e q => Sys2Proof.Machine.execFence e q s
  | .signal e q => Sys2Proof.Machine.execSignal e q s
  | .signalArrival src => Sys2Proof.Machine.execSignalArrival src s
  | .wait e q => Sys2Proof.Machine.execWait e q s
  | .waitTimeout e id => Sys2Proof.Machine.execWaitTimeout e id s
  | .reduce e q => Sys2Proof.Machine.execReduce e q s
  | .reduceComplete e id => Sys2Proof.Machine.execReduceComplete e id s
  | .memoryParityError c addr readError => Sys2Proof.Machine.execMemoryParityError c addr readError s
  | .engineSelfPark e => Sys2Proof.Machine.execEngineSelfPark e s
  | .singleEngineReset e v => Sys2Proof.Machine.execSingleEngineReset e v s
  | .singleEngineResetDone e => Sys2Proof.Machine.execSingleEngineResetDone e s
  | .qcfgWrite e q v => Sys2Proof.Machine.execQcfgWrite e q v s
  | .streamFaultClear e q v => Sys2Proof.Machine.execStreamFaultClear e q v s
  | .trapRearm e v => Sys2Proof.Machine.execTrapRearm e v s
  | .xlateInval e v => Sys2Proof.Machine.execXlateInval e v s
  | .xlateInvalDone e => Sys2Proof.Machine.execXlateInvalDone e s
  | .registerWrite offset width v => Sys2Proof.Machine.execRegisterWrite offset width v s
  | .legendMerge e id => Sys2Proof.Machine.execLegendMerge e id s
  | .useClose entry => Sys2Proof.Machine.execUseClose entry s
  | .go v => Sys2Proof.Machine.execGo v s
  | .updAbort v => Sys2Proof.Machine.execUpdAbort v s
  | .cleanFlag group member step clean => Sys2Proof.Machine.execCleanFlag group member step clean s
  | .voteOutcome step outcome => Sys2Proof.Machine.execVoteOutcome step outcome s
  | .voteTimeout => Sys2Proof.Machine.execVoteTimeout s
  | .updateUnitsDone => Sys2Proof.Machine.execUpdateUnitsDone s
  | .readShared agent addr => Sys2Proof.Machine.execReadShared agent addr s
  | .readUnique agent addr op => Sys2Proof.Machine.execReadUnique agent addr op s
  | .upgrade agent addr op => Sys2Proof.Machine.execUpgrade agent addr op s
  | .writeBack agent addr => Sys2Proof.Machine.execWriteBack agent addr s
  | .readOnce addr len eccRetries => Sys2Proof.Machine.execReadOnce addr len eccRetries s
  | .writeAtHome addr bytes => Sys2Proof.Machine.execWriteAtHome addr bytes s
  | .atomicAtHome addr aop width operand compare => Sys2Proof.Machine.execAtomicAtHome addr aop width operand compare s
  | .snoop agent addr => Sys2Proof.Machine.execSnoop agent addr s
  | .snoopLapComplete addr => Sys2Proof.Machine.execSnoopLapComplete addr s
  | .writeBackAck agent tag => Sys2Proof.Machine.execWriteBackAck agent tag s
  | .evictClean agent addr => Sys2Proof.Machine.execEvictClean agent addr s
  | .ringParityFailure message => Sys2Proof.Machine.execRingParityFailure message s
  | .remoteRead k => Sys2Proof.Machine.execRemoteRead k s
  | .remoteWrite k => Sys2Proof.Machine.execRemoteWrite k s
  | .remoteAtomic k => Sys2Proof.Machine.execRemoteAtomic k s
  | .controlPacket k => Sys2Proof.Machine.execControlPacket k s
  | .collectivePacket k => Sys2Proof.Machine.execCollectivePacket k s
  | .packetResponse k => Sys2Proof.Machine.execPacketResponse k s
  | .packetForward port bytes => Sys2Proof.Machine.execPacketForward port bytes s
  | .packetAck src cls psn probe port => Sys2Proof.Machine.execPacketAck src cls psn probe port s
  | .ackTimer src cls => Sys2Proof.Machine.execAckTimer src cls s
  | .retransmitTimeout dest cls psn => Sys2Proof.Machine.execRetransmitTimeout dest cls psn s
  | .flitCrcFailure port flit => Sys2Proof.Machine.execFlitCrcFailure port flit s
  | .retrainComplete port => Sys2Proof.Machine.execRetrainComplete port s
  | .retrainTimeout port => Sys2Proof.Machine.execRetrainTimeout port s
  | .ethFrame port f => Sys2Proof.Machine.execEthFrame port f s
  | .fabricReferenceLost => Sys2Proof.Machine.execFabricReferenceLost s
  | .fabricReferenceRestored => Sys2Proof.Machine.execFabricReferenceRestored s
  | .cqDoorbell k v => Sys2Proof.Machine.execCqDoorbell k v s
  | .allReduce k => Sys2Proof.Machine.execAllReduce k s
  | .collectiveReduce k => Sys2Proof.Machine.execCollectiveReduce k s
  | .reduceScatter k => Sys2Proof.Machine.execReduceScatter k s
  | .broadcast k => Sys2Proof.Machine.execBroadcast k s
  | .allGather k => Sys2Proof.Machine.execAllGather k s
  | .barrier k => Sys2Proof.Machine.execBarrier k s
  | .collectiveUnknownType k => Sys2Proof.Machine.execCollectiveUnknownType k s
  | .collectiveComplete k => Sys2Proof.Machine.execCollectiveComplete k s
  | .collectiveTimeout k => Sys2Proof.Machine.execCollectiveTimeout k s
  | .collectiveAbort group collSeq => Sys2Proof.Machine.execCollectiveAbort group collSeq s
  | .groupControl group epoch changeSeq addr members index => Sys2Proof.Machine.execGroupControl group epoch changeSeq addr members index s
  | .copierSnapshot v => Sys2Proof.Machine.execCopierSnapshot v s
  | .epochOpened => Sys2Proof.Machine.execEpochOpened s
  | .firstTouch piece => Sys2Proof.Machine.execFirstTouch piece s
  | .pieceCopied piece => Sys2Proof.Machine.execPieceCopied piece s
  | .epochCommit => Sys2Proof.Machine.execEpochCommit s
  | .copierAbort v => Sys2Proof.Machine.execCopierAbort v s
  | .copierRestore v => Sys2Proof.Machine.execCopierRestore v s
  | .restoreComplete => Sys2Proof.Machine.execRestoreComplete s
  | .copierRefill v => Sys2Proof.Machine.execCopierRefill v s
  | .refillComplete => Sys2Proof.Machine.execRefillComplete s
  | .verifyGo v => Sys2Proof.Machine.execVerifyGo v s
  | .ledgerLoss v => Sys2Proof.Machine.execLedgerLoss v s
  | .verifyFailClear v => Sys2Proof.Machine.execVerifyFailClear v s
  | .mbDoorbell k v => Sys2Proof.Machine.execMbDoorbell k v s
  | .mailboxUnknownOpcode k => Sys2Proof.Machine.execMailboxUnknownOpcode k s
  | .getVersions k => Sys2Proof.Machine.execGetVersions k s
  | .resetRequest k => Sys2Proof.Machine.execResetRequest k s
  | .setPowerState k => Sys2Proof.Machine.execSetPowerState k s
  | .setPowerCap k => Sys2Proof.Machine.execSetPowerCap k s
  | .setModuleNumber k => Sys2Proof.Machine.execSetModuleNumber k s
  | .loadRoutes k => Sys2Proof.Machine.execLoadRoutes k s
  | .loadEthTable k => Sys2Proof.Machine.execLoadEthTable k s
  | .setGazBase k => Sys2Proof.Machine.execSetGazBase k s
  | .setCq k => Sys2Proof.Machine.execSetCq k s
  | .cqClearStop k => Sys2Proof.Machine.execCqClearStop k s
  | .setNextSeq k => Sys2Proof.Machine.execSetNextSeq k s
  | .groupChange k => Sys2Proof.Machine.execGroupChange k s
  | .loadInjection k => Sys2Proof.Machine.execLoadInjection k s
  | .setTransport k => Sys2Proof.Machine.execSetTransport k s
  | .portStatus k => Sys2Proof.Machine.execPortStatus k s
  | .portReset k => Sys2Proof.Machine.execPortReset k s
  | .quarantineRead k => Sys2Proof.Machine.execQuarantineRead k s
  | .quarantineClear k => Sys2Proof.Machine.execQuarantineClear k s
  | .dirRead k => Sys2Proof.Machine.execDirRead k s
  | .retireEngine k => Sys2Proof.Machine.execRetireEngine k s
  | .rasCounts k => Sys2Proof.Machine.execRasCounts k s
  | .mbOpen k => Sys2Proof.Machine.execMbOpen k s
  | .mbClose k => Sys2Proof.Machine.execMbClose k s
  | .setTensorTable k => Sys2Proof.Machine.execSetTensorTable k s
  | .setXlate k => Sys2Proof.Machine.execSetXlate k s
  | .telemetry k => Sys2Proof.Machine.execTelemetry k s
  | .dumpClear k => Sys2Proof.Machine.execDumpClear k s
  | .setLogRing k => Sys2Proof.Machine.execSetLogRing k s
  | .fwStageBegin k => Sys2Proof.Machine.execFwStageBegin k s
  | .eraseComplete => Sys2Proof.Machine.execEraseComplete s
  | .fwStageWrite k => Sys2Proof.Machine.execFwStageWrite k s
  | .fwStageVerify k => Sys2Proof.Machine.execFwStageVerify k s
  | .fwActivate k => Sys2Proof.Machine.execFwActivate k s
  | .fwCancel k => Sys2Proof.Machine.execFwCancel k s
  | .configStage k => Sys2Proof.Machine.execConfigStage k s
  | .deferredActivation => Sys2Proof.Machine.execDeferredActivation s
  | .watchdogExpiry n sixth d => Sys2Proof.Machine.execWatchdogExpiry n sixth d s
  | .firmwarePanic n sixth exception d => Sys2Proof.Machine.execFirmwarePanic n sixth exception d s
  | .privateSramParity n sixth d => Sys2Proof.Machine.execPrivateSramParity n sixth d s
  | .fwRestartComplete n => Sys2Proof.Machine.execFwRestartComplete n s
  | .trialConfirm => Sys2Proof.Machine.execTrialConfirm s
  | .coldPowerOn volts presentLow => Sys2Proof.Machine.execColdPowerOn volts presentLow s
  | .moduleWarmReset => Sys2Proof.Machine.execModuleWarmReset s
  | .engineComplexReset => Sys2Proof.Machine.execEngineComplexReset s
  | .hostLinkFailure link => Sys2Proof.Machine.execHostLinkFailure link s
  | .hostLinkRetrained link => Sys2Proof.Machine.execHostLinkRetrained link s
  | .hostLinkTimeout link => Sys2Proof.Machine.execHostLinkTimeout link s
  | .inputSample power volts => Sys2Proof.Machine.execInputSample power volts s
  | .peakOvercurrent => Sys2Proof.Machine.execPeakOvercurrent s
  | .sustainedOvercurrent => Sys2Proof.Machine.execSustainedOvercurrent s
  | .capStep => Sys2Proof.Machine.execCapStep s
  | .overcurrentPark => Sys2Proof.Machine.execOvercurrentPark s
  | .overcurrentParkRelease => Sys2Proof.Machine.execOvercurrentParkRelease s
  | .capRaise => Sys2Proof.Machine.execCapRaise s
  | .tempSample temps => Sys2Proof.Machine.execTempSample temps s
  | .thermalRelease => Sys2Proof.Machine.execThermalRelease s
  | .underVoltage volts => Sys2Proof.Machine.execUnderVoltage volts s
  | .overVoltage volts => Sys2Proof.Machine.execOverVoltage volts s
  | .railWindowTrip rail mv => Sys2Proof.Machine.execRailWindowTrip rail mv s
  | .referenceLost => Sys2Proof.Machine.execReferenceLost s
  | .referenceRestored => Sys2Proof.Machine.execReferenceRestored s
  | .railRequest mv => Sys2Proof.Machine.execRailRequest mv s
  | .presentNRelease volts => Sys2Proof.Machine.execPresentNRelease volts s
  | .resetN => Sys2Proof.Machine.execResetN s
  | .spiRecovery => Sys2Proof.Machine.execSpiRecovery s
  | .spiRecoveryEnd => Sys2Proof.Machine.execSpiRecoveryEnd s
  | .wakeTimer => Sys2Proof.Machine.execWakeTimer s
  | .readReg offset => Sys2Proof.Machine.execReadReg offset s
  | .wake => Sys2Proof.Machine.execWake s
  | .i2cUnknownCommand b => Sys2Proof.Machine.execI2cUnknownCommand b s
  | .wakeFrame toOurMac etherType payload => Sys2Proof.Machine.execWakeFrame toOurMac etherType payload s
  | .getVersion => Sys2Proof.Machine.execGetVersion s
  | .getCapabilities => Sys2Proof.Machine.execGetCapabilities s
  | .negotiateAlgorithms ecdsaP384 sha384 => Sys2Proof.Machine.execNegotiateAlgorithms ecdsaP384 sha384 s
  | .getDigests => Sys2Proof.Machine.execGetDigests s
  | .getCertificate slot offset len => Sys2Proof.Machine.execGetCertificate slot offset len s
  | .challenge slot transcript windowPassed => Sys2Proof.Machine.execChallenge slot transcript windowPassed s
  | .getMeasurements index transcript windowPassed => Sys2Proof.Machine.execGetMeasurements index transcript windowPassed s
  | .logRecord r => Sys2Proof.Machine.execLogRecord r s
  | .alarm r dests => Sys2Proof.Machine.execAlarm r dests s
  | .alarmSend windowPassed => Sys2Proof.Machine.execAlarmSend windowPassed s
  | .logRingWrite cls => Sys2Proof.Machine.execLogRingWrite cls s
  | .engineComplexReady => Sys2Proof.Machine.execEngineComplexReady s
  | .probePacket dest cls port => Sys2Proof.Machine.execProbePacket dest cls port s
  | .creditReturn port cls credits flits => Sys2Proof.Machine.execCreditReturn port cls credits flits s
  | .debugInstruction ir => Sys2Proof.Machine.execDebugInstruction ir s

end Sys2Proof.Machine
end

