-- ==== Sys2Proof/Machine/Idle.lean ====
section
/-!
DEFINITION. What time alone does (17 R512, 10 R285, 07 R200, 12 R381): a step on an empty queue. DESIGN CHOICE, log 14.
-/

namespace Sys2Proof.Machine

/-- Of `n` steps, those that pass before the timeout of the WAIT of stream `q` (07 R200). -/
def stepsOf (en : Engine) (q : Nat) (n : Word) : Word :=
  match en.ops.findSome? (fun o => if o.stream = q then (match o.kind with
      | .wait p => some p
      | _ => none) else none) with
  | some p => if p.timeout = 0 then n else BitVec.ofNat 64 (min n.toNat (p.timeout.toNat - p.spent.toNat))
  | none => n

/-- TOKEN_WAIT_q and RUN_TOKEN_WAIT_q count the steps that a stream spends in STATE 2, which are those of its WAIT's timeout
(07 R200, 10 R285, R309). A parked or stopped engine's sequencer takes none (15 R476). -/
def passSteps (h : Hub) (w : Work) (e : Nat) (n : Word) (en : Engine) : Engine :=
  if !working h w e || en.stopped then en
  else
    { en with
      streams := en.streams.mapIdx (fun q st =>
        if waitsForToken en q && !st.fault then
          { st with tokenWait := st.tokenWait + stepsOf en q n, runTokenWait := st.runTokenWait + stepsOf en q n }
        else st)
      ops := en.ops.map (fun o => match o.kind with
        | .wait p =>
          if waitsForToken en o.stream && !(en.stream o.stream).fault then
            { o with kind := .wait { p with spent := p.spent + stepsOf en o.stream n } }
          else o
        | _ => o) }

/-- Domains that run in module standby (15 R483): FW1, the safety controller, the management and sideband ports, and the
module reference input. -/
def standbyDomain (d : Nat) : Bool := [49, 54, 55, 56, 58].contains d

/-- Domains whose clock runs (01 R23, R24): without the module reference domains 16 to 53, 55, 56 and 58 stop, and
without the fabric reference domains 0 to 15 and 59. -/
def clockRuns (h : Hub) (w : Work) (d : Nat) : Bool :=
  h.ident.powered && (h.ident.powerState != 2 || standbyDomain d) &&
    !(h.safety.refFail && ((decide (16 ≤ d) && decide (d ≤ 53)) || d == 55 || d == 56 || d == 58)) &&
    !(w.fabric.referenceLost && (decide (d ≤ 15) || d == 59))

/-- The counters of the running clocks advance by free amounts, and every window of 10 µs or less is over. -/
def passTime (h : Hub) (w : Work) : Work :=
  let ix := w.freeIx
  { w with
    engines := w.engines.mapIdx (fun e en => passSteps h w e (Config.freeSteps ix) en)
    logs :=
      { w.logs with
        domainCounts := w.logs.domainCounts.mapIdx (fun d c => if clockRuns h w d then c + Config.freeTicks ix d else c)
        alarmWindow := 0 }
    fabric := { w.fabric with ports := w.fabric.ports.map (fun p => { p with c0Window := 0 }) }
    freeIx := ix + 1 }

/-- One step of the block with no command waiting. -/
def idleStep (s : State) : State := { s with work := passTime s.hub s.work }

end Sys2Proof.Machine
end

