-- ==== Sys2Proof/Safety.lean ====
section
/-!
DEFINITION. The vocabulary of the statements: what a safe safety partition holds (15 R480, R482, R470), which commands
belong to the firmware, resets, safety controller and sideband, and the conditions under which a descriptor or an
instruction takes its own effect.
-/

namespace Sys2Proof.Machine

/-! ### The limits of the safety partition -/

/-- The limits never lie outside the values that 15 R473 and R480 to R482 allow, and neither the request for the engine
rail nor its cap outside those of R470 and R475. -/
def Safety.legal (s : Safety) : Bool :=
  decide (s.sustainedW ≤ 2300) && decide (s.peakW ≤ 2800) && decide (s.windowMs ≤ 20) && decide (s.underV ≤ 440) &&
    decide (s.overV ≤ 660) && decide (s.parkC ≤ 110) && decide (s.releaseC ≤ 100) && decide (s.stopC ≤ 120) &&
    decide (600 ≤ s.capMv) && decide (s.capMv ≤ 750) && decide (600 ≤ s.requestMv) && decide (s.requestMv ≤ 750)

/-- The limits that the safety controller takes from the configuration record (15 R473). -/
def Safety.limits (s : Safety) : List Nat :=
  [s.sustainedW, s.peakW, s.windowMs, s.underV, s.overV, s.parkC, s.releaseC, s.stopC]

/-- The step has entered a trip: the count rises, and the newest entry of the log holds the code, the source and the
reading (15 R478, R482). -/
def Tripped (s t : State) (code : Code) (source value : Nat) : Prop :=
  t.hub.safety.tripCount = min (s.hub.safety.tripCount + 1) max32 ∧ t.hub.safety.lastCode = code ∧
    ∃ n : Word, t.hub.safety.tripLog =
      s.hub.safety.tripLog.set (t.hub.safety.tripCount % 16) ⟨code, source, min value 65535, n⟩

/-- The module is Off after an orderly stop (15 R477, R483). -/
def Stopped (t : State) : Prop :=
  t.hub.ident.powered = false ∧ t.hub.safety.stopping = true ∧ emergency t.hub.safety = true ∧
    t.hub.ident.complexReady = false ∧ (∀ n, fwRuns t.hub n = false)

/-! ### Commands by the half of the state that they may change -/

/-- Commands whose effect lies in the working half of the state: identity, firmware, safety and security are not
touched. -/
def workCommand : Instr → Bool
  | .capRaise | .capStep | .challenge _ _ _ | .coldPowerOn _ _ | .configStage _ | .controlPacket _
  | .cqClearStop _ | .debugInstruction _ | .deferredActivation | .dirRead _ | .dumpClear _
  | .engineComplexReady | .engineComplexReset | .eraseComplete | .fabricReferenceLost
  | .firmwarePanic _ _ _ _ | .fwActivate _ | .fwCancel _ | .fwRestartComplete _ | .fwStageBegin _
  | .fwStageVerify _ | .fwStageWrite _ | .getCapabilities | .getCertificate _ _ _ | .getDigests
  | .getMeasurements _ _ _ | .getVersion | .getVersions _ | .groupChange _ | .hostLinkFailure _
  | .hostLinkRetrained _ | .hostLinkTimeout _ | .inputSample _ _ | .loadEthTable _ | .loadInjection _
  | .loadRoutes _ | .mailboxUnknownOpcode _ | .mbClose _ | .mbDoorbell _ _ | .mbOpen _ | .moduleWarmReset
  | .negotiateAlgorithms _ _ | .overVoltage _ | .overcurrentPark | .overcurrentParkRelease
  | .packetResponse _ | .peakOvercurrent | .portReset _ | .portStatus _ | .presentNRelease _
  | .privateSramParity _ _ _ | .quarantineClear _ | .quarantineRead _ | .railRequest _ | .railWindowTrip _ _
  | .rasCounts _ | .referenceLost | .referenceRestored | .remoteWrite _ | .resetN | .resetRequest _
  | .retireEngine _ | .retrainComplete _ | .retrainTimeout _ | .retransmitTimeout _ _ _
  | .ringParityFailure _ | .setCq _ | .setGazBase _ | .setLogRing _ | .setModuleNumber _ | .setNextSeq _
  | .setPowerCap _ | .setPowerState _ | .setTensorTable _ | .setTransport _ | .setXlate _ | .spiRecovery
  | .spiRecoveryEnd | .sustainedOvercurrent | .telemetry _ | .tempSample _ | .thermalRelease | .trialConfirm
  | .underVoltage _ | .wake | .wakeFrame _ _ _ | .wakeTimer | .watchdogExpiry _ _ _ | .sealReread _ => false
  | _ => true

/-! ### Descriptors -/

/-- Stream `q` of engine `e` holds a descriptor `d` of type `kind` that has not begun, and the engine works. -/
def Held (s : State) (e q kind : Nat) (d : Desc) : Prop :=
  heldDesc s.hub s.work e q (fun k => k == kind) = some d

/-- The descriptor's completion address meets 07 R174. -/
def ComplOk (s : State) (d : Desc) : Prop := complOk s.hub (fld d.payload 8 8) = true

/-- The state once the stream holds the descriptor's completion address. -/
def opened (s : State) (e q : Nat) (d : Desc) : Work :=
  s.work.setStream e q (fun st => { st with complAddr := BitVec.ofNat 64 (fld d.payload 8 8) })

/-! ### Instructions -/

/-- The sequencer of stream `q` finds an instruction at its PC that `mine` names, and it may issue now (07 R180 to R186):
`word` is it. -/
def Finds (s : State) (e q : Nat) (mine : Nat → Bool) (word : Nat) : Prop :=
  fetch s.hub s.work e q mine = .go word

/-- The state once the sequencer has taken the instruction up: the stream is the one served last (07 R184), the page is kept
(11 R325) and an earlier TILE_WAIT is over. -/
def taken (s : State) (e q : Nat) : Work :=
  (keepPage s.hub (serveStream s.work e q) e (fetchAddr (s.work.stream e q))).setStream e q (fun st =>
    { st with tileWait := [] })

/-- The state once an element-unit operation is issued: it is the last of its engine's, and its draws are reserved when
its conversion takes any (02 R67, 07 R193). -/
def issuedEu (s : State) (e q word : Nat) (p : EuP) (ci : ConvIssue) : Work :=
  if p.empty = false ∧ p.op ≠ 0x28 ∧ anyDraw p.conv ci.marks = true then
    reserve (issueOp (taken s e q) e q word (some { ci with draws := true }) (acquireOf word) (releaseOf word)
      (.eu p none [] false none)) e p.conv ci p.outCols (p.rows * p.outCols)
  else
    issueOp (taken s e q) e q word (some { ci with draws := false }) (acquireOf word) (releaseOf word)
      (.eu p none [] false none)

/-- The state once a bulk transfer is issued, which converts by `conv`; a lossy store reserves its draws (10 R294). -/
def issuedBulk (s : State) (e q word : Nat) (p : BulkP) (conv : Option ConvIssue) : Work :=
  let w := issueOp (taken s e q) e q word conv (acquireOf word) (releaseOf word) (.bulk p)
  match conv, p.keep with
  | some ci, some u => reserve w e (lossyConv u.mode u.randBits) ci (bulkElems p) (p.rows * bulkElems p)
  | _, _ => w

/-! ### Mailbox commands -/

/-- What 14 R446 says of each command: its mailbox here, opcode, processor, whether it needs a privileged mailbox, and the
bytes that its arguments take (offset and length). -/
def mailboxRow : Instr → Option (Nat × Nat × Nat × Bool × List (Nat × Nat))
  | .getVersions k => some (k, 0x0101, 0, false, [])
  | .resetRequest k => some (k, 0x0102, 0, true, [(8, 1), (9, 1)])
  | .setPowerState k => some (k, 0x0201, 1, true, [(8, 1)])
  | .setPowerCap k => some (k, 0x0202, 1, true, [(8, 4)])
  | .setModuleNumber k => some (k, 0x0301, 2, true, [(8, 4)])
  | .loadRoutes k => some (k, 0x0302, 2, true, [(8, 8), (0x10, 4), (0x14, 4), (0x18, 1)])
  | .loadEthTable k => some (k, 0x0303, 2, true, [(8, 8), (0x10, 4), (0x14, 4)])
  | .setGazBase k => some (k, 0x0304, 2, true, [(0x10, 8)])
  | .setCq k => some (k, 0x0305, 2, true, [(8, 1), (9, 1), (0x0C, 4), (0x10, 8), (0x18, 1)])
  | .cqClearStop k => some (k, 0x0306, 2, true, [(8, 1)])
  | .setNextSeq k => some (k, 0x0307, 2, true, [(8, 2), (0x0C, 4)])
  | .groupChange k => some (k, 0x0308, 2, true, [(8, 2), (0x0C, 4), (0x10, 8), (0x18, 4), (0x1C, 4)])
  | .loadInjection k => some (k, 0x0309, 2, true, [(8, 8), (0x10, 1), (0x11, 1)])
  | .setTransport k => some (k, 0x030A, 2, true, [(8, 4)])
  | .portStatus k => some (k, 0x030B, 2, false, [(8, 1)])
  | .portReset k => some (k, 0x030C, 2, true, [(8, 1)])
  | .quarantineRead k => some (k, 0x0401, 3, false, [(8, 1), (0x10, 8)])
  | .quarantineClear k => some (k, 0x0402, 3, true, [(8, 8)])
  | .dirRead k => some (k, 0x0403, 3, false, [(8, 8), (0x10, 8)])
  | .retireEngine k => some (k, 0x0404, 3, true, [(8, 1)])
  | .rasCounts k => some (k, 0x0405, 3, false, [(8, 1)])
  | .mbOpen k => some (k, 0x0501, 4, true, [(8, 1), (9, 1), (0x0A, 1), (0x0B, 1), (0x10, 8), (0x18, 8)])
  | .mbClose k => some (k, 0x0502, 4, true, [(8, 1)])
  | .setTensorTable k => some (k, 0x0503, 4, true, [(8, 1), (0x10, 8)])
  | .setXlate k => some (k, 0x0504, 4, true, [(8, 1), (0x10, 8)])
  | .telemetry k => some (k, 0x0505, 4, false, [])
  | .dumpClear k => some (k, 0x0506, 4, true, [(8, 1)])
  | .setLogRing k => some (k, 0x0601, 5, true, [(8, 1), (9, 1), (0x10, 8)])
  | .fwStageBegin k => some (k, 0x0701, 0, true, [(8, 8)])
  | .fwStageWrite k => some (k, 0x0702, 0, true, [(8, 8), (0x10, 4), (0x14, 4)])
  | .fwStageVerify k => some (k, 0x0703, 0, true, [])
  | .fwActivate k => some (k, 0x0704, 0, true, [])
  | .fwCancel k => some (k, 0x0705, 0, true, [])
  | .configStage k => some (k, 0x0706, 0, true, [(8, 8), (0x10, 4)])
  | _ => none

/-- The command `c` waits in its mailbox with descriptor `d`, its processor runs, and neither its privilege nor its
reserved bytes refuse it. -/
def Serves (s : State) (c : Instr) (d : Desc) : Prop :=
  match mailboxRow c with
  | none => False
  | some (k, op, owner, priv, fields) =>
    heldCommand s.hub k (fun o => o == op) = some d ∧ fwFailed s.hub owner = false ∧ fwRuns s.hub owner = true ∧
      (priv = true → (s.hub.mailbox k).priv = true) ∧ argsReserved fields d.payload = false

/-- The state after a command of mailbox `k` whose effect is `x`: where a write of it meets a piece that a snapshot protects,
the command waits for the piece and is served again (11 R327, 14 R444, log 12). -/
def afterCommand (s : State) (k : Nat) (x : Hub × Work) : State :=
  match newlyHeld s.work x.2 with
  | [] => { s with hub := x.1, work := x.2 }
  | as => { s with work := askPieces s.work (8, k, 0) as }

/-- The state once the command of mailbox `k` has had its effect, `h` and `w`, and completes with a code and a result. -/
def completed (s : State) (h : Hub) (w : Work) (k : Nat) (c : Code) (result : List Byte) : State :=
  afterCommand s k (completeCommand h w k c result)

end Sys2Proof.Machine
end

