-- ==== Sys2Proof/Certificates/Slice0/Obligations.lean ====
section
/-!
DEFINITION. The statements for the provers. Each says which rules of the spec it formalises; a clause that rests on a
choice of the model names the log entry.
-/

open Sys2Proof Sys2Proof.Machine


/-! ### The block -/

/-- A step runs the command at the front of the queue, on the state with the rest of the queue. -/
def Obligations.StepRunsFrontCommand : Prop :=
  ∀ (c : Instr) (s : State), step { s with pending := c :: s.pending } = exec c s

/-- A step on an empty queue lets time pass and does nothing else (the model's choice, log 14): the domain counts of 17
R512 may advance, but only where the domain's clock runs; TOKEN_WAIT and RUN_TOKEN_WAIT of 10 R285 and the steps that a
WAIT has spent of its timeout may advance, but not those of a parked engine (15 R476); the windows of the alarms and of the
ports are over; and every other piece of state keeps its value. -/
def Obligations.EmptyQueueOnlyPassesTime : Prop :=
  ∀ s : State, s.pending = [] →
    ∃ w : Work, step s = .next { s with work := w } ∧
      w = { s.work with engines := w.engines, logs := w.logs, fabric := w.fabric, freeIx := s.work.freeIx + 1 } ∧
      w.logs = { s.work.logs with domainCounts := w.logs.domainCounts, alarmWindow := 0 } ∧
      w.fabric = { s.work.fabric with ports := s.work.fabric.ports.map (fun p => { p with c0Window := 0 }) } ∧
      (∀ d, clockRuns s.hub s.work d = false → w.logs.domainCounts[d]? = s.work.logs.domainCounts[d]?) ∧
      (∀ e, working s.hub s.work e = false → w.engine e = s.work.engine e) ∧
      (∀ e, w.engine e = { s.work.engine e with streams := (w.engine e).streams, ops := (w.engine e).ops } ∧
        (∀ q, ∃ a b : Word, w.stream e q = { s.work.stream e q with tokenWait := a, runTokenWait := b }) ∧
        (w.engine e).ops.length = (s.work.engine e).ops.length ∧
        ∀ (i : Nat) (o : Op), (s.work.engine e).ops[i]? = some o →
          (∃ (p : WaitP) (n : Word), o.kind = .wait p ∧
            (w.engine e).ops[i]? = some { o with kind := .wait { p with spent := n } }) ∨
          (w.engine e).ops[i]? = some o)

/-- No command adds to the queue of waiting commands or takes one from it: only a step does. -/
def Obligations.CommandsLeaveTheQueue : Prop :=
  ∀ (c : Instr) (s t : State), exec c s = .next t → t.pending = s.pending

/-- A command of engines, update, coherence, copier, collectives or fabric changes neither identity nor firmware, safety
and security state. -/
def Obligations.WorkCommandsKeepHub : Prop :=
  ∀ (c : Instr) (s t : State), workCommand c = true → exec c s = .next t → t.hub = s.hub

/-! ### Engine queues and descriptors (07, 14) -/

/-- DOORBELL: a store to the doorbell of an absent or retired engine is refused with 0x0401 and reaches nothing (01 R27,
R35); to a stream with ENABLE = 0 it is discarded (07 R207); to an enabled stream that is idle it has the ring read, and a
slot sealed with the sequence NEXT_SEQ becomes the held descriptor and NEXT_SEQ rises by one (14 R435, R437).

SEAL_REREAD: a consumer that is between two reads of a slot reads it again (14 R438). An engine stream and a collective
queue that find the slot still unsealed count the read; a sealed slot is taken, NEXT_SEQ rises by one, and the re-reads
are over. FW4 does the same for a mailbox whose completion ring has a free slot. -/
def Obligations.RingsAreReadAndReadAgain : Prop :=
  (∀ (s : State) (e q : Nat) (v : Word), q < 4 →
    (present s.hub e = false → exec (.doorbell e q v) s = .next { s with work := s.work.reply 0x0401 [] }) ∧
    (present s.hub e = true → (s.work.stream e q).enable = false →
      exec (.doorbell e q v) s = .next { s with work := s.work.reply 0 [] }) ∧
    (∀ (b : List Byte) (d : Desc) (st : Stream), (s.work.engine e).xl.enable = false →
      e < s.work.engines.length → (s.work.engine e).streams[q]? = some st → (s.work.engine e).stopped = false →
      working s.hub (s.work.setEngine e (fun en => { en with selfParked := false })) e = true →
      st.enable = true → st.desc = none → st.fault = false → st.rereads = 0 →
      engineRead s.hub s.work e (slotAddr st.base st.log2 st.nextSeq) 64 = .ok b → judgeSlot st.nextSeq b = .sealed d →
      ∃ t : State, exec (.doorbell e q v) s = .next t ∧
        t.work.stream e q =
          { st with hint := some (v.setWidth 32), unsealed := false, rereads := 0, ringWaits := false, desc := some d,
                    nextSeq := st.nextSeq + 1 } ∧
        t.hub = s.hub ∧ t.work.mem = s.work.mem ∧ t.work.coh = s.work.coh ∧ t.work.logs = s.work.logs)) ∧
  (∀ s : State,
    (∀ (e q : Nat) (b : List Byte) (st : Stream), (s.work.engine e).xl.enable = false → (s.work.engine e).stopped = false →
      e < s.work.engines.length → (s.work.engine e).streams[q]? = some st → working s.hub s.work e = true →
      st.enable = true → st.desc = none → st.fault = false → st.unsealed = false → 0 < st.rereads →
      engineRead s.hub s.work e (slotAddr st.base st.log2 st.nextSeq) 64 = .ok b →
      (judgeSlot st.nextSeq b = .unsealed → st.rereads < 63 →
        exec (.sealReread (.engineQueue e q)) s =
          .next { s with work := s.work.setStream e q (fun x => { x with rereads := st.rereads + 1 }) }) ∧
      (∀ d : Desc, judgeSlot st.nextSeq b = .sealed d →
        exec (.sealReread (.engineQueue e q)) s =
          .next { s with
            work := s.work.setStream e q (fun x =>
              { x with rereads := 0, ringWaits := false, desc := some d, nextSeq := st.nextSeq + 1 }) })) ∧
    (∀ (k : Nat) (b : List Byte), collWorks s.hub = true → (collQ s.work k).enabled = true →
      (collQ s.work k).stopped = false → (collQ s.work k).desc = none → (collQ s.work k).cur = none →
      (collQ s.work k).unsealed = false → 0 < (collQ s.work k).rereads →
      physRead s.hub s.work (slotAddr (collQ s.work k).base (collQ s.work k).log2 (collQ s.work k).nextSeq) 64 = .ok b →
      (judgeSlot (collQ s.work k).nextSeq b = .unsealed → (collQ s.work k).rereads < 63 →
        exec (.sealReread (.collectiveQueue k)) s =
          .next { s with work := s.work.setCollQ k (fun x => { x with rereads := x.rereads + 1 }) }) ∧
      (∀ d : Desc, judgeSlot (collQ s.work k).nextSeq b = .sealed d →
        s.work.colls.heldGroups.contains (fld d.payload 0x20 2) = false →
        exec (.sealReread (.collectiveQueue k)) s =
          .next { s with
            work := s.work.setCollQ k (fun x =>
              { x with rereads := 0, groupHeld := false, desc := some d, nextSeq := x.nextSeq + 1 }) })) ∧
    (∀ (k : Nat) (d : Desc), 0 < (s.hub.mailbox k).rereads → mayTake s.hub k = true → cplFree s.hub s.work k = true →
      judgeSlot (s.hub.mailbox k).cmdHead
        (physBytes s.work (slotAddr (s.hub.mailbox k).cmdBase (s.hub.mailbox k).cmdLog2 (s.hub.mailbox k).cmdHead) 64) =
          .sealed d →
      ∃ t : State, exec (.sealReread (.mailbox k)) s = .next t ∧
        t.hub.ident = s.hub.ident ∧ t.hub.safety = s.hub.safety ∧ t.hub.sec = s.hub.sec ∧
        (k < s.hub.fw.mailboxes.length →
          t.hub.mailbox k =
            { s.hub.mailbox k with full := false, cmdHead := (s.hub.mailbox k).cmdHead + 1, rereads := 0, cmd := some d,
                                   busyLong := false })))

/-- RUN: a held RUN whose program header and arguments pass the checks of 07 R175 starts: the stream takes the entry point
as PC, ISN 0, D1 to D26 zero and D27 to D31 the arguments, and trace event 1 is emitted if it is enabled (17 R522). A
header that breaks its table ends the descriptor with 0x020C, and an argument above its bound with 0x020D.

SET_GEN and its application (07 R176): an accepted SET_GEN holds every stream's issue; once no issued instruction that
draws is outstanding, the seed, the unit and the counter base of the generator are those of the descriptor, every lane's
counter is the base, the hold ends and the descriptor's completion record is written with code 0 and ISN 0. -/
def Obligations.DescriptorsStart : Prop :=
  (∀ (s : State) (e q : Nat) (d : Desc) (b : List Byte), Held s e q 0x0E01 d → ComplOk s d →
    (s.work.engine e).stopped = false → fld d.payload 0 8 % 64 = 0 → inOneRegion s.hub (fld d.payload 0 8) 64 = true →
    engineRead s.hub (keepPage s.hub (opened s e q d) e (fld d.payload 0 8)) e (fld d.payload 0 8) 64 = .ok b →
    ((headerBad b = true ∨ inOneRegion s.hub (fld d.payload 0 8) (64 + fld b 8 8) = false) →
      exec (.run e q) s =
        .next { s with
          work := refuseDescriptor s.hub (keepPage s.hub (opened s e q d) e (fld d.payload 0 8)) e q 0x020C
            (fld d.payload 0 8) }) ∧
    (headerBad b = false → inOneRegion s.hub (fld d.payload 0 8) (64 + fld b 8 8) = true → argsBad b d.payload = true →
      exec (.run e q) s =
        .next { s with
          work := refuseDescriptor s.hub (keepPage s.hub (opened s e q d) e (fld d.payload 0 8)) e q 0x020D 0 }) ∧
    (headerBad b = false → inOneRegion s.hub (fld d.payload 0 8) (64 + fld b 8 8) = true → argsBad b d.payload = false →
      exec (.run e q) s =
        .next { s with
          work := trace s.hub
            ((keepPage s.hub (opened s e q d) e (fld d.payload 0 8)).setStream e q (fun st =>
              { st with
                running := true, endIssued := false, acquire := none, tileWait := [], pc := BitVec.ofNat 64 (fld b 16 8)
                isn := 0, progAddr := BitVec.ofNat 64 (fld d.payload 0 8), length := fld b 8 8
                d := List.replicate 27 0 ++ (List.range 5).map (fun i => BitVec.ofNat 64 (fld d.payload (16 + 8 * i) 8))
                runTokenWait := 0 }))
            1 (unitOf 1 e) (fld d.payload 0 8) })) ∧
  (∀ (s : State) (e q : Nat) (d : Desc),
    (Held s e q 0x0E02 d → ComplOk s d → (s.work.engine e).genHold = none → rangeSet d.payload 0x12 6 = false →
      rangeSet d.payload 0x20 24 = false → fld d.payload 0x10 2 < 4096 →
      exec (.setGen e q) s =
        .next { s with work := (opened s e q d).setEngine e (fun en => { en with genHold := some q }) }) ∧
    ((s.work.engine e).genHold = some q → drawsOutstanding (s.work.engine e) = false → working s.hub s.work e = true →
      (s.work.stream e q).desc = some d →
      exec (.setGenApply e) s =
        .next { s with
          work := finishDescriptor s.hub
            (s.work.setEngine e (fun en =>
              { en with
                gen := ⟨BitVec.ofNat 64 (fld d.payload 0 8), BitVec.ofNat 12 (fld d.payload 0x10 2),
                        BitVec.ofNat 64 (fld d.payload 0x18 8), []⟩
                genHold := none }))
            e q 0 0 }))

/-- What every descriptor's end does (07 R174, R206, 14 R435): with COMPL_ADDR = 0 nothing is written; else the 16-byte
completion record holds ISN, the code, the engine, the stream and a final byte 1. With a code that is not 0 the stream
faults and holds no descriptor.

A descriptor of an unknown type ends with 0x020B (07 R173). -/
def Obligations.DescriptorsEndWithTheirRecord : Prop :=
  (∀ (h : Hub) (w : Work) (e q : Nat) (isn : Word) (code : Code), code ≠ 0 →
    ((w.stream e q).complAddr = 0 →
      finishDescriptor h w e q isn code =
        w.setStream e q (fun s =>
          { s with desc := none, running := false, endIssued := false, acquire := none, tileWait := [], faulting := none,
                   fault := true })) ∧
    (∀ w1, (w.stream e q).complAddr ≠ 0 →
      engineStore h w e false (w.stream e q).complAddr.toNat (completionBytes e q isn code) = .ok w1 →
      finishDescriptor h w e q isn code =
        w1.setStream e q (fun s =>
          { s with desc := none, running := false, endIssued := false, acquire := none, tileWait := [], faulting := none,
                   fault := true })) ∧
    completionBytes e q isn code =
      leBytes 8 isn.toNat ++ leBytes 2 code.toNat ++ [BitVec.ofNat 8 e, BitVec.ofNat 8 q, 0, 0, 0, 1] ∧
    (completionBytes e q isn code).length = 16) ∧
  (∀ (s : State) (e q : Nat) (d : Desc), heldDesc s.hub s.work e q (fun k => !knownDesc k) = some d →
    exec (.unknownDescriptor e q) s =
      .next { s with
        work := refuseDescriptor s.hub
          (s.work.setStream e q (fun st =>
            { st with complAddr := if complOk s.hub (fld d.payload 8 8) then BitVec.ofNat 64 (fld d.payload 8 8) else 0 }))
          e q 0x020B 0 })

/-- CTX_SAVE (05 R128, R142, R144): an accepted CTX_SAVE has the array take the tokens below the interruption, stops the
sequencer, takes a load back to its start, holds the free tiles and notes the job; a CTX_ADDR that names no area refuses it
with 0x0203, and a tile in conflict (the reading that Config holds, log 16) with 0x0208.

RESUME (07 R177): with the engine stopped it is not stopped any more, the record is written and the waiting streams read
their rings; with the engine not stopped the descriptor only completes.

CTX_SAVE_COMPLETE (05 R144, R145): once the operations in flight are complete and no operation is interrupted, the area
is written, the context's hold on the tiles ends and the descriptor's record is written; an interrupted operation's
entered tokens are added before that. A write of it that meets a protected piece holds the whole step (log 12).

CTX_RESTORE (05 R146): on a stopped engine, an area that is incomplete or of another form is refused with 0x020A; of any
other, whose sets can be read, the tiles' elements, the generator, the tokens, the weight sets and every stream's D
registers and PC are those of the area, the interrupted operation goes on with the tokens that the area held, no other
operation is outstanding and the engine is not stopped. -/
def Obligations.ContextIsSavedAndRestored : Prop :=
  (∀ (s : State) (e q : Nat) (d : Desc),
    (∀ n, Held s e q 0x0E03 d → ComplOk s d → (s.work.engine e).stopped = false → rangeSet d.payload 0x10 40 = false →
      (ctxAddr s.hub (fld d.payload 0 8) = none →
        exec (.ctxSave e q n) s =
          .next { s with work := refuseDescriptor s.hub (opened s e q d) e q 0x0203 (fld d.payload 0 8) }) ∧
      (∀ a : Nat, ctxAddr s.hub (fld d.payload 0 8) = some a →
        (contextConflict (s.work.engine e) = true →
          exec (.ctxSave e q n) s =
            .next { s with work := refuseDescriptor s.hub (countConflict (opened s e q d) e) e q 0x0208 0 }) ∧
        (contextConflict (s.work.engine e) = false →
          exec (.ctxSave e q n) s =
            .next { s with
              work := (takeTokens s.hub (opened s e q d) e n).setEngine e (fun en =>
                { holdFree (stopLoad en) with stopped := true, saving := some ⟨q, a, interruptAt en n⟩ }) }))) ∧
    (Held s e q 0x0E05 d → ComplOk s d → (s.work.engine e).saving = none → rangeSet d.payload 0 8 = false →
      rangeSet d.payload 0x10 40 = false →
      ((s.work.engine e).stopped = true →
        exec (.resume e q) s =
          .next { s with
            work := wakeStreams s.hub (finishDescriptor s.hub ((opened s e q d).setEngine e restart) e q 0 0) e }) ∧
      ((s.work.engine e).stopped = false →
        exec (.resume e q) s = .next { s with work := finishDescriptor s.hub (opened s e q d) e q 0 0 }))) ∧
  (∀ (s : State) (e : Nat),
    (∀ j : CtxJob, (s.work.engine e).saving = some j → working s.hub s.work e = true →
      (s.work.engine e).ops.all (mayStay (s.work.engine e)) = true →
      (∀ w1 : Work, j.resume = none →
        engineStore s.hub s.work e false j.addr (ctxBytes (s.work.engine e) e none) = .ok w1 →
        exec (.ctxSaveComplete e) s =
          .next { s with
            work := wholeStep s.work (6, e, 0)
              (finishDescriptor s.hub (w1.setEngine e (fun en => { releaseContext en with saving := none })) e j.stream 0
                0) }) ∧
      (∀ (o : Op) (n t : Nat) (p : ArrayP) (c : Option Nat) (set : WeightSet) (acts : List (List Nat × List Nat)) (w1 : Work),
        j.resume = some (o.id, n) → (s.work.engine e).op o.id = some o → o.kind = .array p c (some set) acts t →
        tokenEvents p set t t (acts.take (n - t)) = [] →
        engineStore s.hub (cutOperation s.work e n o p set acts t) e false j.addr
          (ctxBytes ((cutOperation s.work e n o p set acts t).engine e) e j.resume) = .ok w1 →
        exec (.ctxSaveComplete e) s =
          .next { s with
            work := wholeStep s.work (6, e, 0)
              (finishDescriptor s.hub (w1.setEngine e (fun en => { releaseContext en with saving := none })) e j.stream 0
                0) })) ∧
    (∀ (q a : Nat) (d : Desc) (b : List Byte), Held s e q 0x0E04 d → ComplOk s d → (s.work.engine e).saving = none →
      rangeSet d.payload 0x10 40 = false → ctxAddr s.hub (fld d.payload 0 8) = some a → (s.work.engine e).stopped = true →
      contextConflict (s.work.engine e) = false → e < s.work.engines.length →
      engineRead s.hub (opened s e q d) e a ctxSize = .ok b →
      (ctxBad b = true →
        exec (.ctxRestore e q) s = .next { s with work := refuseDescriptor s.hub (opened s e q d) e q 0x020A a }) ∧
      (∀ x, ctxBad b = false → reloads s.hub (opened s e q d) e b = .ok x → fld d.payload 8 8 = 0 →
        ∃ t : State, exec (.ctxRestore e q) s = .next t ∧ t.hub = s.hub ∧
          (t.work.engine e).stopped = false ∧ (t.work.engine e).gen = restoreGen b ∧
          (t.work.engine e).arr.active = x.1 ∧ (t.work.engine e).arr.shadow = x.2.1 ∧
          (x.2.2 = none → (t.work.engine e).ops = []) ∧
          (∀ (set : WeightSet) (p : ArrayP) (toks : List (List Nat × List Nat)), x.1 = some set → x.2.2 = some (p, toks) →
            ∃ o : Op, (t.work.engine e).ops = [o] ∧ o.kind = .array p none (some set) toks (fld b 0x190 2) ∧
              o.phase = .started ∧ o.stream = fld b 0x192 1) ∧
          (t.work.engine e).tokens = (List.range 64).map (fun c => BitVec.ofNat 32 (fld b (0x1C00 + 4 * c) 4)) ∧
          ((t.work.engine e).tile 0).elems = (restoreTile b 0x30000 (bitOf (fld b 8 8) 3)).elems ∧
          ((t.work.engine e).tile 1).elems = (restoreTile b 0xF0000 (bitOf (fld b 8 8) 4)).elems ∧
          ∀ i st, (s.work.engine e).streams[i]? = some st → i < 4 →
            (t.work.stream e i).d = (List.range 32).map (fun n => BitVec.ofNat 64 (fld b (0x1000 + i * 0x300 + 0x100 + 8 * n) 8)) ∧
            (t.work.stream e i).pc = BitVec.ofNat 64 (fld b (0x1000 + i * 0x300) 8))))

/-! ### Sequencer control (07) -/

/-- NOP, SETD, ADDD and BRANCH (07 R184, R188): ISN rises by one; the PC goes on by 16, or by OFFSET where the condition
of a BRANCH holds; D(DST) takes IMM or D(SRC) + IMM modulo 2^64, but D0 stays 0. Nothing else changes but the kept page of
the program and an earlier TILE_WAIT.

The six conditions of BRANCH (07 R188): equal, not equal, and less or not less, without and with sign. -/
def Obligations.ControlInstructionsMoveTheStream : Prop :=
  (∀ (s : State) (e q word : Nat),
    (Finds s e q (opcodeIs 0x00) word →
      exec (.nop e q) s =
        .next { s with work := (taken s e q).setStream e q (fun st => { st with isn := st.isn + 1, pc := st.pc + 16 }) }) ∧
    (Finds s e q (opcodeIs 0x02) word →
      exec (.setd e q) s =
        .next { s with
          work := (taken s e q).setStream e q (fun st =>
            { st with
              isn := st.isn + 1, pc := st.pc + 16
              d := if bitsOf word 16 5 = 0 then st.d
                   else st.d.set (bitsOf word 16 5) (BitVec.ofNat 64 (bitsOf word 64 64)) }) }) ∧
    (Finds s e q (opcodeIs 0x03) word →
      exec (.addd e q) s =
        .next { s with
          work := (taken s e q).setStream e q (fun st =>
            { st with
              isn := st.isn + 1, pc := st.pc + 16
              d := if bitsOf word 16 5 = 0 then st.d
                   else st.d.set (bitsOf word 16 5) (st.reg (bitsOf word 21 5) + BitVec.ofNat 64 (bitsOf word 64 64)) }) }) ∧
    (Finds s e q (opcodeIs 0x04) word →
      exec (.branch e q) s =
        .next { s with
          work := (taken s e q).setStream e q (fun st =>
            { st with
              isn := st.isn + 1
              pc := st.pc +
                (if branchTaken (bitsOf word 26 3) (st.reg (bitsOf word 16 5)) (st.reg (bitsOf word 21 5)) then
                  BitVec.ofNat 64 (bitsOf word 64 64)
                else 16) }) })) ∧
  (∀ a b : Word,
    (branchTaken 0 a b = true ↔ a = b) ∧ (branchTaken 1 a b = true ↔ a ≠ b) ∧
    (branchTaken 2 a b = true ↔ a.toNat < b.toNat) ∧ (branchTaken 3 a b = true ↔ b.toNat ≤ a.toNat) ∧
    (branchTaken 4 a b = true ↔ a.toInt < b.toInt) ∧ (branchTaken 5 a b = true ↔ b.toInt ≤ a.toInt))

/-- END (07 R187): it takes its place in the stream, which issues nothing after it, and once every instruction of its RUN
is complete the completion record with the ISN reached is written and trace event 1 is emitted (a write that meets a
protected piece holds that step, log 12).

TILE_WAIT (07 R188): the stream takes note of the tiles that it names, and issues nothing while one of them is held.

FENCE (07 R187, R197): it is issued as an operation with acquire and release; with no earlier operation of its stream
outstanding it is complete at once, and else the stream waits for it.

Refusals at issue (07 R181, R206, R557): in the turn of a ready stream, a PC at or above LENGTH is refused with 0x0203 and
OPCODE 0, and an opcode that is not in the tables with 0x0201, whatever instruction the sequencer is asked for; a word
with a reserved bit or a reserved value is refused with 0x0201. The first fault of a stream is recorded with its code, its
OPCODE, its ISN and its PC, and no operation is issued or dropped by that. -/
def Obligations.StreamsWaitEndAndFault : Prop :=
  (∀ (s : State) (e q word : Nat),
    (Finds s e q (opcodeIs 0x01) word →
      exec (.endRun e q) s =
        .next { s with
          work := (taken s e q).setStream e q (fun st =>
            { st with isn := st.isn + 1, pc := st.pc + 16, endIssued := true }) }) ∧
    (Finds s e q (opcodeIs 0x05) word →
      exec (.tileWait e q) s =
        .next { s with
          work := (taken s e q).setStream e q (fun st =>
            { st with
              isn := st.isn + 1, pc := st.pc + 16
              tileWait := (if bitOf word 16 then [0] else []) ++ (if bitOf word 17 then [1] else []) }) }) ∧
    (Finds s e q (opcodeIs 0x53) word →
      exec (.fence e q) s =
        .next { s with
          work := (issueOp (taken s e q) e q word none true true .fence).setEngine e (fun en => clearFence en q) }) ∧
    (Finds s e q (opcodeIs 0x53) word → e < s.work.engines.length → q < (s.work.engine e).streams.length →
      (∀ o ∈ (s.work.engine e).ops, o.id < (s.work.engine e).nextId ∧ o.kind ≠ .fence) →
      ∃ t : State, exec (.fence e q) s = .next t ∧ t.hub = s.hub ∧ t.work.mem = s.work.mem ∧
        (t.work.stream e q).isn = (s.work.stream e q).isn + 1 ∧ (t.work.stream e q).pc = (s.work.stream e q).pc + 16 ∧
        ((s.work.engine e).ops.any (fun o => o.stream == q) = false →
          (t.work.stream e q).acquire = none ∧ (t.work.engine e).ops = (s.work.engine e).ops) ∧
        ((s.work.engine e).ops.any (fun o => o.stream == q) = true →
          (t.work.stream e q).acquire = some (s.work.engine e).nextId)) ∧
    (working s.hub s.work e = true → (s.work.stream e q).running = true → (s.work.stream e q).endIssued = true →
      (s.work.stream e q).faulting = none → (s.work.engine e).stopped = false →
      (s.work.engine e).ops.any (fun o => o.stream == q) = false →
      exec (.endComplete e q) s =
        .next { s with
          work := wholeStep s.work (7, e, q)
            (trace s.hub (finishDescriptor s.hub s.work e q (s.work.stream e q).isn 0) 1 (unitOf 1 e)
              (s.work.stream e q).progAddr.toNat) })) ∧
  (∀ (s : State) (e q : Nat),
    ((s.work.stream e q).endIssued = true → streamReady s.hub s.work e q = false) ∧
    ((s.work.stream e q).tileWait.any (tileHeld (s.work.engine e)) = true → streamReady s.hub s.work e q = false)) ∧
  (∀ (h : Hub) (w : Work) (e q : Nat) (mine : Nat → Bool) (run : Work → Nat → Work), streamReady h w e q = true →
    streamTurn h w e q = true →
    ((w.stream e q).length ≤ (w.stream e q).pc.toNat →
      decideInstr h w e q mine run = refuseInstr h (serveStream w e q) e q 0x0203 0 0 none 0) ∧
    (∀ word : Nat, (w.stream e q).pc.toNat < (w.stream e q).length →
      engineNat h w e (fetchAddr (w.stream e q)) 16 = .ok word →
      (knownOpcode (bitsOf word 0 8) = false →
        decideInstr h w e q mine run = refuseInstr h (serveStream w e q) e q 0x0201 (bitsOf word 0 8) 0 none 0) ∧
      (knownOpcode (bitsOf word 0 8) = true → mine word = true → atomicHazard (w.engine e) q word = false →
        (unitOfOpcode (bitsOf word 0 8) = .control ∨ unitFull (w.engine e) (unitOfOpcode (bitsOf word 0 8)) q = false) →
        (reservedBits word = true ∨ reservedValue word = true) →
        decideInstr h w e q mine run =
          refuseInstr h (serveStream w e q) e q 0x0201 (bitsOf word 0 8) 0 none (tensorOf (w.stream e q) word)))) ∧
  (∀ (h : Hub) (w : Work) (e q : Nat) (code : Code) (f : FaultAt), e < w.engines.length →
    q < (w.engine e).streams.length → (w.stream e q).faulting = none → (w.stream e q).fault = false →
    ((recordFault h w e q code f).engine e).ops = (w.engine e).ops ∧
    ((recordFault h w e q code f).stream e q).faulting = some code ∧
    ((recordFault h w e q code f).stream e q).record.code = code ∧
    ((recordFault h w e q code f).stream e q).record.opcode = f.opcode ∧
    ((recordFault h w e q code f).stream e q).record.isn = f.isn ∧
    ((recordFault h w e q code f).stream e q).record.pc = f.pc)

/-! ### Issue (07) -/

/-- Issuing an instruction to a unit (07 R174, R180, R184, R186): the operation is the last of its engine's, with the ISN
one above those issued, the PC and the ORDER bits of the word; the stream's ISN rises by one, its PC by 16, and an acquire
makes the stream wait for the operation. No other engine changes, and nothing outside the engines does.

WLOAD and ARRAY (04 R98 to R106, 05 R128, 07 R189, R190): a weight load that passes its checks is issued with the
parameters of its word and no row loaded; an array operation that passes them, and finds its tile free or held by array
operations of its own stream, is issued with the set it claims and joins the holders of the tile. A tile in conflict
refuses it with 0x0208, and the refusal is counted.

BULK_LOAD and BULK_STORE are issued with the block that their operands name and the conversion that their window asks for
(07 R194); a lossy store through a keep window reserves its draws at issue (10 R294). ATOMIC is issued with its address and operands, and refused with 0x0203
where the address is not 8-byte aligned (07 R196). -/
def Obligations.InstructionsIssueToTheirUnits : Prop :=
  (∀ (w : Work) (e q word : Nat) (conv : Option ConvIssue) (acq rel : Bool) (k : OpKind), e < w.engines.length →
    q < (w.engine e).streams.length →
    ∃ o : Op, ((issueOp w e q word conv acq rel k).engine e).ops = (w.engine e).ops ++ [o] ∧ o.id = (w.engine e).nextId ∧
      o.stream = q ∧ o.isn = (w.stream e q).isn + 1 ∧ o.pc = (w.stream e q).pc ∧ o.opcode = word % 256 ∧ o.release = rel ∧
      o.phase = .issued ∧ o.kind = k ∧ o.conv = conv ∧
      ((issueOp w e q word conv acq rel k).engine e).nextId = (w.engine e).nextId + 1 ∧
      (issueOp w e q word conv acq rel k).stream e q =
        { w.stream e q with
          isn := (w.stream e q).isn + 1, pc := (w.stream e q).pc + 16
          acquire := if acq then some (w.engine e).nextId else (w.stream e q).acquire } ∧
      (∀ q', q' ≠ q → (issueOp w e q word conv acq rel k).stream e q' = w.stream e q') ∧
      (∀ e', e' ≠ e → (issueOp w e q word conv acq rel k).engine e' = w.engine e') ∧
      { issueOp w e q word conv acq rel k with engines := w.engines } = w) ∧
  (∀ (s : State) (e q word : Nat),
    (∀ p : WloadP, Finds s e q (opcodeIs 0x10) word → checkWload s.hub (taken s e q) e q word = .ok p →
      exec (.wload e q) s =
        .next { s with
          work := issueOp (taken s e q) e q word none (acquireOf word) (releaseOf word)
            (.wload p (some ⟨p.fmt, p.passes, p.wAddr, p.wStride, p.kRows, p.nCols, p.wsAddr, p.rdAddr, [], [], []⟩)) }) ∧
    (∀ (p : ArrayP) (claim : Option Nat), Finds s e q (opcodeIs 0x11) word →
      checkArray (taken s e q) e q word = .ok (p, claim) →
      (tileConflict (((taken s e q).engine e).tile p.tile) true q = false →
        exec (.array e q) s =
          .next { s with
            work := (issueOp (taken s e q) e q word none (acquireOf word) (releaseOf word)
              (.array p claim none [] 0)).setEngine e (fun en =>
                en.setTile p.tile (fun t => { t with holder := .array, stream := q, count := t.count + 1 })) }) ∧
      (tileConflict (((taken s e q).engine e).tile p.tile) true q = true →
        exec (.array e q) s =
          .next { s with
            work := refuseInstr s.hub
              ((taken s e q).setEngine e (fun en => { en with accConflicts := en.accConflicts + 1 })) e q 0x0208 0x11 0 none
              0 }))) ∧
  (∀ (s : State) (e q word : Nat),
    (∀ (p : BulkP) (conv : Option ConvIssue), checkBulk s.hub (taken s e q) e q word true = .ok (p, conv) →
      Finds s e q (opcodeIs 0x50) word →
      exec (.bulkLoad e q) s = .next { s with work := issuedBulk s e q word p conv }) ∧
    (∀ (p : BulkP) (conv : Option ConvIssue), checkBulk s.hub (taken s e q) e q word false = .ok (p, conv) →
      Finds s e q (opcodeIs 0x51) word →
      exec (.bulkStore e q) s = .next { s with work := issuedBulk s e q word p conv }) ∧
    (Finds s e q (opcodeIs 0x52) word →
      (regN ((taken s e q).stream e q) word 21 % 8 = 0 →
        exec (.atomic e q) s =
          .next { s with
            work := issueOp (taken s e q) e q word none (acquireOf word) (releaseOf word)
              (.atomic ⟨bitsOf word 16 5, regN ((taken s e q).stream e q) word 21,
                ((taken s e q).stream e q).reg (bitsOf word 26 5), ((taken s e q).stream e q).reg (bitsOf word 31 5),
                bitsOf word 36 3, false, none⟩) }) ∧
      (regN ((taken s e q).stream e q) word 21 % 8 ≠ 0 →
        exec (.atomic e q) s =
          .next { s with
            work := refuseInstr s.hub (taken s e q) e q 0x0203 0x52 (regN ((taken s e q).stream e q) word 21) none 0 })))

/-! ### Array (04) -/

/-- WLOAD_START (04 R102, R105): a weight load starts when the shadow plane is free and its release is met, or goes on; by
now its first rows are loaded, each with its descriptor and its group's scales. A row that cannot be read faults the load
(04 R123).

WLOAD_COMPLETE (04 R102, R103): the rest of the rows is loaded, the set is in the shadow plane, a claim on the load becomes
a claim on the shadow set, and the load is complete.

ARRAY_START (04 R103, R110, R113, R118): the operation in front swaps the shadow set in when WSET = 1, its feeders read the
tokens that they can hold, and its first plane enters; an operation that runs has taken its last plane before, or keeps
the next one out.

FEEDER_ENTRY_ARRIVAL (04 R110, R112, R118, R119): the planes that have entered are steps, the waits are counted as
starved, and the feeders read on behind the planes.

ARRAY_COMPLETE (04 R100, R114, R118, R120; 08 R234): what the feeders had still to read is read; unless a NaN halts the
operation, all its planes are steps and their toggles count, its tokens are added into its tile, its hold on the tile is
given up, and it is complete; a NaN that halts it ends it in the step of the first NaN.

A NaN halts an operation if it was issued with the trap enabled and not in record mode (08 R232 to R234). -/
def Obligations.WeightsLoadAndArrayOperationsRun : Prop :=
  (∀ (s : State) (e : Nat) (o : Op) (p : WloadP) (s0 : WeightSet), frontLoad (s.work.engine e) = some o →
    o.kind = .wload p (some s0) → working s.hub s.work e = true → (s.work.engine e).stopped = false →
    (∀ rows : Nat,
      (o.phase = .started ∨
        (o.phase = .issued ∧ (s.work.engine e).arr.shadow = none ∧ mayStart (s.work.engine e) o = true)) →
      (∀ set : WeightSet, loadRows s.hub s.work e s0 rows = .ok set →
        exec (.wloadStart ⟨e, rows⟩) s =
          .next { s with
            work := s.work.setEngine e (fun en =>
              en.setOp o.id (fun x => { x with phase := .started, kind := .wload p (some set) })) }) ∧
      (∀ (c : Code) (a : Nat), loadRows s.hub s.work e s0 rows = .error (c, a) →
        exec (.wloadStart ⟨e, rows⟩) s = .next { s with work := faultLoad s.hub s.work e o c a })) ∧
    (∀ set : WeightSet, o.phase = .started → loadRows s.hub s.work e s0 p.kRows = .ok set →
      exec (.wloadComplete e) s =
        .next { s with
          work := completeOp s.hub
            (s.work.setEngine e (fun en =>
              { en with arr := { en.arr with shadow := some set }, ops := en.ops.map (reclaim o.id) })) e o })) ∧
  (∀ (s : State) (e : Nat) (o : Op) (p : ArrayP), working s.hub s.work e = true →
    (∀ (claim : Option Nat) (st0 : Option WeightSet) (a0 : List (List Nat × List Nat)) (t0 : Nat),
      frontArray (s.work.engine e) = some o → o.kind = .array p claim st0 a0 t0 → (s.work.engine e).stopped = false →
      mayStart (s.work.engine e) o = true →
      (p.wset = true → claim = some 0 ∧ (s.work.engine e).arr.shadow ≠ none) →
      (∀ (set : WeightSet) (toks : List (List Nat × List Nat)),
        (swapIn (s.work.engine e).arr p.wset).active = some set → runningArray (s.work.engine e) = none →
        readTokens s.hub s.work e p set 0 (min 64 p.m) = .ok toks →
        exec (.arrayStart e) s =
          .next { s with
            work := s.work.setEngine e (fun en =>
              { en.setOp o.id (fun _ =>
                  { o with phase := .started, planes := max o.planes 1, kind := .array p none (some set) toks 0 }) with
                arr :=
                  { swapIn (s.work.engine e).arr p.wset with
                    steps := (s.work.engine e).arr.steps + BitVec.ofNat 64 (1 - o.planes) } }) }) ∧
      (∀ w1 : Work, lastPlaneIn s.hub s.work e = (w1, true) →
        exec (.arrayStart e) s = .next { s with work := enterArray s.hub w1 e o }) ∧
      (∀ w1 : Work, lastPlaneIn s.hub s.work e = (w1, false) → exec (.arrayStart e) s = .next { s with work := w1 })) ∧
    (∀ (planes waited n t : Nat) (claim : Option Nat) (set : WeightSet) (acts more : List (List Nat × List Nat)),
      (s.work.engine e).stopped = false → runningArray (s.work.engine e) = some o →
      o.kind = .array p claim (some set) acts t → n = max o.planes (min planes (acts.length * stepsPerToken p set)) →
      fillFeeders s.hub s.work e p set t acts (t + n / stepsPerToken p set + 64) = .ok more →
      exec (.feederEntryArrival e ⟨planes, waited⟩) s =
        .next { s with
          work := s.work.setEngine e (fun en =>
            { en.setOp o.id (fun x =>
                { x with planes := max x.planes n, kind := .array p claim (some set) more t }) with
              arr :=
                { en.arr with
                  steps := en.arr.steps + BitVec.ofNat 64 (n - o.planes)
                  starved := en.arr.starved + BitVec.ofNat 64 waited } }) }) ∧
    (∀ (claim : Option Nat) (set : WeightSet) (acts more : List (List Nat × List Nat)) (t : Nat),
      (s.work.engine e).ops.find? isArray = some o → (s.work.engine e).op o.id = some o → e < s.work.engines.length →
      o.kind = .array p claim (some set) acts t → o.phase = .started →
      ((s.work.engine e).saving = none → (s.work.engine e).stopped = false) →
      (∀ j, (s.work.engine e).saving = some j → j.resume.map (fun x => x.1) ≠ some o.id) →
      fillFeeders s.hub s.work e p set t acts 256 = .ok more →
      let x : Op := { o with kind := .array p claim (some set) more t }
      let w1 := s.work.setEngine e (fun en =>
        en.setOp o.id (fun y => { y with kind := .array p claim (some set) more t }))
      let w2 := trapNans w1 e x 1 0 (tokenEvents p set t t more)
      (trapHalts x (tokenEvents p set t t more) = false →
        exec (.arrayComplete e) s =
          .next { s with
            work := completeOp s.hub
              ((leaveArray w2 e x (planesFrom p set t)).setEngine e (fun en =>
                en.setTile p.tile (fun y => releaseTile (addTokens p.aFmt set t more y)))) e x }) ∧
      (trapHalts x (tokenEvents p set t t more) = true →
        exec (.arrayComplete e) s =
          .next { s with work := haltArray s.hub w2 e x (planesFrom p set t) (tokenEvents p set t t more) }))) ∧
  (∀ (o : Op) (ev : List NanEvent),
    trapHalts o ev = true ↔ (o.trapEnable = true ∧ o.trapRecord = false ∧ ev ≠ []))

/-- 04 R100: result element (m, j) is added into TILE at row m and column j, for m below M and j below N_COLS of the active
weight set, and no other element of the tile changes. The operation that completes has t as its first token: 0, or the
token at which an interrupted operation goes on, its earlier rows having been added when it was interrupted (05 R145).
`tokenGroups` gives the group sums of an element and `accumulate` adds them in order (03). -/
def Obligations.ResultsEnterTheTile : Prop :=
  ∀ (s : State) (e : Nat) (o : Op) (p : ArrayP) (claim : Option Nat) (set : WeightSet)
    (acts more : List (List Nat × List Nat)) (t : Nat),
    working s.hub s.work e = true → (s.work.engine e).ops.find? isArray = some o → (s.work.engine e).op o.id = some o →
    e < s.work.engines.length → o.kind = .array p claim (some set) acts t → o.phase = .started →
    (s.work.engine e).saving = none → (s.work.engine e).stopped = false →
    fillFeeders s.hub s.work e p set t acts 256 = .ok more → t + acts.length ≤ p.m → p.m ≤ 256 → set.nCols ≤ 512 →
    p.tile < (s.work.engine e).tiles.length →
    (o.trapEnable = false ∨ o.trapRecord = true ∨ tokenEvents p set t t more = []) →
    ∃ (w : Work) (x : Op), exec (.arrayComplete e) s = .next { s with work := completeOp s.hub w e x } ∧ x.id = o.id ∧
      ∀ m j : Nat, j < 512 →
        tileGet ((w.engine e).tile p.tile) m j =
          if t ≤ m ∧ m < p.m ∧ j < set.nCols then
            accumulate (tileGet ((s.work.engine e).tile p.tile) m j)
              ((tokenGroups p.aFmt set (more.getD (m - t) ([], [])) j).map (fun x => x.2)) % 2 ^ 48
          else tileGet ((s.work.engine e).tile p.tile) m j

/-! ### Inset path, tile port and element unit (05, 06) -/

/-- INSET (06 R148, 07 R191): an operation that passes its checks is issued; one with elements holds its tile, is refused
with 0x0208 where the tile is in conflict, and that refusal is counted.

INSET_START (06 R153): the first operation of the path starts, once its release is met.

INSET_COMPLETE (06 R151, R152, R168; 18 R529; 08 R234): an operation without elements only completes; one with elements
counts its waits, and unless a NaN halts it its results are added into the tile from ROW0 on, its hold on the tile is given
up, and it is complete; a NaN that halts it ends it with 0x0301. -/
def Obligations.InsetOperationRuns : Prop :=
  ∀ (s : State) (e q word : Nat) (p : InsetP),
    (Finds s e q (opcodeIs 0x20) word → checkInset s.hub (taken s e q) e q word = .ok p →
      (p.empty = true →
        exec (.inset e q) s =
          .next { s with
            work := issueOp (taken s e q) e q word none (acquireOf word) (releaseOf word) (.inset p) }) ∧
      (p.empty = false → tileConflict (((taken s e q).engine e).tile p.tile) false q = false →
        exec (.inset e q) s =
          .next { s with
            work := (issueOp (taken s e q) e q word none (acquireOf word) (releaseOf word) (.inset p)).setEngine e (fun en =>
              en.setTile p.tile (fun t => { t with holder := .inset, stream := q, count := t.count + 1 })) }) ∧
      (p.empty = false → tileConflict (((taken s e q).engine e).tile p.tile) false q = true →
        exec (.inset e q) s =
          .next { s with
            work := refuseInstr s.hub
              ((taken s e q).setEngine e (fun en => { en with accConflicts := en.accConflicts + 1 })) e q 0x0208 0x20 0 none
              0 })) ∧
    (∀ o : Op, (s.work.engine e).ops.find? isInset = some o → working s.hub s.work e = true →
      (o.phase = .issued → mayStart (s.work.engine e) o = true →
        exec (.insetStart e) s =
          .next { s with work := s.work.setEngine e (fun en => en.setOp o.id (fun x => { x with phase := .started })) }) ∧
      (∀ waited : Nat, o.phase = .started → o.kind = .inset p → p.empty = true →
        exec (.insetComplete e waited) s = .next { s with work := completeOp s.hub s.work e o }) ∧
      (∀ (waited : Nat) (set : WeightSet) (toks : List (List Nat × List Nat)), o.phase = .started → o.kind = .inset p →
        p.empty = false → readInset s.hub (addInsetWaits s.work e waited) e p = .ok (set, toks) →
        let ev := tokensNans p.aFmt set (fun _ _ => 0) p.row0 toks
        let w1 := trapNans (addInsetWaits s.work e waited) e o 2 0 ev
        (trapHalts o ev = false →
          exec (.insetComplete e waited) s =
            .next { s with
              work := completeOp s.hub
                (w1.setEngine e (fun en =>
                  en.setTile p.tile (fun t => releaseTile (addTokens p.aFmt set p.row0 toks t)))) e o }) ∧
        (trapHalts o ev = true →
          exec (.insetComplete e waited) s =
            .next { s with work := faultInset s.hub w1 e o p 0x0301 0 none })))

/-- PRELOAD (05 R128, R131, 07 R192): an accepted preload without elements is only issued; one with elements holds its tile,
and is refused with 0x0208 and counted where the tile is in conflict.

PRELOAD_COMPLETE (05 R127, R132, R140): a preload runs, unless it has run already, and ends by it: it gives its tile up and
is complete, or faults with the end that its run gives; a preload with SRC_KIND = 0 of the whole tile clears FAULTED. A
write of it that meets a protected piece holds the whole step (log 12).

What a preload with SRC_KIND = 0 writes (05 R132): +0 at every element of its rectangle, and no other element. -/
def Obligations.PreloadWritesTheTile : Prop :=
  ∀ (s : State) (e q word : Nat) (p : PreloadP),
    (Finds s e q (opcodeIs 0x30) word → checkPreload (taken s e q) e q word = .ok p →
      (p.empty = true →
        exec (.preload e q) s =
          .next { s with
            work := issueOp (taken s e q) e q word none (acquireOf word) (releaseOf word) (.preload p) }) ∧
      (p.empty = false → tileConflict (((taken s e q).engine e).tile p.tile) false q = false →
        exec (.preload e q) s =
          .next { s with
            work := (issueOp (taken s e q) e q word none (acquireOf word) (releaseOf word) (.preload p)).setEngine e
              (fun en => en.setTile p.tile (fun t => { t with holder := .preload, stream := q, count := t.count + 1 })) }) ∧
      (p.empty = false → tileConflict (((taken s e q).engine e).tile p.tile) false q = true →
        exec (.preload e q) s =
          .next { s with
            work := refuseInstr s.hub
              ((taken s e q).setEngine e (fun en => { en with accConflicts := en.accConflicts + 1 })) e q 0x0208 0x30 0 none
              p.tensorId })) ∧
    (∀ (o : Op) (w1 : Work) (end1 : Option (Code × Nat)), frontTileOp s.hub s.work e = some o → o.kind = .preload p →
      (o.phase = .ran → w1 = s.work ∧ end1 = none) →
      (o.phase ≠ .ran → runPreload s.hub s.work e o p = (w1, end1)) →
      exec (.preloadComplete e) s =
        .next { s with work := wholeStep s.work (1, e, o.id) (endPreload s.hub w1 e o p end1) }) ∧
    (∀ (w1 : Work) (o : Op), p.empty = false →
      endPreload s.hub w1 e o p none =
        completeOp s.hub
          (w1.setEngine e (fun en => en.setTile p.tile (fun t =>
            releaseTile
              { t with
                faulted := t.faulted &&
                  !(p.srcKind == 0 && p.row0 == 0 && p.rows == 256 && p.cols == 512) }))) e o) ∧
    (∀ o : Op, p.empty = false → p.srcKind = 0 →
      runPreload s.hub s.work e o p =
        (s.work.setEngine e (fun en => en.setTile p.tile (fun _ =>
          (preloadRows s.work p p.rows 0 ((s.work.engine e).tile p.tile) (emptyCounts .a48)).1)), none)) ∧
    (∀ (r j : Nat) (t : Tile) (c : Counts), p.srcKind = 0 → p.srcFmt = .fp32 → j < 512 → p.cols ≤ 512 →
      tileGet (preloadRows s.work p p.rows 0 t c).1 r j =
        if p.row0 ≤ r ∧ r < p.row0 + p.rows ∧ j < p.cols then 0 else tileGet t r j)

/-- DRAIN (05 R128, R133, R136, 06 R164, 02 R67): an accepted drain without elements is only issued; one with elements holds
its tile, binds the element-unit operation it feeds, and reserves its draws; it is refused with 0x0208, and counted, where
the tile is in conflict, and with 0x0209 where no operation waits for its rows.

DRAIN_COMPLETE (05 R127, R135, R140): a drain runs, unless it has run already, and ends by it: it gives the tile up, the
operation it feeds learns how it ended, and it is complete, or faults with the end that its run gives. A write of it that
meets a protected piece holds the whole step (log 12).

A drain reads each row once (05 R135): with CLEAR = 1 every element of the rows read holds +0 after it, and with CLEAR = 0
the tile is unchanged; elements outside the rectangle are unchanged (for a drain that no NaN halts). -/
def Obligations.DrainReadsAndClearsTheTile : Prop :=
  (∀ (s : State) (e q word : Nat) (p : DrainP) (ci : ConvIssue),
    (Finds s e q (opcodeIs 0x31) word → checkDrain s.hub (taken s e q) e q word = .ok (p, ci) →
      (p.empty = true →
        exec (.drain e q) s =
          .next { s with
            work := issueOp (taken s e q) e q word (some { ci with draws := false }) (acquireOf word) (releaseOf word)
              (.drain p none) }) ∧
      (p.empty = false → tileConflict (((taken s e q).engine e).tile p.tile) false q = true →
        exec (.drain e q) s =
          .next { s with
            work := refuseInstr s.hub
              ((taken s e q).setEngine e (fun en => { en with accConflicts := en.accConflicts + 1 })) e q 0x0208 0x31 0 none
              p.tensorId }) ∧
      (p.empty = false → tileConflict (((taken s e q).engine e).tile p.tile) false q = false →
        (p.handoff = false →
          exec (.drain e q) s =
            .next { s with
              work :=
                if anyDraw p.conv ci.marks then
                  reserve ((issueOp (taken s e q) e q word (some { ci with draws := true }) (acquireOf word)
                    (releaseOf word) (.drain p none)).setEngine e (fun en =>
                      en.setTile p.tile (fun t => { t with holder := .drain, stream := q, count := t.count + 1 })))
                    e p.conv ci p.cols (p.rows * p.cols)
                else (issueOp (taken s e q) e q word (some { ci with draws := false }) (acquireOf word) (releaseOf word)
                  (.drain p none)).setEngine e (fun en =>
                    en.setTile p.tile (fun t => { t with holder := .drain, stream := q, count := t.count + 1 })) }) ∧
        (∀ b : Nat, p.handoff = true → bindTarget ((taken s e q).engine e) q p = some b →
          exec (.drain e q) s =
            .next { s with
              work := (issueOp (taken s e q) e q word (some { ci with draws := false }) (acquireOf word) (releaseOf word)
                (.drain p (some b))).setEngine e (fun en =>
                  (en.setTile p.tile (fun t => { t with holder := .drain, stream := q, count := t.count + 1 })).setOp b
                    (fun o => match o.kind with
                      | .eu x _ rows cl f => { o with kind := .eu x (some ((taken s e q).engine e).nextId) rows cl f }
                      | _ => o)) }) ∧
        (p.handoff = true → bindTarget ((taken s e q).engine e) q p = none →
          exec (.drain e q) s =
            .next { s with work := refuseInstr s.hub (taken s e q) e q 0x0209 0x31 0 none p.tensorId }))) ∧
    (∀ (o : Op) (b : Option Nat) (w1 : Work) (end1 : Option (Code × Nat)), frontTileOp s.hub s.work e = some o →
      o.kind = .drain p b →
      (o.phase = .ran → w1 = s.work ∧ end1 = none) →
      (o.phase ≠ .ran → runDrain s.hub s.work e o p b p.rows p.rows = (w1, end1)) →
      exec (.drainComplete e) s =
        .next { s with
          work := wholeStep s.work (1, e, o.id)
            (endDrain s.hub w1 e o p b (end1.map (fun x => (x.1, x.2, none)))) }) ∧
    (∀ (o : Op) (b : Option Nat) (w1 : Work), p.empty = false →
      endDrain s.hub w1 e o p b none =
        completeOp s.hub
          (handOver
            (w1.setEngine e (fun en => en.setTile p.tile (fun t =>
              releaseTile
                { t with faulted := t.faulted && !(p.clear && p.row0 == 0 && p.rows == 256 && p.cols == 512) })))
            e b [] (some none)) e o)) ∧
  (∀ (w : Work) (e : Nat) (o : Op) (p : DrainP) (ci : ConvIssue) (n stored r j : Nat), e < w.engines.length →
    p.tile < (w.engine e).tiles.length → (o.trapEnable = false ∨ o.trapRecord = true) → p.cols ≤ 512 → j < 512 →
    tileGet (((drainRows w e o p ci n stored).work.engine e).tile p.tile) r j =
      if p.clear = true ∧ p.row0 ≤ r ∧ r < p.row0 + n ∧ j < p.cols then 0
      else tileGet ((w.engine e).tile p.tile) r j)

/-- EU, SMAX_UPDATE and SMAX_FINAL (06 R156, 07 R193, 02 R67): an operation that passes its checks is issued, by the command
of its own code, and its draws are reserved.

EU_COMPLETE (06 R164, R165, R168): the operation in front of the unit counts its waits and runs its rows, unless it has
run already; it is complete, or faults with the end that its run gives, or else with the code of the drain that fed it. A
write of it that meets a protected piece holds the whole step (log 12). -/
def Obligations.ElementUnitOperationRuns : Prop :=
  ∀ (s : State) (e q word : Nat) (p : EuP) (ci : ConvIssue),
    (checkEu s.hub (taken s e q) e q word = .ok (p, ci) →
      (Finds s e q (euOpIs (fun op => op != 0x28 && op != 0x29)) word →
        exec (.eu e q) s = .next { s with work := issuedEu s e q word p ci }) ∧
      (Finds s e q (euOpIs (fun op => op == 0x28)) word →
        exec (.smaxUpdate e q) s = .next { s with work := issuedEu s e q word p ci }) ∧
      (Finds s e q (euOpIs (fun op => op == 0x29)) word →
        exec (.smaxFinal e q) s = .next { s with work := issuedEu s e q word p ci })) ∧
    (∀ (o : Op) (waited : Nat) (b : Option Nat) (handed : List (List Nat)) (closed : Bool) (f : Option Code) (w1 : Work)
      (end1 : Option (Code × Nat)), frontEu s.hub s.work e = some o → o.kind = .eu p b handed closed f →
      (o.phase = .ran → w1 = addEuWaits s.work e waited ∧ end1 = none) →
      (o.phase ≠ .ran →
        runEu s.hub (addEuWaits s.work e waited) e o p handed (if p.aHandoff then handed.length else p.rows) 0 =
          (w1, end1)) →
      (end1 = none → f = none →
        exec (.euComplete e waited) s =
          .next { s with work := wholeStep s.work (1, e, o.id) (completeOp s.hub w1 e o) }) ∧
      (∀ (c : Code) (a : Nat), (end1 = some (c, a) ∨ (end1 = none ∧ f = some c ∧ a = 0)) →
        exec (.euComplete e waited) s =
          .next { s with work := wholeStep s.work (1, e, o.id) (faultOp s.hub w1 e o c a none p.tensorId) }))

/-- LEGEND_MERGE (08 R221): an operation of the tile port or the element unit that has not run runs and merges its counts
before it is complete, and has only its end left; one whose run ends it ends at once. A write of it that meets a protected
piece holds the whole step (log 12).

USE_CLOSE (08 R217, R226, R227): a core's store to USE_CLOSE of an entry of the table closes the use of the entry: the
entry is written as `closeEntry` gives it, USE_CLOSE itself as 0, an entry whose scale was corrected leaves a log record,
and the core is answered 0; a reserved scale control is answered 0x0304 and changes nothing; an entry outside the table is
ignored; and on a piece that a snapshot protects the store is held (11 R327). -/
def Obligations.LegendsMergeAndUsesClose : Prop :=
  (∀ (s : State) (e : Nat) (o : Op) (w1 : Work) (end1 : Option (Code × Nat)), (s.work.engine e).op o.id = some o →
    o.phase ≠ .ran →
    (∀ p : PreloadP, o.kind = .preload p → frontTileOp s.hub s.work e = some o →
      runPreload s.hub s.work e o p = (w1, end1) →
      exec (.legendMerge e o.id) s =
        .next { s with
          work := wholeStep s.work (2, e, o.id)
            (if end1 = none then w1.setEngine e (fun en => en.setOp o.id (fun x => { x with phase := .ran }))
             else endPreload s.hub w1 e o p end1) }) ∧
    (∀ (p : DrainP) (b : Option Nat), o.kind = .drain p b → frontTileOp s.hub s.work e = some o →
      runDrain s.hub s.work e o p b p.rows p.rows = (w1, end1) →
      exec (.legendMerge e o.id) s =
        .next { s with
          work := wholeStep s.work (2, e, o.id)
            (if end1 = none then w1.setEngine e (fun en => en.setOp o.id (fun x => { x with phase := .ran }))
             else endDrain s.hub w1 e o p b (end1.map (fun x => (x.1, x.2, none)))) }) ∧
    (∀ (p : EuP) (b : Option Nat) (hd : List (List Nat)) (cl : Bool) (f : Option Code), o.kind = .eu p b hd cl f →
      frontEu s.hub s.work e = some o →
      runEu s.hub s.work e o p hd (if p.aHandoff then hd.length else p.rows) 0 = (w1, end1) →
      exec (.legendMerge e o.id) s =
        .next { s with
          work := wholeStep s.work (2, e, o.id)
            (if end1 = none then w1.setEngine e (fun en => en.setOp o.id (fun x => { x with phase := .ran }))
             else endEu s.hub (freeEuWaits w1 e) e o p.tensorId end1) })) ∧
  (∀ (s : State) (entry : Nat),
    ((entry = 0 ∨ 2 ^ s.work.tables.ttLog2 ≤ entry ∨ s.work.tables.ttLog2 = 0) → exec (.useClose entry) s = .next s) ∧
    (∀ (b : List Byte) (pa : Nat), entry ≠ 0 → entry < 2 ^ s.work.tables.ttLog2 → s.work.tables.ttLog2 ≠ 0 →
      moduleAddr s.hub s.work true (entryAddr s.work.tables.ttBase entry) = .ok pa →
      (pieceHeld s.hub s.work pa = true →
        exec (.useClose entry) s = .next { s with work := holdReq s.work (lineOf pa) (.command (.useClose entry)) }) ∧
      (pieceHeld s.hub s.work pa = false → moduleRead s.hub s.work (entryAddr s.work.tables.ttBase entry) 256 = .ok b →
        (scaleCtrlBad (scaleCtrlOf (fld b 0x80 8)) = true →
          exec (.useClose entry) s = .next { s with work := s.work.reply 0x0304 [] }) ∧
        (∀ w1 : Work, scaleCtrlBad (scaleCtrlOf (fld b 0x80 8)) = false →
          rawStore s.hub s.work (entryAddr s.work.tables.ttBase entry) (setFld (closeEntry b).1 0xB8 8 0) = .ok w1 →
          ((closeEntry b).2 = false → exec (.useClose entry) s = .next { s with work := w1.reply 0 [] }) ∧
          ((closeEntry b).2 = true →
            ∃ r : LogSource, r.code = 0x0305 ∧
              exec (.useClose entry) s = .next { s with work := (emit s.hub w1 r).reply 0 [] })))))

/-! ### Transfers and synchronisation (07) -/

/-- BULK_LOAD_COMPLETE and BULK_STORE_COMPLETE (07 R185, R194, 10 R291 to R296): a transfer without bytes only completes. The
packets of a remote far block leave first; once every answer has come, a plain load whose far block can be read writes each
span in the SRAM of its engine, and a load through the codec decodes its frame into the near rows; the lines of a local far
block are taken into the edge cache unless NO_ALLOC is set. A store whose far block can be written writes its near block, or
the frame that the codec makes of it, and a lossy frame merges its counts. Then the transfer is complete. A write of it
that meets a protected piece holds the whole step (log 12).

ATOMIC_COMPLETE (07 R196, 12 R375): at an address of this module the 8 bytes take the new value of the operation, the
old value goes to D(DST), and the instruction completes; for another module the request leaves, and its answer completes
the instruction, with its old value in D(DST), or faults it.

The operations of 12 R375 on a value of at least one byte: each gives a value of that width; code 0 adds modulo 2^(8 ×
width), and code 2 gives the operand where the old value equals COMPARE and the old value elsewhere. -/
def Obligations.TransfersMoveTheirBytes : Prop :=
  (∀ (s : State) (e : Nat) (o : Op) (p : BulkP), (s.work.engine e).op o.id = some o → o.kind = .bulk p →
    working s.hub s.work e = true → mayTransfer (s.work.engine e) o = true →
    (p.rowBytes = 0 ∨ p.rows = 0 →
      (p.load = true →
        exec (.bulkLoadComplete e o.id) s =
          .next { s with work := wholeStep s.work (1, e, o.id) (completeOp s.hub s.work e o) }) ∧
      (p.load = false →
        exec (.bulkStoreComplete e o.id) s =
          .next { s with work := wholeStep s.work (1, e, o.id) (completeOp s.hub s.work e o) })) ∧
    (p.rowBytes ≠ 0 → p.rows ≠ 0 → p.load = true → p.waiting = [] → p.keep = none →
      (p.sent = false → (∃ x ∈ bulkSpans p, isRemote s.hub x.1 = true) →
        exec (.bulkLoadComplete e o.id) s =
          .next { s with
            work := wholeStep s.work (1, e, o.id)
              ((bulkSpans p).foldl (fun w x => sendBulk s.hub e o p w x.1 x.2.2 [])
                (setBulk s.work e o (fun p => { p with sent := true }))) }) ∧
      ((p.sent = true ∨ ∀ x ∈ bulkSpans p, isRemote s.hub x.1 = false) →
        loadFault s.hub s.work e p (bulkSpans p) = none →
        exec (.bulkLoadComplete e o.id) s =
          .next { s with
            work := wholeStep s.work (1, e, o.id)
              (completeOp s.hub
                ((bulkSpans p).foldl (fun w x => allocFar s.hub w e p x.1 x.2.2)
                  ((bulkSpans p).foldl (fun v x => v.sram x.2.1 (farBytes s.hub s.work e p x.1 x.2.2))
                    (keepFar s.hub s.work e ((bulkSpans p).map (fun x => x.1))))) e o) })) ∧
    (∀ (u : KeepUse) (hd : List Byte), p.rowBytes ≠ 0 → p.rows ≠ 0 → p.load = true → p.waiting = [] → p.keep = some u →
      p.fail = none → (isRemote s.hub p.far = false ∨ ∀ a ∈ [p.far, p.far + 64], ∃ x ∈ p.got, x.1 = a) →
      farRead s.hub s.work e p p.far 64 = .ok hd → headerRefused hd p.rowBytes p.rows = false →
      loadFault s.hub s.work e p (frameSpans p (some hd)) = none →
      exec (.bulkLoadComplete e o.id) s =
        .next { s with
          work := wholeStep s.work (1, e, o.id)
            (completeOp s.hub
              (((p.far, 0, 64) :: frameSpans p (some hd)).foldl (fun w x => allocFar s.hub w e p x.1 x.2.2)
                (writeNear
                  (keepFar s.hub s.work e (((p.far, 0, 64) :: frameSpans p (some hd)).map (fun x => x.1))) p
                  (decodeFrame hd ((frameSpans p (some hd)).flatMap (fun x => farBytes s.hub s.work e p x.1 x.2.2))
                    p.rowBytes p.rows))) e o) }) ∧
    (p.rowBytes ≠ 0 → p.rows ≠ 0 → p.load = false →
      (p.sent = false → (∃ x ∈ (storeSpans s.work o p).1, isRemote s.hub x.1 = true) →
        exec (.bulkStoreComplete e o.id) s =
          .next { s with
            work := wholeStep s.work (1, e, o.id)
              ((storeSpans s.work o p).1.foldl (fun w x => sendBulk s.hub e o p w x.1 x.2.length x.2)
                (setBulk s.work e o (fun p => { p with sent := true }))) }) ∧
      (p.waiting = [] → (p.sent = true ∨ ∀ x ∈ (storeSpans s.work o p).1, isRemote s.hub x.1 = false) →
        storeFault s.hub s.work e p (storeSpans s.work o p).1 = none →
        let w1 := (storeSpans s.work o p).1.foldl
          (fun w x => match farWrite s.hub w e p x.1 x.2 with
            | .ok v => v
            | .error _ => w)
          (keepFar s.hub s.work e ((storeSpans s.work o p).1.map (fun x => x.1)))
        ((storeSpans s.work o p).2 = none →
          exec (.bulkStoreComplete e o.id) s =
            .next { s with work := wholeStep s.work (1, e, o.id) (completeOp s.hub w1 e o) }) ∧
        (∀ (c : Counts) (u : KeepUse) (w2 : Work), (storeSpans s.work o p).2 = some c → p.keep = some u →
          mergeOp s.hub w1 e u.entry c = .ok w2 →
          exec (.bulkStoreComplete e o.id) s =
            .next { s with work := wholeStep s.work (1, e, o.id) (completeOp s.hub w2 e o) })))) ∧
  (∀ (s : State) (e : Nat) (o : Op) (p : AtomicP), (s.work.engine e).op o.id = some o → o.kind = .atomic p →
    working s.hub s.work e = true → mayTransfer (s.work.engine e) o = true →
    let done (w : Work) (old : Word) : Work :=
      completeOp s.hub (w.setStream e o.stream (fun st =>
        if p.dst = 0 then st else { st with d := st.d.set p.dst old })) e o
    (∀ (a x : Nat) (b : List Byte) (w1 : Work), targetOf s.hub p.addr = .self a → engineAddr s.hub s.work e true a = .ok x →
      physRead s.hub (keepPage s.hub s.work e a) x 8 = .ok b →
      physStore s.hub (keepPage s.hub s.work e a) x (leBytes 8 (atomicNew p.aop 8 (leNat b) p.src.toNat p.cmp.toNat)) =
        .ok w1 →
      exec (.atomicComplete e o.id) s =
        .next { s with work := wholeStep s.work (1, e, o.id) (done w1 (BitVec.ofNat 64 (leNat b))) }) ∧
    (∀ m a : Nat, targetOf s.hub p.addr = .remote m a →
      (∀ w1 : Work, p.answer = none → p.sent = false →
        sendRequest s.hub
          (s.work.setEngine e (fun en => en.setOp o.id (fun x => { x with kind := .atomic { p with sent := true } })))
          0xFFFF m 2 0x03 a 24 (atomicPayload p.aop 8 p.src p.cmp) (.atomicOp e o.id) = (w1, 0) →
        exec (.atomicComplete e o.id) s = .next { s with work := wholeStep s.work (1, e, o.id) w1 }) ∧
      (∀ v : Word, p.answer = some (0, v) →
        exec (.atomicComplete e o.id) s = .next { s with work := wholeStep s.work (1, e, o.id) (done s.work v) }) ∧
      (∀ (c : Code) (v : Word), p.answer = some (c, v) → c ≠ 0 →
        exec (.atomicComplete e o.id) s =
          .next { s with work := wholeStep s.work (1, e, o.id) (faultOp s.hub s.work e o c p.addr none 0) }))) ∧
  (∀ aop width old operand compare : Nat, 0 < width → old < 2 ^ (8 * width) →
    atomicNew aop width old operand compare < 2 ^ (8 * width) ∧
    atomicNew 0 width old operand compare = (old + operand) % 2 ^ (8 * width) ∧
    atomicNew 2 width old operand compare =
      (if old = compare % 2 ^ (8 * width) then operand % 2 ^ (8 * width) else old))

/-- SIGNAL (07 R198, R199): with INC = 0 it completes at issue (DESIGN CHOICE of the model's order, log 44); else it is
issued with release. Once everything before it is complete, a SIGNAL to an engine of this module arrives: the counter
rises by INC, saturating at 2^32 − 1 with TOKEN_SAT set, the engine leaves its self-park, waiting WAITs are served, and the
instruction completes; an engine that takes no token ends it with 0x020E. A SIGNAL to another module leaves, and its answer
completes or faults it. A SIGNAL packet raises the counter that it names and is answered 0, 0x020E where the engine takes
no token, and 0x0503 while the engine complex is not ready (12 R374, R376, R379).

WAIT (07 R200): with THRESHOLD = 0 it completes at issue; else it is issued with acquire and the WAITs that are met are
served. A WAIT that is met has its counter at its threshold or above, nothing before it in its queue keeps it from
beginning, and no earlier WAIT of the engine waits on its counter. With CONSUME the threshold is subtracted.

The timeout of a WAIT or a REDUCE ends it with 0x020F (07 R200, R204); the steps of a WAIT's timeout that were not counted
yet are steps of TOKEN_WAIT (10 R285). -/
def Obligations.SignalsRaiseCountersAndWaitsWait : Prop :=
  (∀ s : State,
    (∀ e q word : Nat, Finds s e q (opcodeIs 0x60) word →
      (bitsOf word 64 32 = 0 →
        exec (.signal e q) s =
          .next { s with work := (taken s e q).setStream e q (fun st => { st with isn := st.isn + 1, pc := st.pc + 16 }) }) ∧
      (bitsOf word 64 32 ≠ 0 →
        exec (.signal e q) s =
          .next { s with
            work := issueOp (taken s e q) e q word none (acquireOf word) true
              (.signal ⟨regN ((taken s e q).stream e q) word 16 % 2 ^ 17, bitsOf word 21 7, bitsOf word 28 6, bitsOf word 64 32,
                false, none⟩) })) ∧
    (∀ (e : Nat) (o : Op) (p : SignalP), (s.work.engine e).op o.id = some o → o.kind = .signal p →
      working s.hub s.work e = true → priorDone (s.work.engine e) o = true → isSelf s.hub p.module = true →
      (takesTokens s.hub s.work p.engine = true →
        exec (.signalArrival (.engineOp e o.id)) s =
          .next { s with
            work := completeOp s.hub
              (serveTokens s.hub
                (s.work.setEngine p.engine (fun en =>
                  { en with
                    tokens := en.tokens.set p.counter
                      (BitVec.ofNat 32 (min ((en.tokens.getD p.counter 0).toNat + p.inc) (2 ^ 32 - 1)))
                    tokenSat := en.tokenSat || decide (2 ^ 32 - 1 < (en.tokens.getD p.counter 0).toNat + p.inc)
                    selfParked := false }))
                p.engine) e o }) ∧
      (takesTokens s.hub s.work p.engine = false →
        exec (.signalArrival (.engineOp e o.id)) s = .next { s with work := faultOp s.hub s.work e o 0x020E 0 none 0 })) ∧
    (∀ (e : Nat) (o : Op) (p : SignalP), (s.work.engine e).op o.id = some o → o.kind = .signal p →
      working s.hub s.work e = true → priorDone (s.work.engine e) o = true → isSelf s.hub p.module = false →
      s.hub.ident.numberValid = true →
      (∀ w1 : Work, p.answer = none → p.sent = false →
        sendRequest s.hub
          (s.work.setEngine e (fun en => en.setOp o.id (fun x => { x with kind := .signal { p with sent := true } })))
          0xFFFF p.module 1 0x04 0 8 (signalPayload p) (.signalOp e o.id) = (w1, 0) →
        exec (.signalArrival (.engineOp e o.id)) s = .next { s with work := w1 }) ∧
      (p.answer = some 0 →
        exec (.signalArrival (.engineOp e o.id)) s = .next { s with work := completeOp s.hub s.work e o }) ∧
      (∀ c : Code, p.answer = some c → c ≠ 0 →
        exec (.signalArrival (.engineOp e o.id)) s = .next { s with work := faultOp s.hub s.work e o c 0 none 0 })) ∧
    (∀ (k : Nat) (p : Packet), inboxAt s.work k (fun x => x.op == 0x04) = some p →
      (targetDown s.hub = true →
        exec (.signalArrival (.packet k)) s = .next { s with work := answer s.hub s.work k p 0x0503 [] }) ∧
      (targetDown s.hub = false → takesTokens s.hub s.work (fld p.payload 0 1) = false →
        exec (.signalArrival (.packet k)) s = .next { s with work := answer s.hub s.work k p 0x020E [] }) ∧
      (targetDown s.hub = false → takesTokens s.hub s.work (fld p.payload 0 1) = true →
        exec (.signalArrival (.packet k)) s =
          .next { s with
            work := answer s.hub
              (serveTokens s.hub
                (s.work.setEngine (fld p.payload 0 1) (fun en =>
                  addToken32 en (fld p.payload 1 1 % 64) (fld p.payload 4 4))) (fld p.payload 0 1)) k p 0 [] }))) ∧
  (∀ (s : State) (e : Nat),
    (∀ q word : Nat, Finds s e q (opcodeIs 0x61) word →
      (bitsOf word 64 32 = 0 →
        exec (.wait e q) s =
          .next { s with work := (taken s e q).setStream e q (fun st => { st with isn := st.isn + 1, pc := st.pc + 16 }) }) ∧
      (bitsOf word 64 32 ≠ 0 →
        exec (.wait e q) s =
          .next { s with
            work := serveTokens s.hub
              (issueOp (taken s e q) e q word none true (releaseOf word)
                (.wait ⟨bitsOf word 28 6, bitsOf word 64 32, bitOf word 34,
                  BitVec.ofNat 64 (regN ((taken s e q).stream e q) word 16), 0⟩)) e })) ∧
    (∀ (en : Engine) (o : Op) (p : WaitP), metWait en = some (o, p) →
      o ∈ en.ops ∧ o.kind = .wait p ∧ p.threshold ≤ (en.tokens.getD p.counter 0).toNat ∧ queueMayStart en o = true ∧
      (∀ x ∈ en.ops, ∀ y : WaitP, x.kind = .wait y → y.counter = p.counter → o.id ≤ x.id)) ∧
    (∀ (en : Engine) (o : Op) (p : WaitP),
      (meetWait en o p).tokens =
        if p.consume then en.tokens.modify p.counter (fun t => t - BitVec.ofNat 32 p.threshold) else en.tokens) ∧
    (∀ o : Op, (s.work.engine e).op o.id = some o → working s.hub s.work e = true →
      (∀ p : WaitP, o.kind = .wait p → p.timeout ≠ 0 → (s.work.engine e).stopped = false →
        exec (.waitTimeout e o.id) s =
          .next { s with
            work := faultOp s.hub
              (s.work.setStream e o.stream (fun st =>
                { st with
                  tokenWait := st.tokenWait + (p.timeout - p.spent)
                  runTokenWait := st.runTokenWait + (p.timeout - p.spent) })) e o 0x020F 0 none 0 }) ∧
      (∀ p : ReduceP, o.kind = .reduce p → p.timeout ≠ 0 →
        exec (.waitTimeout e o.id) s = .next { s with work := faultReduce s.hub s.work e o p 0x020F 0 })))

/-- REDUCE (07 R202 to R204): an accepted REDUCE is issued; one that finds a notice of its reduction's end faults at once with
its code.

REDUCE_COMPLETE (07 R203, R204, 03 R84, R87): a member that has passed the last level writes the root; a member whose
parent has reached the same node with the same table, counts and format gives it its value, added in the partials format,
and completes; two members whose tables, counts or formats differ end the reduction with 0x0210 for every engine of both
tables; and while its parent is not there, or it is the parent of the node itself, nothing changes. A write of it that
meets a protected piece holds the whole step (log 12). -/
def Obligations.ReduceClimbsTheMemberTree : Prop :=
  ∀ (s : State) (e : Nat),
    (∀ (q word : Nat) (p : ReduceP) (conv : Option ConvIssue), Finds s e q (opcodeIs 0x62) word →
      checkReduce s.hub (taken s e q) e q word = .ok (p, conv) →
      let w1 := issueOp (taken s e q) e q word conv (acquireOf word) (releaseOf word) (.reduce p)
      (((taken s e q).engine e).notices.find? (fun x => x.1 == p.reduceId) = none →
        exec (.reduce e q) s = .next { s with work := w1 }) ∧
      (∀ (o : Op) (n : Nat × Code), ((taken s e q).engine e).notices.find? (fun x => x.1 == p.reduceId) = some n →
        (w1.engine e).op ((taken s e q).engine e).nextId = some o →
        exec (.reduce e q) s =
          .next { s with
            work := faultOp s.hub
              (w1.setEngine e (fun en => { en with notices := alDel en.notices p.reduceId })) e o n.2 0 none p.tensorId })) ∧
    (∀ (o : Op) (p : ReduceP), (s.work.engine e).op o.id = some o → o.kind = .reduce p → working s.hub s.work e = true →
      queueMayStart (s.work.engine e) o = true →
      (p.members ≤ 2 ^ nextLevel p →
        exec (.reduceComplete e o.id) s =
          .next { s with work := wholeStep s.work (1, e, o.id) (writeRoot s.hub s.work e o p) }) ∧
      (2 ^ nextLevel p < p.members →
        (p.member % 2 ^ (nextLevel p + 1) = 0 ∨
          parentReduce s.hub s.work (p.table.getD (p.member - 2 ^ nextLevel p) 0) p.reduceId = none) →
        exec (.reduceComplete e o.id) s = .next s) ∧
      (∀ x : LiveReduce, 2 ^ nextLevel p < p.members → p.member % 2 ^ (nextLevel p + 1) ≠ 0 →
        parentReduce s.hub s.work (p.table.getD (p.member - 2 ^ nextLevel p) 0) p.reduceId = some x →
        (sameHeader x.par p = true → nextLevel x.par = nextLevel p →
          exec (.reduceComplete e o.id) s =
            .next { s with
              work := wholeStep s.work (1, e, o.id)
                (completeOp s.hub
                  (s.work.setEngine x.engine (fun en => en.setOp x.op.id (fun y =>
                    { y with
                      kind := .reduce
                        { x.par with
                          value := some (joinValues ((partialFmt p.partialFmt).getD .a48) (reduceValue s.work x.par)
                            (reduceValue s.work p))
                          level := nextLevel p + 1 } }))) e o) }) ∧
        (sameHeader x.par p = false →
          exec (.reduceComplete e o.id) s =
            .next { s with
              work := wholeStep s.work (1, e, o.id)
                (endReduction s.hub s.work p.reduceId 0x0210 (x.par.table ++ p.table).eraseDups []) })))

/-! ### Engine faults, resets and registers (07, 08, 11, 15) -/

/-- MEMORY_PARITY_ERROR (11 R330, R331, R332, 04 R122, R123, 05 R126): a started weight load that consumes a bad byte ends
with 0x0402 (a parity error) or 0x0403 (a read error) and the byte's address, the shadow plane without a set; a started
array operation that adds to a bad tile element ends with its tile, row and column; either is counted as a fault of the
engine if it is a parity fault of its memories. A sequencer that reads its ring faults its stream. A core is answered the
code, and a transaction that fetches the line for it, or acts at the home, ends without a grant. A dirty line is only marked, since nothing consumes it before it leaves its cache. Two retries are counted for a read error
that reached its consumer. -/
def Obligations.MemoryErrorReachesItsConsumer : Prop :=
  ∀ (s : State) (e : Nat) (o : Op) (addr : Nat) (re : Bool),
    ((s.work.engine e).op o.id = some o → working s.hub s.work e = true → o.phase = .started →
      (∀ (n : Nat) (p : WloadP) (set : Option WeightSet), o.kind = .wload p set →
        exec (.memoryParityError (.engineOp e o.id n) addr re) s =
          .next { s with
            work := noteRetries re s.work
              (countRas (faultLoad s.hub s.work e o (if re then 0x0403 else 0x0402) addr) e .arrayWord
                (re || decide (addr < sramBase 0))) }) ∧
      (∀ (p : ArrayP) (c : Option Nat) (set : WeightSet) (acts : List (List Nat × List Nat)) (t row col : Nat),
        o.kind = .array p c (some set) acts t → t ≤ row → row < p.m → col < set.nCols →
        exec (.memoryParityError (.tileElem e o.id row col) addr re) s =
          .next { s with
            work := noteRetries re s.work
              (countRas
                (faultArray s.hub s.work e o
                  (min (planesFrom p set t) (arrayNanStep (stepsPerToken p set) t row col + 1))
                  (if re then 0x0403 else 0x0402) 0 (some (p.tile, row, col))) e .tile re) })) ∧
    (∀ q : Nat, working s.hub s.work e = true → (s.work.stream e q).desc = none → (s.work.stream e q).enable = true →
      (s.work.stream e q).fault = false → (s.work.stream e q).unsealed = false →
      exec (.memoryParityError (.stream e q) addr re) s =
        .next { s with
          work := noteRetries re s.work (ringFault s.hub s.work e q (if re then 0x0403 else 0x0402) addr) }) ∧
    (∀ n : Nat, s.hub.ident.powered = true →
      let w1 := (emitMemError s.hub (badLeaves s.hub s.work n (if re then 0x0403 else 0x0402) addr)
        (if re then 0x0403 else 0x0402) (unitOf 6 n) addr).reply (if re then 0x0403 else 0x0402) []
      (activeTxn w1.coh (lineOf addr) = none →
        exec (.memoryParityError (.core n) addr re) s = .next { s with work := noteRetries re s.work w1 }) ∧
      (∀ t, activeTxn w1.coh (lineOf addr) = some t → (t.agent = n ∨ isUncached t.kind = true) →
        exec (.memoryParityError (.core n) addr re) s =
          .next { s with
            work := noteRetries re s.work
              (releaseHome s.hub
                (advanceLine s.hub
                  (dirNote s.hub
                    (grantLine (freeTracker (returnSupply w1 t) t) none (if re then 0x0403 else 0x0402)) (lineOf addr))
                  (lineOf addr)) (lineHome (lineOf addr))) })) ∧
    (∀ agent : Nat,
      exec (.memoryParityError (.dirtyLine agent) addr re) s =
        .next { s with work := noteRetries re s.work (markLine s.work agent (lineOf addr)) })

/-- Self-park and single-engine reset (15 R484, 07 R214): an idle engine parks; a write of 1 to RESET stops the engine's
operations where they are (how much of their writes was accepted is free, log 57), ends the reductions that name the engine,
closes a context save that was running with part of its area written, writes back and invalidates its edge cache, writes a
completion record with 0x0211 for every descriptor held, and clears the engine; a write of 0 does nothing; RESETTING returns
to 0 at the end.

What a single-engine reset leaves in its engine (07 R214 steps 2, 4 and 5): no operation; every stream disabled without
a descriptor or fault, its D registers 0, its BASE, LOG2_SLOTS and NEXT_SEQ kept; token counters 0 and TOKEN_SAT clear; both
tiles +0, free and not faulted; no weight set; the generator of 07 R176; the array's counters, TRAP_CTRL, the keep windows
and the tensor table kept. -/
def Obligations.EngineParksAndResets : Prop :=
  (∀ (s : State) (e : Nat),
    (working s.hub s.work e = true → engineIdle (s.work.engine e) = true →
      exec (.engineSelfPark e) s = .next { s with work := s.work.setEngine e (fun en => { en with selfParked := true }) }) ∧
    (∀ v : Word, v.toNat % 2 = 0 → exec (.singleEngineReset e v) s = .next s) ∧
    (∀ v : Word, e < 72 → v.toNat % 2 = 1 → (s.work.engine e).resetting = false → s.hub.ident.powered = true →
      s.hub.ident.complexReady = true →
      ∃ w : Work,
        w = abandonReduces s.hub e ((s.work.engine e).ops.filterMap reduceOf)
          ((stopOps s.hub s.work e).setEngine e (fun en => { en with resetting := true, ops := [] })) ∧
        exec (.singleEngineReset e v) s =
          .next { s with
            work := (writeResetRecords s.hub e (s.work.engine e).streams
              (evictAll s.hub
                (match (s.work.engine e).saving with
                 | some j => cutSave s.hub w e j (fun _ => false)
                 | none => w)
                (fun a _ => a == agentOf e))).setEngine e (clearEngine e) }) ∧
    exec (.singleEngineResetDone e) s =
      .next { s with work := s.work.setEngine e (fun en => { en with resetting := false }) }) ∧
  (∀ (e : Nat) (en : Engine),
    (clearEngine e en).ops = [] ∧ (clearEngine e en).resetting = true ∧ (clearEngine e en).stopped = false ∧
    (clearEngine e en).saving = none ∧
    (clearEngine e en).tokens = List.replicate 64 0 ∧ (clearEngine e en).tokenSat = false ∧
    (clearEngine e en).gen = ⟨0, BitVec.ofNat 12 e, 0, []⟩ ∧
    (clearEngine e en).arr = { en.arr with active := none, shadow := none } ∧
    (clearEngine e en).keep = en.keep ∧ (clearEngine e en).ttLog2 = en.ttLog2 ∧ (clearEngine e en).ttBase = en.ttBase ∧
    (clearEngine e en).trap.enable = en.trap.enable ∧ (clearEngine e en).trap.record = en.trap.record ∧
    (clearEngine e en).trap.fired = false ∧
    (∀ t m j, tileGet ((clearEngine e en).tile t) m j = 0 ∧ ((clearEngine e en).tile t).holder = .none ∧
      ((clearEngine e en).tile t).faulted = false) ∧
    (clearEngine e en).streams.length = en.streams.length ∧
    (∀ q, ((clearEngine e en).stream q).enable = false ∧ ((clearEngine e en).stream q).desc = none ∧
      ((clearEngine e en).stream q).fault = false ∧ ((clearEngine e en).stream q).d = List.replicate 32 0 ∧
      ((clearEngine e en).stream q).base = (en.stream q).base ∧ ((clearEngine e en).stream q).log2 = (en.stream q).log2 ∧
      ((clearEngine e en).stream q).nextSeq = (en.stream q).nextSeq))

/-- QCFG_WRITE (07 R172, R211): with ENABLE = 0 the write sets LOG2_SLOTS and BASE; ENABLE becomes 1 only for a ring of 2^4 to
2^16 slots in LPDDR5X; while ENABLE is 1 neither changes, and a write of 0 disables the queue.

STREAM_FAULT_CLEAR, TRAP_REARM, XLATE_INVAL and XLATE_INVAL_DONE (07 R206, R212, 08 R236, 11 R360): a 1 written to FAULT
of a faulted stream ends the fault and the stream reads its ring again, at once where the engine works and otherwise when it
goes on, if it is enabled; of a stream without a fault, and a 0, it does nothing; a 1 written to FIRED clears it and the
count; a 1 written to INVAL shows PENDING, and at its end no translation is kept; a 0 written to either does nothing. -/
def Obligations.EngineRegistersActWhenWritten : Prop :=
  (∀ (s : State) (e q : Nat) (v : Word) (st : Stream), e < s.work.engines.length →
    (s.work.engine e).streams[q]? = some st →
    ∃ t : State, exec (.qcfgWrite e q v) s = .next t ∧ t.hub = s.hub ∧ t.work.mem = s.work.mem ∧ t.work.coh = s.work.coh ∧
      (v.toNat / 32 % 2 = 0 → (t.work.stream e q).enable = false) ∧
      (st.enable = true → (t.work.stream e q).base = st.base ∧ (t.work.stream e q).log2 = st.log2 ∧
        (v.toNat / 32 % 2 = 1 → t.work.stream e q = st)) ∧
      (st.enable = false →
        (t.work.stream e q).log2 = v.toNat % 32 ∧ (t.work.stream e q).base = v.toNat / 4096 % 2 ^ 35 * 4096 ∧
        ((t.work.stream e q).enable = true ↔
          v.toNat / 32 % 2 = 1 ∧ 4 ≤ v.toNat % 32 ∧ v.toNat % 32 ≤ 16 ∧
            v.toNat / 4096 % 2 ^ 35 * 4096 + 2 ^ (v.toNat % 32) * 64 ≤ lpddrEnd s.hub)) ∧
      (t.work.stream e q).nextSeq = st.nextSeq ∧ (t.work.stream e q).d = st.d) ∧
  (∀ (s : State) (e q : Nat) (v : Word),
    ((s.work.stream e q).fault = true → v.toNat / 16 % 2 = 1 →
      working s.hub (s.work.setStream e q (fun st => { st with fault := false })) e = true →
      exec (.streamFaultClear e q v) s =
        .next { s with work := readQueue s.hub (s.work.setStream e q (fun st => { st with fault := false })) e q }) ∧
    ((s.work.stream e q).fault = true → v.toNat / 16 % 2 = 1 →
      working s.hub (s.work.setStream e q (fun st => { st with fault := false })) e = false →
      exec (.streamFaultClear e q v) s =
        .next { s with
          work := (s.work.setStream e q (fun st => { st with fault := false })).setStream e q (fun st =>
            { st with ringWaits := st.enable }) }) ∧
    (((s.work.stream e q).fault = false ∨ v.toNat / 16 % 2 = 0) → exec (.streamFaultClear e q v) s = .next s) ∧
    (v.toNat % 2 = 1 →
      exec (.trapRearm e v) s =
        .next { s with
          work := s.work.setEngine e (fun en => { en with trap := { en.trap with fired := false, count := 0 } }) } ∧
      exec (.xlateInval e v) s =
        .next { s with work := s.work.setEngine e (fun en => { en with xl := { en.xl with pending := true } }) }) ∧
    (v.toNat % 2 = 0 → exec (.trapRearm e v) s = .next s ∧ exec (.xlateInval e v) s = .next s) ∧
    ((s.work.engine e).xl.pending = true →
      exec (.xlateInvalDone e) s =
        .next { s with
          work := s.work.setEngine e (fun en =>
            if en.xl.pending then { en with xl := { en.xl with pending := false, kept := [] } } else en) }) ∧
    ((s.work.engine e).xl.pending = false →
      ∃ t : State, exec (.xlateInvalDone e) s = .next t ∧ t.work.engine e = s.work.engine e))

/-- REGISTER_WRITE and READ_REG (01 R24, R28, R29, 07 R213, 08 R240, 09 R272, 10 R311, 13 R427, 17 R525, 19 R543): a store of
a host cluster that runs and that is not a naturally aligned 64-bit store to a mapped register is refused with 0x0401 and
reaches nothing; a store to a token counter sets it and serves the WAITs; a store to TRAP_CTRL takes its two bits, to a keep
window its fields, and to NEXT_SEQ of a disabled queue that number; a store to a log, update or copier register has that
register's own effect, which for an update register other than GO_REFUSED is none while PHASE is not 0; with its reference
lost a cluster stores nothing; over the sideband the identity and safety blocks are read, and any other offset answers
0x0401. -/
def Obligations.RegistersAreWrittenAndRead : Prop :=
  ∀ (s : State) (o : Nat) (v : Word),
    (s.hub.safety.refFail = true → ∀ width : Nat, exec (.registerWrite o width v) s = .next s) ∧
    (s.hub.safety.refFail = false →
      (∀ width : Nat, (width ≠ 8 ∨ o % 8 ≠ 0 ∨ readRegister s.hub s.work o = none) →
        exec (.registerWrite o width v) s = .next { s with work := s.work.reply 0x0401 [] }) ∧
      (∀ e : Nat, e < 72 →
        (∀ c : Nat, c < 64 → o = 0x2000000 + e * 0x1000 + 0x200 + 8 * c →
          exec (.registerWrite o 8 v) s =
            .next { s with
              work := (serveTokens s.hub
                (s.work.setEngine e (fun en => { en with tokens := en.tokens.set c (BitVec.ofNat 32 v.toNat) })) e).reply 0
                  [] }) ∧
        (o = 0x2000000 + e * 0x1000 + 0x508 →
          exec (.registerWrite o 8 v) s =
            .next { s with
              work := (s.work.setEngine e (fun en =>
                { en with trap := { en.trap with enable := v.getLsbD 0, record := v.getLsbD 1 } })).reply 0 [] }) ∧
        (∀ k f : Nat, k < 2 → f < 3 → o = 0x2000000 + e * 0x1000 + 0x640 + 0x18 * k + 8 * f →
          exec (.registerWrite o 8 v) s =
            .next { s with
              work := (s.work.setEngine e (fun en => { en with keep := en.keep.modify k (fun x => storeKeep x (8 * f) v) })).reply
                0 [] }) ∧
        (∀ q : Nat, q < 4 → o = 0x2000000 + e * 0x1000 + 0x048 + 0x40 * q →
          exec (.registerWrite o 8 v) s =
            .next { s with
              work := (s.work.setStream e q (fun st =>
                if st.enable then st else { st with nextSeq := BitVec.ofNat 32 v.toNat })).reply 0 [] })) ∧
      (o < 0x1000 → o % 8 = 0 → (readRegister s.hub s.work o).isSome = true →
        exec (.registerWrite o 8 v) s =
          .next { s with work := { s.work with logs := storeLogReg s.work.logs o v }.reply 0 [] }) ∧
      (∀ x : Nat, x < 0x8000 → x % 8 = 0 → o = 0x5000000 + x → (readRegister s.hub s.work o).isSome = true →
        exec (.registerWrite o 8 v) s =
          .next { s with work := { s.work with upd := storeUpdateReg s.work.upd x v }.reply 0 [] } ∧
        (s.work.upd.phase ≠ 0 → x ≠ 0x048 → storeUpdateReg s.work.upd x v = s.work.upd)) ∧
      (∀ x : Nat, 0x8000 ≤ x → x < 0x100000 → x % 8 = 0 → o = 0x5000000 + x →
        (readRegister s.hub s.work o).isSome = true →
        exec (.registerWrite o 8 v) s =
          .next { s with work := { s.work with copier := storeCopierReg s.work.copier x v }.reply 0 [] })) ∧
    (i2cAnswers s.hub = true →
      (∀ x : Nat, (o < 0x1000 ∨ 0x3000000 ≤ o ∧ o < 0x3010000) → readRegister s.hub s.work o = some x →
        exec (.readReg o) s =
          .next { s with
            work := { s.work with replies := { s.work.replies with i2cStatus := 0, i2cData := BitVec.ofNat 64 x } } }) ∧
      (¬(o < 0x1000 ∨ 0x3000000 ≤ o ∧ o < 0x3010000) →
        exec (.readReg o) s =
          .next { s with work := { s.work with replies := { s.work.replies with i2cStatus := 0x0401, i2cData := 0 } } }))

/-! ### Update (09) -/

/-- GO (09 R264 to R266, R274, 13 R412): a GO while PHASE is not 0, while the copier opens an epoch, after a bad restore or a
failed verify, or with STEP_DESC outside LPDDR5X, only sets GO_REFUSED; a store that also aborts is a GO of the PHASE before it.
Any other GO reads the descriptor: one that cannot be read ends with OUTCOME 5 and its code (its number is free), and one whose
record does not lie in LPDDR5X with 0x0203; else COMMIT of the step's record slot is cleared. A step without a vote group whose
entries are all clean goes on to the units (PHASE 3) with the groups that the pre-check read, one with a dirty entry ends with
OUTCOME 2, and one that fails its pre-check ends with OUTCOME 5 and the code. A step with a vote group that passes its pre-check
waits in PHASE 2 and posts its flag, which is clean when its entries were; where no outcome has reached it before (log 20), it
is then at that vote. One that fails posts a dirty flag and ends with OUTCOME 5.

The end of a step (09 R266 step 7, R272): PHASE is 0 and the registers show the step's number, its outcome and its
status, whatever the record and the SIGNAL met. -/
def Obligations.StepsRunTheirPreCheckAndEnd : Prop :=
  (∀ (s : State) (v : Word), updReady s.hub = true → v.toNat % 2 = 1 →
    (v.toNat % 4 = 3 → s.work.upd.phase ≠ 2 → exec (.go v) s = exec (.go 1) s) ∧
    (v.toNat % 4 = 3 → s.work.upd.phase = 2 →
      ∃ t : State, exec (.updAbort 2) s = .next t ∧
        exec (.go v) s = .next { t with work := { t.work with upd := { t.work.upd with goRefused := true } } }) ∧
    (v.toNat % 4 = 1 →
      (s.work.upd.phase ≠ 0 ∨ s.work.copier.phase = 1 ∨ s.work.copier.restoreBad = true ∨ s.work.copier.verifyFail = true ∨
        inLpddr s.hub s.work.upd.stepDesc 64 = false) →
      exec (.go v) s = .next { s with work := { s.work with upd := { s.work.upd with goRefused := true } } }) ∧
    (v.toNat % 4 = 1 → s.work.upd.phase = 0 → s.work.copier.phase ≠ 1 → s.work.copier.restoreBad = false →
      s.work.copier.verifyFail = false → inLpddr s.hub s.work.upd.stepDesc 64 = true →
      (∀ (c : Code) (a : Nat), moduleRead s.hub s.work s.work.upd.stepDesc 64 = .error (c, a) →
        exec (.go v) s =
          .next { s with
            work := endStep s.hub (noteReadError s.hub s.work.tick c (unitOf 0 0) s.work.upd.stepDesc)
              (Config.freeWord s.work.freeIx) 5 c }) ∧
      (∀ (b : List Byte) (d : StepDesc) (w1 : Work), moduleRead s.hub s.work s.work.upd.stepDesc 64 = .ok b →
        d = stepDescOf b → w1 = enterPhase s.hub (s.work.setUpd (fun u => { u with accepted := d.step })) 1 →
        ((d.recAddr % 128 ≠ 0 ∨ inLpddr s.hub d.recAddr 128 = false) →
          exec (.go v) s = .next { s with work := endStep s.hub w1 d.step 5 0x0203 }) ∧
        (∀ (w2 : Work) (bank : Nat), d.recAddr % 128 = 0 → inLpddr s.hub d.recAddr 128 = true →
          moduleStore s.hub w1 (recordSlot d + 0x38) (leBytes 8 0) = .ok w2 → currentBank s.hub w2 d.recAddr = .ok bank →
          (d.voteGroup = noVote →
            (∀ plan : List (UGroup × List Nat × List Val), preCheck s.hub w2 d bank false = .ok (0, plan) →
              exec (.go v) s =
                .next { s with
                  work := beginUnits s.hub (w2.setUpd (fun u => { u with run := some ⟨d, bank, plan, true, 0, 0, 0⟩ })) }) ∧
            (∀ (f : Nat) (plan : List (UGroup × List Nat × List Val)), f ≠ 0 →
              preCheck s.hub w2 d bank false = .ok (f, plan) →
              exec (.go v) s =
                .next { s with
                  work := finishStep s.hub (w2.setUpd (fun u => { u with run := some ⟨d, bank, plan, false, f, 0, 0⟩ }))
                    ⟨d, bank, plan, false, f, 0, 0⟩ 2 0 0 0 0 }) ∧
            (∀ (c : Code) (a : Nat), preCheck s.hub w2 d bank false = .error (c, a) →
              exec (.go v) s =
                .next { s with
                  work := finishStep s.hub (noteReadError s.hub w2 c (unitOf 0 0) a) ⟨d, bank, [], false, 0, 0, 0⟩ 5 c 0 0
                    0 })) ∧
          (d.voteGroup ≠ noVote →
            (∀ (c : Code) (a : Nat), voteGroupOf s.hub w2 d = .error (c, a) →
              exec (.go v) s =
                .next { s with
                  work := finishStep s.hub (noteReadError s.hub w2 c (unitOf 0 0) a) ⟨d, bank, [], false, 0, 0, 0⟩ 5 c 0 0
                    0 }) ∧
            (∀ (ix master : Nat) (w0 : Work), voteGroupOf s.hub w2 d = .ok (ix, master) →
              w0 = (if ix = 0 ∧ w2.upd.lastOutcome ≠ 0 ∧ w2.upd.lastStep = d.step then
                w2.setUpd (fun u => { u with decided := u.decided.filter (fun x => x != (d.voteGroup, d.step)) }) else w2) →
              (∀ (f : Nat) (plan : List (UGroup × List Nat × List Val)),
                preCheck s.hub w2 d bank (ix == 0) = .ok (f, plan) →
                w2.upd.early.find? (fun x => x.1 == d.step) = none →
                ∃ r : UpdRun, r = ⟨d, bank, plan, f == 0, f, ix, master⟩ ∧
                  exec (.go v) s =
                    .next { s with
                      work := postFlag s.hub
                        (enterPhase s.hub
                          (w0.setUpd (fun u =>
                            { u with run := some r, early := u.early.filter (fun x => x.1 != d.step) })) 2) r (f == 0) }) ∧
              (∀ (c : Code) (a : Nat), preCheck s.hub w2 d bank (ix == 0) = .error (c, a) →
                ∃ r : UpdRun, r = ⟨d, bank, [], false, 0, ix, master⟩ ∧
                  exec (.go v) s =
                    .next { s with
                      work := finishStep s.hub (noteReadError s.hub (postFlag s.hub w0 r false) c (unitOf 0 0) a) r 5 c 0 0
                        0 }))))))) ∧
  (∀ (h : Hub) (w : Work) (r : UpdRun) (outcome : Nat) (status : Code) (el na fr : Nat),
    (finishStep h w r outcome status el na fr).upd.phase = 0 ∧
    (finishStep h w r outcome status el na fr).upd.lastOutcome = outcome ∧
    (finishStep h w r outcome status el na fr).upd.lastStatus = status ∧
    (finishStep h w r outcome status el na fr).upd.lastStep = r.desc.step ∧
    (finishStep h w r outcome status el na fr).upd.run = none)

/-- UPD_ABORT and VOTE_TIMEOUT (09 R267, R274): an abort of a step that waits for its vote ends it with OUTCOME 6, and a
master that aborts decides nothing more for it; in any other PHASE an abort does nothing; the time-out of a vote at its master
decides OUTCOME 4.

CLEAN_FLAG at the master of a vote (09 R267, 12 R385): a flag for a step already decided is disregarded; the first flag of a
step takes the membership of that moment, and is disregarded where the group cannot be read; a dirty flag decides OUTCOME 3 at
once; a clean flag is noted for its member, and the last one decides OUTCOME 1.

VOTE_OUTCOME and UPDATE_UNITS_DONE (09 R266 to R268): a waiting member writes the step number to its group's slot and
goes to its units on OUTCOME 1, ends with OUTCOME 4 on a time-out, and otherwise ends with OUTCOME 2 when its own entries
were dirty and 3 when another member's were; an outcome for a step that ended is disregarded and one for a step to come is kept
(log 20). When the units have written everything without a fault, the step commits; on a fault it ends with OUTCOME 5, and a
part of what the units write is written; a write of theirs that meets a protected piece waits for the piece (log 12). -/
def Obligations.VotesDecideTheStep : Prop :=
  (∀ s : State, updReady s.hub = true → s.work.upd.phase ≠ 2 → ∀ v : Word, v.toNat % 4 = 2 →
    exec (.updAbort v) s = .next s) ∧
  (∀ (s : State) (r : UpdRun), s.work.upd.run = some r → s.work.upd.phase = 2 →
    (∀ v : Word, updReady s.hub = true → v.toNat % 4 = 2 →
      exec (.updAbort v) s =
        .next { s with
          work := finishStep s.hub
            (if r.index = 0 then
              s.work.setUpd (fun u =>
                { u with
                  decided := (r.desc.voteGroup, r.desc.step) :: u.decided
                  boxes := u.boxes.filter (fun b => !(b.group == r.desc.voteGroup && b.step == r.desc.step)) })
             else s.work) r 6 0 0 0 0 }) ∧
    (r.index = 0 → s.hub.ident.powered = true →
      exec .voteTimeout s = .next { s with work := decideVote s.hub s.work r.desc.voteGroup r.desc.step 4 })) ∧
  (∀ (s : State) (group member : Nat) (step : Word) (w : Work), targetDown s.hub = false → s.hub.ident.powered = true →
    w = traceVote s.hub s.work →
    (s.work.upd.decided.contains (group, step) = true →
      ∀ clean, exec (.cleanFlag group member step clean) s = .next { s with work := w }) ∧
    (s.work.upd.decided.contains (group, step) = false →
      (openBox s.hub w group step = none →
        ∀ clean, exec (.cleanFlag group member step clean) s = .next { s with work := w }) ∧
      (∀ (w1 : Work) (b : VoteBox), openBox s.hub w group step = some (w1, b) →
        exec (.cleanFlag group member step false) s = .next { s with work := decideVote s.hub w1 group step 3 } ∧
        (∀ w2 : Work,
          w2 = w1.setUpd (fun u =>
            { u with
              boxes := u.boxes.map (fun x =>
                if x.group == group && x.step == step then { x with flags := addOnce b.flags member } else x) }) →
          ((addOnce b.flags member).length < b.members.length →
            exec (.cleanFlag group member step true) s = .next { s with work := w2 }) ∧
          (b.members.length ≤ (addOnce b.flags member).length →
            exec (.cleanFlag group member step true) s = .next { s with work := decideVote s.hub w2 group step 1 }))))) ∧
  (∀ (s : State) (o : Nat) (step : Word) (w : Work), (o = 1 ∨ o = 3 ∨ o = 4) → s.hub.ident.powered = true →
    targetDown s.hub = false → w = traceVote s.hub s.work →
    (∀ r : UpdRun, s.work.upd.run = some r → s.work.upd.phase = 2 → r.desc.step = step →
      ∃ w1 : Work, w1 = physPut s.hub w (gazAddr w r.desc.voteGroup + 0x40) (leBytes 8 step.toNat) ∧
        exec (.voteOutcome step o) s =
          .next { s with
            work :=
              if o = 1 then beginUnits s.hub w1
              else if o = 4 then finishStep s.hub w1 r 4 0 0 0 0
              else finishStep s.hub w1 r (if r.clean then 3 else 2) 0 0 0 0 }) ∧
    ((∀ r : UpdRun, s.work.upd.run = some r → s.work.upd.phase ≠ 2 ∨ r.desc.step ≠ step) →
      (s.work.upd.lastStep = step → (s.work.upd.run.isSome = true ∨ s.work.upd.lastOutcome ≠ 0) →
        exec (.voteOutcome step o) s = .next { s with work := w }) ∧
      ((s.work.upd.lastStep ≠ step ∨ (s.work.upd.run = none ∧ s.work.upd.lastOutcome = 0)) →
        exec (.voteOutcome step o) s =
          .next { s with work := w.setUpd (fun u => { u with early := (step, o) :: u.early }) }))) ∧
  (∀ (s : State) (r : UpdRun), s.work.upd.run = some r → s.work.upd.phase = 3 → updReady s.hub = true →
    ((runPass s.hub s.work (ctxOf r .whole none) r.plan).fault = none →
      exec .updateUnitsDone s =
        .next { s with
          work := wholeStep s.work unitsStep
            (commitStep s.hub r (runPass s.hub s.work (ctxOf r .whole none) r.plan) (r.plan.map (fun x => x.1))) }) ∧
    (∀ (c : Code) (a : Nat), (runPass s.hub s.work (ctxOf r .whole none) r.plan).fault = some (c, a) →
      exec .updateUnitsDone s =
        .next { s with
          work := wholeStep s.work unitsStep
            (faultStep s.hub (noteReadError s.hub s.work c (unitOf 3 (unitOfAddr s.hub s.work a)) a) r c none) }))

/-! ### Coherence (11) -/

/-- READ_SHARED, READ_UNIQUE and UPGRADE of a line of LPDDR5X (11 R319, R327, R335, R336, R338, 15 R489): a request for a line that
its cache does not hold takes a tracker at the line's home; a store to a line held in M or E hits there and makes it M; a store
to a piece on its way to the image slot, or behind a request held for its line, is held at the home; an agent whose own request
or write-back of the line is on its way, or whose READ_SHARED finds the line held, asks for nothing new; a core whose home is
part of an engine complex that resets takes the access fault. An address outside the module's LPDDR5X faults with 0x0401, an
operation that R319 does not give the agent with 0x0408, and so does a core's operation across a line's end; an engine's store
across a line's end is split.

512 trackers at each home (11 R335): a request takes a free one; with none free, the next one is reserved for the first
request refused, and no other request takes it. -/
def Obligations.RequestsReachTheHome : Prop :=
  (∀ (s : State) (agent addr : Nat), agent < 80 → homesWork s.hub = true → placeOf s.hub addr = .unmapped →
    exec (.readShared agent addr) s = .next { s with work := grantLine s.work none 0x0401 }) ∧
  (∀ (s : State) (agent addr a : Nat), agent < 80 → homesWork s.hub = true → placeOf s.hub addr = .lpddr a →
    ((stateOf s.work.coh agent (lineOf a)).isSome = true ∨ ownWriteBack s.work.coh agent (lineOf a) = true ∨
        hasTxn s.work.coh agent (lineOf a) = true →
      exec (.readShared agent addr) s = .next s) ∧
    (stateOf s.work.coh agent (lineOf a) = none → ownWriteBack s.work.coh agent (lineOf a) = false →
      hasTxn s.work.coh agent (lineOf a) = false →
      (homeUp s.hub (lineOf a) = true →
        exec (.readShared agent addr) s =
          .next { s with
            work := s.work.setHome (lineHome (lineOf a)) (fun hm =>
              takeTracker hm (requestKey agent (lineOf a))
                ⟨.readShared, agent, lineOf a, a, .store [], [], none, false⟩) }) ∧
      (homeUp s.hub (lineOf a) = false →
        exec (.readShared agent addr) s = .next { s with work := coreFault s.hub s.work agent a })) ∧
    (∀ op : LineOp, 0 < opLength op →
      (inLpddr s.hub a (opLength op) = false →
        exec (.readUnique agent addr op) s = .next { s with work := grantLine s.work none 0x0401 } ∧
        exec (.upgrade agent addr op) s = .next { s with work := grantLine s.work none 0x0401 }) ∧
      (inLpddr s.hub a (opLength op) = true →
        (opLegal agent op = false ∨ (agent < 8 ∧ 128 < a % 128 + opLength op) →
          exec (.readUnique agent addr op) s = .next { s with work := grantLine s.work none 0x0408 } ∧
          exec (.upgrade agent addr op) s = .next { s with work := grantLine s.work none 0x0408 }) ∧
        (∀ bs : List Byte, op = .store bs → 8 ≤ agent → 128 < a % 128 + bs.length →
          exec (.readUnique agent addr op) s =
            .next { s with
              work := (lineParts a bs).foldl (fun w x =>
                ownershipNow s.hub w .readUnique agent x.1 (.store x.2) (.readUnique agent x.1 (.store x.2))) s.work } ∧
          exec (.upgrade agent addr op) s =
            .next { s with
              work := (lineParts a bs).foldl (fun w x =>
                ownershipNow s.hub w .upgrade agent x.1 (.store x.2) (.upgrade agent x.1 (.store x.2))) s.work }) ∧
        (opLegal agent op = true → a % 128 + opLength op ≤ 128 →
          (ownWriteBack s.work.coh agent (lineOf a) = true ∨ hasTxn s.work.coh agent (lineOf a) = true ∨
              holdsRequest s.work agent (lineOf a) = true →
            exec (.readUnique agent addr op) s = .next s ∧ exec (.upgrade agent addr op) s = .next s) ∧
          (ownWriteBack s.work.coh agent (lineOf a) = false → hasTxn s.work.coh agent (lineOf a) = false →
            holdsRequest s.work agent (lineOf a) = false →
            (homeUp s.hub (lineOf a) = true → mustHold s.hub s.work (lineOf a) = true →
              exec (.readUnique agent addr op) s =
                .next { s with work := holdReq s.work (lineOf a) (.command (.readUnique agent a op)) } ∧
              exec (.upgrade agent addr op) s =
                .next { s with work := holdReq s.work (lineOf a) (.command (.upgrade agent a op)) }) ∧
            ((homeUp s.hub (lineOf a) = false ∨ mustHold s.hub s.work (lineOf a) = false) →
              (stateOf s.work.coh agent (lineOf a) = some .m ∨ stateOf s.work.coh agent (lineOf a) = some .e) →
              exec (.readUnique agent addr op) s = .next { s with work := storeHit s.hub s.work agent a op } ∧
              exec (.upgrade agent addr op) s = .next { s with work := storeHit s.hub s.work agent a op }) ∧
            (homeUp s.hub (lineOf a) = true → mustHold s.hub s.work (lineOf a) = false →
              (stateOf s.work.coh agent (lineOf a) = none ∨ stateOf s.work.coh agent (lineOf a) = some .s ∨
                stateOf s.work.coh agent (lineOf a) = some .o) →
              exec (.readUnique agent addr op) s =
                .next { s with
                  work := s.work.setHome (lineHome (lineOf a)) (fun hm =>
                    takeTracker hm (requestKey agent (lineOf a))
                      ⟨.readUnique, agent, lineOf a, a, op, [], none, false⟩) } ∧
              exec (.upgrade agent addr op) s =
                .next { s with
                  work := s.work.setHome (lineHome (lineOf a)) (fun hm =>
                    takeTracker hm (requestKey agent (lineOf a))
                      ⟨.upgrade, agent, lineOf a, a, op, [], none, false⟩) }) ∧
            (homeUp s.hub (lineOf a) = false →
              (stateOf s.work.coh agent (lineOf a) = none ∨ stateOf s.work.coh agent (lineOf a) = some .s ∨
                stateOf s.work.coh agent (lineOf a) = some .o) →
              exec (.readUnique agent addr op) s = .next { s with work := coreFault s.hub s.work agent a } ∧
              exec (.upgrade agent addr op) s = .next { s with work := coreFault s.hub s.work agent a }))))) ∧
    (∀ bs : List Byte, bs ≠ [] → closeTarget s.hub s.work a bs = none →
      (stateOf s.work.coh agent (lineOf a) = some .m ∨ stateOf s.work.coh agent (lineOf a) = some .e) →
      stateOf (storeHit s.hub s.work agent a (.store bs)).coh agent (lineOf a) = some .m)) ∧
  (∀ (hm : Home) (key other : Nat) (t : Txn),
    (hm.txns.length < 512 → hm.reserved = none → (takeTracker hm key t).txns = hm.txns ++ [t]) ∧
    (512 ≤ hm.txns.length → (takeTracker hm key t).txns = hm.txns) ∧
    (512 ≤ hm.txns.length → hm.reserved = none → (takeTracker hm key t).reserved = some key) ∧
    (hm.txns.length = 511 → hm.reserved = some other → other ≠ key → (takeTracker hm key t).txns = hm.txns) ∧
    (hm.txns.length = 511 → hm.reserved = some key →
      (takeTracker hm key t).txns = hm.txns ++ [t] ∧ (takeTracker hm key t).reserved = none) ∧
    (hm.txns.length ≤ 512 → (takeTracker hm key t).txns.length ≤ 512))

/-- SNOOP (11 R332, R338, R341, R342, R347): an agent answers from the state its line has now, whatever requests of its own
wait. For a READ_SHARED an M line becomes O, or S with its data in memory in directory mode, and an E line S; for another
request the copy goes to I; a copy in M, E or O supplies its data; a bad dirty line goes to its home instead; a victim buffer
answers for a line that is on its way out; an agent without the line only answers.

SNOOP_LAP_COMPLETE (11 R330, R331, R338, R343): once every holder has answered, the retries of a line that comes from memory
are counted; unless the line's read faults, the requester has it: in M after its operation for READ_UNIQUE and UPGRADE, in E for
a READ_SHARED of an unprotected line that no other cache holds, else in S; the home's next transactions of the line and the
requests that it held then go on. A fault reaches the requester with the address that it gave. -/
def Obligations.SnoopLapsGrantTheLine : Prop :=
  (∀ (s : State) (agent a : Nat) (t : Txn) (w : Work), activeTxn s.work.coh (lineOf a) = some t → t.agent ≠ agent →
    t.answered.contains agent = false → w = s.work.setTxn t (fun x => { x with answered := x.answered ++ [agent] }) →
    (∀ l : CacheLine, s.work.coh.lines.find? (fun x => x.agent == agent && x.line == lineOf a) = some l →
      (dirty l = true → l.bad = true →
        exec (.snoop agent a) s =
          .next { s with
            work := (badToHome { w with coh := dropLine w.coh agent t.line } t.line l.data).setTxn t (fun x =>
              { x with badSupply := true }) }) ∧
      ((dirty l = false ∨ l.bad = false) →
        ∃ w1 : Work,
          (t.kind = .readShared →
            w1 = { w with
              mem := if s.hub.ident.cfg.coherenceMode = true ∧ l.st = .m then memWrite w.mem (t.line * 128) l.data else w.mem
              coh := setLine w.coh agent t.line
                (match l.st with
                 | .m => if s.hub.ident.cfg.coherenceMode then .s else .o
                 | .e => .s
                 | x => x) }) ∧
          (t.kind ≠ .readShared → w1 = { w with coh := dropLine w.coh agent t.line }) ∧
          exec (.snoop agent a) s =
            .next { s with
              work := if l.st = .s then w1 else w1.setTxn t (fun x => { x with supplied := some l.data }) })) ∧
    (s.work.coh.lines.find? (fun x => x.agent == agent && x.line == lineOf a) = none →
      (s.work.coh.victims.find? (fun v => v.agent == agent && v.line == lineOf a && !v.crossed && !v.done) = none →
        exec (.snoop agent a) s = .next { s with work := w }) ∧
      (∀ v : Victim,
        s.work.coh.victims.find? (fun v => v.agent == agent && v.line == lineOf a && !v.crossed && !v.done) = some v →
        exec (.snoop agent a) s = .next { s with work := snoopVictim w t v } ∧
        (snoopVictim w t v).coh.crossedTags = s.work.coh.crossedTags ++ [v.tag]))) ∧
  (∀ (s : State) (a r : Nat) (t : Txn) (w : Work), activeTxn s.work.coh (lineOf a) = some t →
    lapDone s.work.coh t = true → homeUp s.hub (lineOf a) = true →
    w = countRetries s.work (fillsFromMemory s.work t) r →
    (grantFault w t r = none →
      exec (.snoopLapComplete ⟨a, r⟩) s =
        .next { s with
          work := releaseHome s.hub (advanceLine s.hub (freeTracker (installLine s.hub w t) t) (lineOf a))
            (lineHome (lineOf a)) }) ∧
    (∀ c : Code, grantFault w t r = some c →
      exec (.snoopLapComplete ⟨a, r⟩) s =
        .next { s with
          work := releaseHome s.hub (advanceLine s.hub (failLap s.hub w t c) (lineOf a)) (lineHome (lineOf a)) }) ∧
    (t.kind ≠ .readShared →
      closeTarget s.hub w t.addr (lineOpEffect (lineData w t.line) false t.addr t.op).1 = none →
      (installLine s.hub w t).replies.grantCode = 0 ∧
        (installLine s.hub w t).replies.grant = some (t.agent, t.line, .m)) ∧
    (t.kind = .readShared → s.hub.ident.cfg.coherenceMode = false →
      (holders w.coh t.line).any (fun l => l.agent == t.agent) = false →
      (installLine s.hub w t).replies.grantCode = 0 ∧
        (installLine s.hub w t).replies.grant =
          some (t.agent, t.line, if holders w.coh t.line = [] ∧ isProtected w t.line = false then .e else .s)))

/-- READ_ONCE, WRITE_AT_HOME and ATOMIC_AT_HOME (11 R317 to R319, R327, R330, R335, R338, R344, 15 R489): on lines of LPDDR5X
that are free, a read answers the coherent bytes (a tensor entry's USE_CLOSE reads 0, 08 R218), or 0x0403 when memory gives
a read error after two retries; a write or an atomic at the home answers 0, or the old value; the code of a memory error is
answered instead. An access of one line that is busy takes a tracker and waits there; a write on a protected piece, or behind a
held one of its line, is held; a line whose home resets faults with 0x0701. An access outside the address space is refused with
0x0401; an atomic that is misaligned, of another width or operation with 0x0408. In the SRAM window an access within one aligned
64-byte word reads or writes those bytes, one across it is refused with 0x0408. -/
def Obligations.UncachedAccessesActAtTheHome : Prop :=
  ∀ (s : State) (addr : Nat), homesWork s.hub = true →
    (∀ (aop width : Nat) (x y : Word), atomicOk 0 aop width = false →
      exec (.atomicAtHome addr aop width x y) s = .next { s with work := s.work.reply 0x0408 [] }) ∧
    (placeOf s.hub addr = .unmapped →
      (∀ n r : Nat, 0 < n → exec (.readOnce addr n r) s = .next { s with work := s.work.reply 0x0401 [] }) ∧
      (∀ bs : List Byte, bs ≠ [] → exec (.writeAtHome addr bs) s = .next { s with work := s.work.reply 0x0401 [] }) ∧
      (∀ (aop width : Nat) (x y : Word), atomicOk 0 aop width = true →
        exec (.atomicAtHome addr aop width x y) s = .next { s with work := s.work.reply 0x0401 [] })) ∧
    (∀ a : Nat, placeOf s.hub addr = .sram a → s.hub.ident.complexReady = true →
      (∀ n r : Nat, 0 < n →
        exec (.readOnce addr n r) s =
          .next { s with
            work := if a % 64 + n ≤ 64 then s.work.reply 0 (memRead s.work.mem a n) else s.work.reply 0x0408 [] }) ∧
      (∀ bs : List Byte, bs ≠ [] →
        exec (.writeAtHome addr bs) s =
          .next { s with
            work :=
              if a % 64 + bs.length ≤ 64 then ({ s.work with mem := memWrite s.work.mem a bs }).reply 0 []
              else s.work.reply 0x0408 [] })) ∧
    (∀ a : Nat, placeOf s.hub addr = .lpddr a →
      (∀ n r : Nat, 0 < n →
        (inLpddr s.hub a n = false → exec (.readOnce addr n r) s = .next { s with work := s.work.reply 0x0401 [] }) ∧
        (inLpddr s.hub a n = true →
          (spanFree s.hub s.work a n false = true → ∀ bs : List Byte, physRead s.hub s.work a n = .ok bs →
            ∃ t : State, exec (.readOnce addr n r) s = .next t ∧
              (if (linesOf a n).any (fun ln => (dirtyCopy s.work.coh ln).isNone) = true ∧ 2 < r then
                t.work.replies.coreStatus = 0x0403
               else t.work.replies.coreStatus = 0 ∧ t.work.replies.coreData = maskClose s.hub s.work a bs) ∧
              t.hub = s.hub ∧ t.work.mem = s.work.mem ∧ t.work.coh.lines = s.work.coh.lines ∧
              t.work.coh.victims = s.work.coh.victims ∧ t.work.coh.homes = s.work.coh.homes ∧
              t.work.engines = s.work.engines) ∧
          (a % 128 + n ≤ 128 → homeUp s.hub (lineOf a) = true → lineBusy s.work.coh (lineOf a) = true →
            exec (.readOnce addr n r) s =
              .next { s with
                work := s.work.setHome (lineHome (lineOf a)) (fun hm =>
                  takeTracker hm (requestKey noCache (lineOf a))
                    ⟨.uncached (.readOnce a n r), noCache, lineOf a, a, .store [], [], none, false⟩) }))) ∧
      (∀ bs : List Byte, bs ≠ [] →
        (inLpddr s.hub a bs.length = false →
          exec (.writeAtHome addr bs) s = .next { s with work := s.work.reply 0x0401 [] }) ∧
        (inLpddr s.hub a bs.length = true →
          (spanFree s.hub s.work a bs.length true = true →
            (∀ w : Work, physStore s.hub s.work a bs = .ok w →
              exec (.writeAtHome addr bs) s = .next { s with work := w.reply 0 [] }) ∧
            (∀ (c : Code) (x : Nat), physStore s.hub s.work a bs = .error (c, x) →
              exec (.writeAtHome addr bs) s =
                .next { s with work := (badLeaves s.hub s.work 80 c x).reply c [] })) ∧
          (a % 128 + bs.length ≤ 128 →
            (homeUp s.hub (lineOf a) = false →
              exec (.writeAtHome addr bs) s =
                .next { s with work := (emitMemError s.hub s.work 0x0701 (unitOf 6 0) a).reply 0x0701 [] }) ∧
            (homeUp s.hub (lineOf a) = true → mustHold s.hub s.work (lineOf a) = true →
              exec (.writeAtHome addr bs) s =
                .next { s with work := holdReq s.work (lineOf a) (.command (.writeAtHome a bs)) })))) ∧
      (∀ (aop width : Nat) (x y : Word), atomicOk a aop width = true → inLpddr s.hub a width = true →
        (spanFree s.hub s.work a width true = true →
          (∀ (w : Work) (old : Nat), atomicAt s.hub s.work a aop width x.toNat y.toNat = .ok (w, old) →
            exec (.atomicAtHome addr aop width x y) s = .next { s with work := w.reply 0 (leBytes width old) }) ∧
          (∀ (c : Code) (z : Nat), atomicAt s.hub s.work a aop width x.toNat y.toNat = .error (c, z) →
            exec (.atomicAtHome addr aop width x y) s =
              .next { s with work := (badLeaves s.hub s.work 80 c z).reply c [] })) ∧
        (homeUp s.hub (lineOf a) = true → mustHold s.hub s.work (lineOf a) = true →
          exec (.atomicAtHome addr aop width x y) s =
            .next { s with work := holdReq s.work (lineOf a) (.command (.atomicAtHome a aop width x y)) })) ∧
      (∀ (aop width : Nat) (x y : Word), atomicOk a aop width = false →
        exec (.atomicAtHome addr aop width x y) s = .next { s with work := s.work.reply 0x0408 [] }))

/-- A read at the home gives what the last write at the home stored (11 R338, R344), whatever caches held the line before:
bytes written within one line read back, every byte of the line that was not written keeps its coherent value, and no
cache holds the line any more. In either coherence mode. -/
def Obligations.WriteAtHomeIsReadBack : Prop :=
  ∀ (h : Hub) (w : Work) (a : Nat) (bs : List Byte), 0 < bs.length → a % 128 + bs.length ≤ 128 →
    lineFault w (lineOf a) = none →
    (∀ i, i < bs.length → cohByte (homeStore h w a bs) (a + i) = bs.getD i 0) ∧
    (∀ x, lineOf x = lineOf a → (x < a ∨ a + bs.length ≤ x) → cohByte (homeStore h w a bs) x = cohByte w x) ∧
    holders (homeStore h w a bs).coh (lineOf a) = []

/-- WRITE_BACK, WRITE_BACK_ACK and EVICT_CLEAN (11 R335, R341, R346): a dirty line that is evicted moves to the victim buffer
under a tag; the write-back, at its home where a tracker is free, is written, or discarded where it crossed a snoop; without a
tracker it waits, with its claim to the next one; the acknowledgement frees the buffer entry; a clean line is only dropped.

RING_PARITY_FAILURE (11 R334, 13 R423): a message that fails parity for the first time is resent; the second failure of the
same message is a ring fault, counted for its stop: an alarm with 0x0701 and, where the engine complex runs, its reset. -/
def Obligations.EvictionsAndRingFaultsAct : Prop :=
  (∀ (s : State) (agent a : Nat),
    (homeUp s.hub (lineOf a) = true →
      (s.work.coh.victims.find? (fun v => v.agent == agent && v.line == lineOf a && !v.done) = none →
        (∀ l : CacheLine, s.work.coh.lines.find? (fun x => x.agent == agent && x.line == lineOf a) = some l →
          (dirty l = true →
            exec (.writeBack agent a) s = .next { s with work := evictDirty s.work l } ∧
            (evictDirty s.work l).coh.victims =
              s.work.coh.victims ++
                [⟨l.agent, l.line, l.agent * 4096 + s.work.coh.wbCount.getD l.agent 0, l.data, l.bad, false, false⟩]) ∧
          (dirty l = false → exec (.writeBack agent a) s = .next s)) ∧
        (s.work.coh.lines.find? (fun x => x.agent == agent && x.line == lineOf a) = none →
          exec (.writeBack agent a) s = .next s)) ∧
      (∀ v : Victim, s.work.coh.victims.find? (fun x => x.agent == agent && x.line == lineOf a && !x.done) = some v →
        (lineBusy s.work.coh (lineOf a) = true → v.crossed = false → exec (.writeBack agent a) s = .next s) ∧
        ((lineBusy s.work.coh (lineOf a) = false ∨ v.crossed = true) →
          ∃ w : Work,
            w = s.work.setHome (lineHome (lineOf a)) (fun hm => noteReserved hm (requestKey agent (lineOf a))) ∧
            (trackerFree (s.work.coh.home (lineHome (lineOf a))) (requestKey agent (lineOf a)) = false →
              exec (.writeBack agent a) s = .next { s with work := w }) ∧
            (trackerFree (s.work.coh.home (lineHome (lineOf a))) (requestKey agent (lineOf a)) = true →
              exec (.writeBack agent a) s = .next { s with work := orderWriteBack s.hub w v } ∧
              (s.work.coh.crossedTags.contains v.tag = true → s.hub.ident.cfg.coherenceMode = false →
                (orderWriteBack s.hub w v).mem = s.work.mem))))) ∧
    (∀ tag : Nat,
      exec (.writeBackAck agent tag) s =
        .next { s with
          work := { s.work with
            coh := { s.work.coh with
              victims := s.work.coh.victims.filter (fun v => !(v.agent == agent && v.tag == tag && v.done)) } } }) ∧
    (stateOf s.work.coh agent (lineOf a) = some .e ∨ stateOf s.work.coh agent (lineOf a) = some .s →
      exec (.evictClean agent a) s =
        .next { s with work := dirNote s.hub { s.work with coh := dropLine s.work.coh agent (lineOf a) } (lineOf a) })) ∧
  (∀ (s : State) (m stop : Nat), s.hub.ident.powered = true →
    (s.work.coh.resent.contains m = false →
      exec (.ringParityFailure ⟨m, stop⟩) s =
        .next { s with work := { s.work with coh := { s.work.coh with resent := s.work.coh.resent ++ [m] } } }) ∧
    (s.work.coh.resent.contains m = true →
      ∃ w : Work,
        w = raiseAlarm s.hub
          (countRingFault
            { s.work with coh := { s.work.coh with resent := s.work.coh.resent.filter (fun x => x != m) } } stop)
          0x0701 53 (unitOf 0 0) [] [] ∧
        (complexRuns s.hub = false → exec (.ringParityFailure ⟨m, stop⟩) s = .next { s with work := w }) ∧
        (complexRuns s.hub = true →
          exec (.ringParityFailure ⟨m, stop⟩) s =
            .next { s with hub := (complexReset s.hub w).1, work := (complexReset s.hub w).2 } ∧
          (complexReset s.hub w).1.ident.complexReady = false ∧ (complexReset s.hub w).1.safety = s.hub.safety ∧
          (complexReset s.hub w).1.fw = s.hub.fw)))

/-! ### Remote operations and transport (12) -/

/-- REMOTE_READ, REMOTE_WRITE and REMOTE_ATOMIC (12 R374 to R377, 01 R30): an access that no earlier delivered access to one
of its lines precedes is performed whole and answered with status 0: a read with its bytes, a write with none, an atomic
with the old value; one that meets a memory error is answered with its code; a write that meets a piece protected by a snapshot
waits for the piece and is taken again (11 R327, log 12); register space takes only the accesses of 01 R30, and a write that is
not one naturally aligned 64-bit store is answered 0x0401 and reaches nothing.

12 R376, R379: while the engine complex resets, an access is answered with 0x0503 and changes nothing; one without
bytes, or of more than 4,096, with 0x0401 (18 R530); an ATOMIC whose payload breaks R375 with 0x0408. An access that waits for
an earlier one is not performed. -/
def Obligations.RemoteAccessesArePerformedOrRefused : Prop :=
  (∀ (s : State) (k : Nat) (p : Packet), targetDown s.hub = false →
    (nextAccess s.hub s.work k 0x01 = some p → 0 < p.length → p.length ≤ 4096 →
      (∀ b : List Byte, readHere s.hub s.work p.addr p.length = .ok b →
        exec (.remoteRead k) s = .next { s with work := answer s.hub s.work k p 0 b }) ∧
      (∀ (c : Code) (a : Nat), readHere s.hub s.work p.addr p.length = .error (c, a) →
        exec (.remoteRead k) s = .next { s with work := answer s.hub (afterReadError s.hub s.work c a) k p c [] })) ∧
    (nextAccess s.hub s.work k 0x02 = some p → 0 < p.payload.length → p.payload.length ≤ 4096 →
      (∀ (h1 : Hub) (w1 : Work), writeHere s.hub s.work p.addr p.payload = .ok (h1, w1) →
        (newlyHeld s.work w1 = [] →
          exec (.remoteWrite k) s = .next { s with hub := h1, work := answer h1 w1 k p 0 [] }) ∧
        (newlyHeld s.work w1 ≠ [] →
          exec (.remoteWrite k) s =
            .next { s with work := askPieces s.work (remoteStep p) (newlyHeld s.work w1) })) ∧
      (∀ (c : Code) (a : Nat), writeHere s.hub s.work p.addr p.payload = .error (c, a) →
        exec (.remoteWrite k) s = .next { s with work := answer s.hub (afterReadError s.hub s.work c a) k p c [] }) ∧
      (∀ o : Nat, regionOf s.hub p.addr = .regs o → (p.payload.length ≠ 8 ∨ o % 8 ≠ 0) →
        exec (.remoteWrite k) s = .next { s with work := answer s.hub s.work k p 0x0401 [] })) ∧
    (nextAccess s.hub s.work k 0x03 = some p → atomicPacketOk p = true →
      (∀ (a : Nat) (w1 : Work) (old : Nat), moduleAddr s.hub s.work true p.addr = .ok a →
        atomicAt s.hub s.work a (fld p.payload 0 1) (fld p.payload 1 1) (fld p.payload 8 8) (fld p.payload 0x10 8) =
          .ok (w1, old) →
        exec (.remoteAtomic k) s =
          .next { s with work := wholeStep s.work (remoteStep p) (answer s.hub w1 k p 0 (leBytes 8 old)) }) ∧
      (∀ (a x : Nat) (c : Code), moduleAddr s.hub s.work true p.addr = .ok a →
        atomicAt s.hub s.work a (fld p.payload 0 1) (fld p.payload 1 1) (fld p.payload 8 8) (fld p.payload 0x10 8) =
          .error (c, x) →
        exec (.remoteAtomic k) s = .next { s with work := answer s.hub (badLeaves s.hub s.work 80 c x) k p c [] }) ∧
      (∀ c : Code, moduleAddr s.hub s.work true p.addr = .error c →
        exec (.remoteAtomic k) s = .next { s with work := answer s.hub s.work k p c [] }))) ∧
  (∀ (s : State) (k : Nat) (p : Packet),
    (nextAccess s.hub s.work k 0x01 = none → exec (.remoteRead k) s = .next s) ∧
    (nextAccess s.hub s.work k 0x02 = none → exec (.remoteWrite k) s = .next s) ∧
    (nextAccess s.hub s.work k 0x03 = none → exec (.remoteAtomic k) s = .next s) ∧
    (targetDown s.hub = true →
      (nextAccess s.hub s.work k 0x01 = some p →
        exec (.remoteRead k) s = .next { s with work := answer s.hub s.work k p 0x0503 [] }) ∧
      (nextAccess s.hub s.work k 0x02 = some p →
        exec (.remoteWrite k) s = .next { s with work := answer s.hub s.work k p 0x0503 [] }) ∧
      (nextAccess s.hub s.work k 0x03 = some p →
        exec (.remoteAtomic k) s = .next { s with work := answer s.hub s.work k p 0x0503 [] })) ∧
    (targetDown s.hub = false →
      (nextAccess s.hub s.work k 0x01 = some p → (p.length = 0 ∨ 4096 < p.length) →
        exec (.remoteRead k) s = .next { s with work := answer s.hub s.work k p 0x0401 [] }) ∧
      (nextAccess s.hub s.work k 0x02 = some p → (p.payload.length = 0 ∨ 4096 < p.payload.length) →
        exec (.remoteWrite k) s = .next { s with work := answer s.hub s.work k p 0x0401 [] }) ∧
      (nextAccess s.hub s.work k 0x03 = some p → atomicPacketOk p = false →
        exec (.remoteAtomic k) s = .next { s with work := answer s.hub s.work k p 0x0408 [] })) ∧
    (answer s.hub s.work k p 0x0503 []).mem = s.work.mem ∧ (answer s.hub s.work k p 0x0503 []).engines = s.work.engines ∧
    (answer s.hub s.work k p 0x0503 []).coh = s.work.coh)

/-- CONTROL_PACKET and PACKET_RESPONSE (12 R374, R385, R394, 09 R267, 14 R428, 17 R518): an alarm of another module is written to
the class-0 ring with REMOTE set and answered, and not sent on; an empty CONTROL is answered 0x0401; a clean flag or an outcome
reaches the vote, or is answered 0x0503 while the engine complex resets; a group-control message reaches FW2, or is held while
FW2 does not run; an abort ends the collective that it names. A response goes to the request of its tag: the answer of an ATOMIC
or SIGNAL is noted in the operation that waits for it, and that of a core's access is the core's.

PACKET_FORWARD and ETH_FRAME (12 R365, R369, R373): what is no packet is discarded; outside test mode a packet that breaks R369
is discarded where it arrives; one for another module goes on; one for this module goes to its receiver state, or to the
transport when it is an acknowledgement or probe; in test mode the injection rules of the port act first. A frame that an
Ethernet port does not take is discarded and counted. -/
def Obligations.PacketsReachTheirOwners : Prop :=
  (∀ (s : State) (k : Nat) (p : Packet), fabricWorks s.hub = true →
    (inboxAt s.work k (fun x => x.op == 0x20) = some p → behindPart s.work k p = false →
      (p.payload = [] → exec (.controlPacket k) s = .next { s with work := answer s.hub s.work k p 0x0401 [] }) ∧
      (isAlarm p.payload = true →
        exec (.controlPacket k) s =
          .next { s with work := answer s.hub (putAlarm s.hub s.work (alarmOf p.payload)) k p 0 [] } ∧
        (alarmOf p.payload).flags % 2 = 1) ∧
      (p.payload ≠ [] → isAlarm p.payload = false →
        ((fld p.payload 0 1 = 1 ∨ fld p.payload 0 1 = 2) → targetDown s.hub = true →
          exec (.controlPacket k) s = .next { s with work := answer s.hub s.work k p 0x0503 [] }) ∧
        (fld p.payload 0 1 = 1 → targetDown s.hub = false →
          exec (.controlPacket k) s =
            .next { s with
              work := causedBy p.causal (answer s.hub s.work k p 0 []) (fun w =>
                takeFlag s.hub (traceVote s.hub w) (fld p.payload 2 2) (fld p.payload 4 4)
                  (BitVec.ofNat 64 (fld p.payload 8 8)) (fld p.payload 1 1 == 1)) }) ∧
        (fld p.payload 0 1 = 2 → targetDown s.hub = false →
          exec (.controlPacket k) s =
            .next { s with
              work := causedBy p.causal (answer s.hub s.work k p 0 []) (fun w =>
                takeOutcome s.hub (traceVote s.hub w) (BitVec.ofNat 64 (fld p.payload 8 8)) (fld p.payload 1 1)) }) ∧
        (fld p.payload 0 1 = 3 → fwRuns s.hub 2 = true →
          exec (.controlPacket k) s =
            .next { s with
              work := answer s.hub
                (takePart s.hub s.work (fld p.payload 2 2) (fld p.payload 4 4) (BitVec.ofNat 32 (fld p.payload 8 4))
                  (fld p.payload 0x14 8) (fld p.payload 0x0C 4) (fld p.payload 0x10 4) (fld p.payload 0x1C 4)
                  (p.payload.drop 0x20)) k p 0 [] }) ∧
        (fld p.payload 0 1 = 3 → fwRuns s.hub 2 = false → s.hub.fw.heldControl.length < 64 →
          exec (.controlPacket k) s =
            .next { s with
              hub := { s.hub with fw := { s.hub.fw with heldControl := s.hub.fw.heldControl ++ [p] } }
              work := dropInbox s.work k }) ∧
        (fld p.payload 0 1 = 4 →
          exec (.controlPacket k) s =
            .next { s with
              work := causedBy p.causal (answer s.hub s.work k p 0 []) (fun w =>
                takeAbort s.hub w (fld p.payload 2 2) (BitVec.ofNat 32 (fld p.payload 4 4))) }))) ∧
    (inboxAt s.work k (fun x => decide (0x80 ≤ x.op)) = some p →
      ∃ w : Work, w = releaseRequest (dropInbox s.work k) p ∧
        exec (.packetResponse k) s =
          .next { s with
            hub := (settleRequest s.hub w p p.causal).1, work := (settleRequest s.hub w p p.causal).2 } ∧
        (∀ e id : Nat,
          (s.work.fabric.requests.find? (fun r => r.1 == p.tag) = some (p.tag, .atomicOp e id) ∨
            s.work.fabric.requests.find? (fun r => r.1 == p.tag) = some (p.tag, .signalOp e id)) →
          settleRequest s.hub w p p.causal =
            (s.hub, setOpAnswer
              (w.setFabric (fun f => { f with requests := f.requests.filter (fun r => r.1 != p.tag) })) e id p.tag 0 p.status
              p.payload)) ∧
        (s.work.fabric.requests.find? (fun r => r.1 == p.tag) = some (p.tag, .core) →
          settleRequest s.hub w p p.causal =
            (s.hub, (w.setFabric (fun f => { f with requests := f.requests.filter (fun r => r.1 != p.tag) })).reply p.status
              p.payload)))) ∧
  (∀ (s : State) (port : Nat), fabricWorks s.hub = true →
    ((portOf s.work port).st = .up → ∀ bs : List Byte,
      (packetOf bs = none → exec (.packetForward port bs) s = .next s) ∧
      (∀ p : Packet, packetOf bs = some p →
        exec (.packetForward port bs) s =
          .next { s with
            work := (inject s.hub s.work port true p).2.foldl (routePacket s.hub) (inject s.hub s.work port true p).1 } ∧
        (s.hub.ident.cfg.testMode = false →
          (packetBad p = true → exec (.packetForward port bs) s = .next s) ∧
          (packetBad p = false → isSelf s.hub p.dest = false →
            exec (.packetForward port bs) s = .next { s with work := forwardPacket s.hub s.work p }) ∧
          (packetBad p = false → isSelf s.hub p.dest = true → isManagement p = true →
            exec (.packetForward port bs) s = .next { s with work := takeManagement s.hub s.work p }) ∧
          (packetBad p = false → isSelf s.hub p.dest = true → isManagement p = false →
            exec (.packetForward port bs) s = .next { s with work := takePacket s.hub s.work p })))) ∧
    ((portOf s.work port).st = .ethUp → ∀ f : EthFrame,
      ((frameOk f = false ∨ packetOf f.payload = none) →
        exec (.ethFrame port f) s =
          .next { s with
            work := s.work.setPort port (fun x => { x with discards := min (x.discards + 1) (2 ^ 32 - 1) }) }) ∧
      (∀ p : Packet, frameOk f = true → packetOf f.payload = some p →
        exec (.ethFrame port f) s =
          .next { s with
            work := (inject s.hub s.work port true p).2.foldl (routePacket s.hub) (inject s.hub s.work port true p).1 } ∧
        (s.hub.ident.cfg.testMode = false → packetBad p = false → isSelf s.hub p.dest = true → isManagement p = false →
          exec (.ethFrame port f) s = .next { s with work := takePacket s.hub s.work p }))))

/-- The receiver (12 R373): the packet that carries the expected PSN is delivered, with one that was held behind it; a
packet up to 256 ahead is held and delivers nothing; one further ahead is discarded; a packet already delivered delivers
nothing again. So each packet of a source and class is delivered once, in order. -/
def Obligations.EachPacketIsDeliveredOnceInOrder : Prop :=
  ∀ (h : Hub) (w : Work) (p : Packet),
    (p.psn = (receiverOf w p.src p.cls).expected →
      ((receiverOf w p.src p.cls).ahead = [] →
        (takePacket h w p).fabric.inbox = w.fabric.inbox ++ [p] ∧
        (receiverOf (takePacket h w p) p.src p.cls).expected = (receiverOf w p.src p.cls).expected + 1) ∧
      (∀ x : Packet, (receiverOf w p.src p.cls).ahead = [x] → x.psn = p.psn + 1 →
        (takePacket h w p).fabric.inbox = w.fabric.inbox ++ [p, x] ∧
        (receiverOf (takePacket h w p) p.src p.cls).expected = (receiverOf w p.src p.cls).expected + 2 ∧
        (receiverOf (takePacket h w p) p.src p.cls).ahead = [])) ∧
    (1 ≤ (p.psn - (receiverOf w p.src p.cls).expected).toNat → (p.psn - (receiverOf w p.src p.cls).expected).toNat ≤ 256 →
      (takePacket h w p).fabric.inbox = w.fabric.inbox ∧
      (receiverOf (takePacket h w p) p.src p.cls).expected = (receiverOf w p.src p.cls).expected ∧
      (receiverOf (takePacket h w p) p.src p.cls).ahead.any (fun x => x.psn == p.psn) = true) ∧
    (256 < (p.psn - (receiverOf w p.src p.cls).expected).toNat →
      (p.psn - (receiverOf w p.src p.cls).expected).toNat < 2 ^ 31 → takePacket h w p = w) ∧
    (2 ^ 31 ≤ (p.psn - (receiverOf w p.src p.cls).expected).toNat →
      (takePacket h w p).fabric.inbox = w.fabric.inbox ∧
      (takePacket h w p).logs = w.logs)

/-- PACKET_ACK, ACK_TIMER, PROBE_PACKET and RETRANSMIT_TIMEOUT (12 R366, R372): an acknowledged packet is held no longer and its
path's count of time-outs ends, and an acknowledged response is kept no longer; a probe's answer brings its port back; the
acknowledgements due leave; a probe leaves on a port that has left the spray, or toward an unreachable destination; a packet
not acknowledged is resent up to seven times, and then its request completes with 0x0502 and the destination counts as
unreachable; a resend whose next port is an Ethernet port without an entry for the destination is refused with 0x0501. -/
def Obligations.TransportAcknowledgesAndResends : Prop :=
  ∀ (s : State) (m cls port : Nat) (psn : BitVec 32), fabricWorks s.hub = true →
    (exec (.packetAck m cls psn true port) s =
      .next { s with
        work := s.work.setSender
          { senderOf s.work m cls with
            left := (senderOf s.work m cls).left.filter (fun n => n != port)
            timeouts := (senderOf s.work m cls).timeouts.filter (fun x => x.1 != port)
            unreachable := false } }) ∧
    ((senderOf s.work m cls).held.find? (fun y => y.packet.psn == psn) = none →
      exec (.packetAck m cls psn false port) s = .next s ∧ exec (.retransmitTimeout m cls psn) s = .next s) ∧
    (∀ (x : HeldPacket) (w : Work), (senderOf s.work m cls).held.find? (fun y => y.packet.psn == psn) = some x →
      w = s.work.setSender
        { senderOf s.work m cls with
          held := (senderOf s.work m cls).held.filter (fun y => y.packet.psn != psn)
          timeouts := (senderOf s.work m cls).timeouts.filter (fun t => t.1 != x.packet.path) } →
      (x.packet.op < 0x80 → exec (.packetAck m cls psn false port) s = .next { s with work := w }) ∧
      (0x80 ≤ x.packet.op → exec (.packetAck m cls psn false port) s = .next { s with work := freeKept w x.packet })) ∧
    (exec (.ackTimer m cls) s =
      .next { s with
        work := (receiverOf s.work m cls).acks.foldl (fun w a => sendAck s.hub w m cls a false 0)
          (s.work.setReceiver { receiverOf s.work m cls with acks := [] }) }) ∧
    (((senderOf s.work m cls).unreachable = true ∨ (senderOf s.work m cls).left.contains port = true) →
      (permitted s.work m).contains port = true → portIsUp s.work port = true → ethReachable s.work port m = true →
      exec (.probePacket m cls port) s =
        .next { s with
          work := egress s.hub s.work port (managementPacket s.hub m cls probeOp 0 0 port port s.work.logs.causal) }) ∧
    (∀ (x : HeldPacket) (sn : Sender), (senderOf s.work m cls).held.find? (fun y => y.packet.psn == psn) = some x →
      sn = countTimeout (senderOf s.work m cls) x.packet.path →
      (x.resends < 7 → resendRefused s.work sn x = false →
        exec (.retransmitTimeout m cls psn) s =
          .next { s with work := resendPacket s.hub (s.work.setSender sn) sn x }) ∧
      (x.resends < 7 → resendRefused s.work sn x = true →
        exec (.retransmitTimeout m cls psn) s =
          .next { s with
            hub := (abandonPacket s.hub s.work sn x.packet 0x0501).1
            work := (abandonPacket s.hub s.work sn x.packet 0x0501).2 }) ∧
      (7 ≤ x.resends →
        exec (.retransmitTimeout m cls psn) s =
          .next { s with hub := (giveUp s.hub s.work sn x).1, work := (giveUp s.hub s.work sn x).2 }))

/-- FLIT_CRC_FAILURE, RETRAIN_COMPLETE, RETRAIN_TIMEOUT and CREDIT_RETURN (12 R363, R364): a flit's first CRC failure is a
replay and its second a retrain; a retrained port carries traffic again; a third attempt that fails takes it down, and
until then the attempts are counted; credits are returned on a Virfen link only, and never exceed the 1,024 of a class.

FABRIC_REFERENCE_LOST and FABRIC_REFERENCE_RESTORED (19 R551): without the fabric reference every port is down, and
when it is back the ports retrain. -/
def Obligations.LinksReplayRetrainAndGoDown : Prop :=
  (∀ (s : State) (port : Nat), port < 16 → fabricWorks s.hub = true →
    (∀ flit : Nat, (portOf s.work port).st = .up → (portOf s.work port).failed.contains flit = false →
      exec (.flitCrcFailure port flit) s =
        .next { s with
          work := s.work.setPort port (fun p =>
            { p with failed := p.failed ++ [flit], replays := min (p.replays + 1) (2 ^ 32 - 1) }) }) ∧
    (∀ flit : Nat, (portOf s.work port).st = .up → (portOf s.work port).failed.contains flit = true →
      exec (.flitCrcFailure port flit) s =
        .next { s with
          work := portLog s.hub
            (s.work.setPort port (fun p =>
              { p with
                st := .retraining, attempts := 0, retrains := min (p.retrains + 1) (2 ^ 32 - 1), failed := [] })) port }) ∧
    ((portOf s.work port).st = .retraining → s.work.fabric.referenceLost = false →
      exec (.retrainComplete port) s =
        .next { s with
          hub := (finishPortReset s.hub
            (s.work.setPort port (fun p => pump { p with st := upState s.work port, attempts := 0, failed := [] })) port).1
          work := (finishPortReset s.hub
            (s.work.setPort port (fun p => pump { p with st := upState s.work port, attempts := 0, failed := [] }))
            port).2 }) ∧
    ((portOf s.work port).st = .retraining → (portOf s.work port).attempts < 2 →
      exec (.retrainTimeout port) s =
        .next { s with work := s.work.setPort port (fun p => { p with attempts := p.attempts + 1 }) }) ∧
    ((portOf s.work port).st = .retraining → 2 ≤ (portOf s.work port).attempts →
      exec (.retrainTimeout port) s =
        .next { s with hub := (portDown s.hub s.work port).1, work := (portDown s.hub s.work port).2 }) ∧
    (∀ cls c f : Nat,
      ((portOf s.work port).st = .up →
        exec (.creditReturn port cls c f) s =
          .next { s with
            work := s.work.setPort port (fun p =>
              pump { p with credits := p.credits.modify cls (fun x => min 1024 (x + c)), held := p.held.drop f }) }) ∧
      ((portOf s.work port).st ≠ .up → exec (.creditReturn port cls c f) s = .next s))) ∧
  (∀ s : State, s.hub.ident.powered = true →
    (s.work.fabric.referenceLost = false →
      exec .fabricReferenceLost s =
        .next { s with
          hub := ((List.range 16).foldl (fun (x : Hub × Work) n => portDown x.1 x.2 n)
            (s.hub, s.work.setFabric (fun f => { f with referenceLost := true }))).1
          work := ((List.range 16).foldl (fun (x : Hub × Work) n => portDown x.1 x.2 n)
            (s.hub, s.work.setFabric (fun f => { f with referenceLost := true }))).2 }) ∧
    (s.work.fabric.referenceLost = true → s.hub.ident.powerState ≠ 2 → s.hub.ident.bootDone = true →
      s.hub.sec.stoppedBoot = false →
      ∃ t : State, exec .fabricReferenceRestored s = .next t ∧ t.hub = s.hub ∧ t.work.fabric.referenceLost = false ∧
        t.work.mem = s.work.mem ∧ t.work.fabric.ports.length = s.work.fabric.ports.length ∧
        ∀ n, n < s.work.fabric.ports.length → (portOf t.work n).st = .retraining ∧ (portOf t.work n).attempts = 0))

/-! ### Collectives (12, 14) -/

/-- The collective queues (12 R386 to R389, 14 R437, R439): a store to the doorbell of a disabled queue is discarded; that of
an idle enabled queue has the ring read, and a sealed descriptor is taken and NEXT_SEQ rises by one. A descriptor of an
unknown type stops the queue with 0x020B. ALL_REDUCE, REDUCE, REDUCE_SCATTER, BROADCAST, ALL_GATHER and BARRIER: one that
passes the checks of R388 starts, one that fails them completes with the code of its check, and one of a group that waits for
SET_NEXT_SEQ is given back to its ring, and the queue waits (12 R394). -/
def Obligations.CollectiveQueuesTakeAndStart : Prop :=
  ∀ (s : State) (k : Nat),
    (∀ v : Word, (collQ s.work k).enabled = false →
      exec (.cqDoorbell k v) s = .next { s with work := s.work.reply 0 [] }) ∧
    (∀ (v : Word) (b : List Byte) (d : Desc), collWorks s.hub = true → (collQ s.work k).enabled = true →
      (collQ s.work k).stopped = false → (collQ s.work k).desc = none → (collQ s.work k).cur = none →
      (collQ s.work k).rereads = 0 →
      physRead s.hub s.work (slotAddr (collQ s.work k).base (collQ s.work k).log2 (collQ s.work k).nextSeq) 64 = .ok b →
      judgeSlot (collQ s.work k).nextSeq b = .sealed d →
      s.work.colls.heldGroups.contains (fld d.payload 0x20 2) = false →
      exec (.cqDoorbell k v) s =
        .next { s with
          work := (s.work.reply 0 []).setCollQ k (fun q =>
            { q with
              hint := some (v.setWidth 32), unsealed := false, rereads := 0, groupHeld := false, desc := some d
              nextSeq := q.nextSeq + 1 }) }) ∧
    (∀ d : Desc, (collQ s.work k).desc = some d → collWorks s.hub = true →
      (knownColl d.kind = false →
        ∃ t : State, exec (.collectiveUnknownType k) s = .next t ∧ t.hub = s.hub ∧ t.work.mem = s.work.mem ∧
          collQ t.work k = { collQ s.work k with desc := none, stopped := true, stopCode := 0x020B, rereads := 0 }) ∧
      (∀ c : Instr,
        (c, d.kind) ∈ [(.allReduce k, 0x0C01), (.collectiveReduce k, 0x0C02), (.reduceScatter k, 0x0C03),
          (.broadcast k, 0x0C04), (.allGather k, 0x0C05), (.barrier k, 0x0C06)] →
        (s.work.colls.heldGroups.contains (fld d.payload 0x20 2) = true →
          exec c s =
            .next { s with
              work := s.work.setCollQ k (fun q => { q with desc := none, nextSeq := q.nextSeq - 1, groupHeld := true }) }) ∧
        (s.work.colls.heldGroups.contains (fld d.payload 0x20 2) = false →
          (∀ (x : Coll) (g : CollGroup), checkColl s.hub s.work d = .ok (x, g) →
            exec c s = .next { s with work := runColl s.hub s.work k x g }) ∧
          (∀ e : Code, checkColl s.hub s.work d = .error e →
            exec c s =
              .next { s with
                work := endColl s.hub s.work k
                  (if complOk s.hub (collFrom d).complAddr then (collFrom d).complAddr else 0)
                  (if 2 ^ 14 ≤ (collFrom d).signal then 0 else (collFrom d).signal)
                  (reducing (collFrom d).kind && (collFrom d).partialCode != 0) (collFrom d).collSeq e 0 none }))))

/-- The course and the end of a collective (12 R374, R384, R385, R390 to R394): a message is acknowledged, on the ports of its
group, and taken, and what it makes the member send names its causal number; with the root's answer and every response come, the
result is written (and where a write meets a piece that a snapshot protects, the queue waits for the piece, log 12), or the
collective completes with the code of the answer; a timeout sends the abort and completes with 0x0507; an abort that reaches a
running collective completes it with 0x050B, one that comes before the start is kept, and one that comes too late changes
nothing. A group-control message has FW2 write the new member list and the pending fields, with the index that
the message carries. -/
def Obligations.CollectivesRunToTheirEnd : Prop :=
  ∀ (s : State) (k : Nat),
    (∀ p : Packet, inboxAt s.work k (fun x => x.op == 0x10) = some p →
      (p.payload = [] → exec (.collectivePacket k) s = .next { s with work := answer s.hub s.work k p 0x0401 [] }) ∧
      (p.payload ≠ [] →
        exec (.collectivePacket k) s =
          .next { s with
            work := causedBy p.causal
              (sendResponse s.hub (dropInbox s.work k) (messageMask s.hub s.work p.payload) p 0 []) (fun w =>
                routeMessage s.hub w p.payload) })) ∧
    (∀ (c : Coll) (code : Code) (bytes : List Byte), (collQ s.work k).cur = some c → c.result = some (code, bytes) →
      collWorks s.hub = true → collSettled s.work k = true →
      (code = 0 →
        exec (.collectiveComplete k) s =
          .next { s with work := wholeStep s.work (4, k, 0) (writeResult s.hub s.work k c bytes) }) ∧
      (code ≠ 0 → exec (.collectiveComplete k) s = .next { s with work := finishColl s.hub s.work k c code 0 none })) ∧
    (∀ c : Coll, (collQ s.work k).cur = some c → collWorks s.hub = true →
      (c.tmoUs ≠ 0 → exec (.collectiveTimeout k) s = .next { s with work := abortColl s.hub s.work k c 0x0507 }) ∧
      (c.tmoUs = 0 → exec (.collectiveTimeout k) s = .next s)) ∧
    (∀ (group : Nat) (seq : BitVec 32), collWorks s.hub = true →
      (∀ (q : Nat) (c : Coll), collOf s.work group seq = some (q, c) →
        exec (.collectiveAbort group seq) s = .next { s with work := abandonColl s.hub s.work q c 0x050B }) ∧
      (collOf s.work group seq = none → notStarted s.hub s.work group seq = true →
        exec (.collectiveAbort group seq) s =
          .next { s with
            work := { s.work with colls := { s.work.colls with dead := (group, seq) :: s.work.colls.dead } } }) ∧
      (collOf s.work group seq = none → notStarted s.hub s.work group seq = false →
        exec (.collectiveAbort group seq) s = .next s)) ∧
    (∀ (group epoch addr index : Nat) (members : List Nat) (seq : BitVec 32), fwRuns s.hub 2 = true → group < 4096 →
      ∃ w : Work, w = physPut s.hub s.work addr (memberBytes members) ∧
        exec (.groupControl group epoch seq addr members index) s =
          .next { s with
            work := pendingFields s.hub w group epoch seq addr members.length index })

/-! ### Snapshots, restore and refill (13) -/

/-- A snapshot (13 R400 to R409): an accepted GO opens the epoch; a GO while the copier or a step runs is refused with 0x0901
and a bad descriptor, a set too large for its slot or a slot inside the set with 0x0902; a set that cannot be read ends the
epoch with its error; the epoch is open once the register image is whole and every cache has acknowledged; a held write to a
piece not yet copied sets the piece aside, or waits for a slot; a piece that was set aside is no longer protected, the oldest
one staged and the next in order go to the slot; a line that cannot be read ends the epoch; when all pieces are sent the
directory, the image and the record follow, and the last write to the slot that is accepted commits the epoch; an abort ends it
with 0x0903, and an operation asked for in the same store is refused. -/
def Obligations.SnapshotRunsAsAnEpoch : Prop :=
  ∀ (s : State),
    (∀ v : Word, copierReady s.hub = true → bitsOf v.toNat 0 3 = 1 → bitOf v.toNat 3 = false →
      ((s.work.copier.phase ≠ 0 ∨ s.work.upd.phase ≠ 0) →
        exec (.copierSnapshot v) s = .next { s with work := copierStatus s.hub s.work 0x0901 }) ∧
      (s.work.copier.phase = 0 → s.work.upd.phase = 0 →
        (readCopierDesc s.hub s.work = none →
          exec (.copierSnapshot v) s = .next { s with work := copierStatus s.hub s.work 0x0902 }) ∧
        (∀ (b : List Byte) (d : CopierDesc), readCopierDesc s.hub s.work = some (b, d) →
          (snapshotDescBad s.hub s.work.copier d = true →
            exec (.copierSnapshot v) s = .next { s with work := copierStatus s.hub s.work 0x0902 }) ∧
          (snapshotDescBad s.hub s.work.copier d = false →
            (∀ (c : Code) (a : Nat), protectedPieces s.hub s.work = .error (c, a) →
              exec (.copierSnapshot v) s =
                .next { s with work := epochReadError s.hub (openEpoch s.hub s.work d [] []) c a }) ∧
            (∀ (ps : List Nat) (sp : List (Nat × Nat × Nat)), protectedPieces s.hub s.work = .ok (ps, sp) →
              ((slotCapacity d < ps.length ∨ slotMeets s.hub d ps = true) →
                exec (.copierSnapshot v) s = .next { s with work := copierStatus s.hub s.work 0x0902 }) ∧
              (ps.length ≤ slotCapacity d → slotMeets s.hub d ps = false →
                exec (.copierSnapshot v) s = .next { s with work := openEpoch s.hub s.work d ps sp })))))) ∧
    (∀ r : CopierRun, s.work.copier.run = some r →
      (s.work.copier.phase = 1 → homesWork s.hub = true → s.hub.ident.complexReady = true → slotPending s.work = false →
        (captureEngines s.work r).uncaptured = [] → ownershipUnderWay s.work (captureEngines s.work r) = false →
        ∃ t : State, exec .epochOpened s = .next t ∧ t.hub = s.hub ∧ t.work.copier.phase = 2 ∧
          t.work.copier.protectedSet = r.pieces ∧ t.work.engines = s.work.engines) ∧
      (∀ piece : Nat, s.work.copier.phase = 2 →
        (s.work.copier.protectedSet.contains piece = true →
          (heldTouch s.hub s.work piece = true → isStaged r piece = false →
            (∀ i : Nat, freeSlot r = some i → pieceFault s.hub s.work piece = none →
              exec (.firstTouch piece) s = .next { s with work := stagePiece s.work r piece i }) ∧
            (∀ (i a : Nat) (c : Code), freeSlot r = some i → pieceFault s.hub s.work piece = some (c, a) →
              exec (.firstTouch piece) s = .next { s with work := epochReadError s.hub s.work c a }) ∧
            (freeSlot r = none → exec (.firstTouch piece) s = .next { s with work := noSlot s.hub s.work r piece })) ∧
          (isStaged r piece = true →
            exec (.pieceCopied piece) s =
              .next { s with work := releaseAll s.hub (unprotect s.hub s.work piece) })) ∧
        (s.work.copier.protectedSet.contains piece = false → r.staged.head?.map (fun x => x.1) = some piece →
          exec (.pieceCopied piece) s = .next { s with work := settleSlot s.hub (drainOldest s.hub s.work) }) ∧
        (isStaged r piece = false → r.todo.head? = some piece →
          (pieceFault s.hub s.work piece = none →
            exec (.pieceCopied piece) s =
              .next { s with
                work := settleSlot s.hub
                  (releaseAll s.hub
                    (unprotect s.hub
                      ((sendPiece s.hub s.work r piece (piece * pieceSize)).setRun (fun x => { x with todo := x.todo.drop 1 }))
                      piece)) }) ∧
          (∀ (c : Code) (a : Nat), pieceFault s.hub s.work piece = some (c, a) →
            exec (.pieceCopied piece) s = .next { s with work := epochReadError s.hub s.work c a }))) ∧
      (r.todo = [] → r.staged = [] →
        (s.work.copier.phase = 2 →
          exec .epochCommit s =
            .next { s with
              work := settleSlot s.hub
                (commitNext s.hub (commitNext s.hub (commitNext s.hub (enterCopierPhase s.hub s.work 3)))) }) ∧
        (s.work.copier.phase = 3 →
          exec .epochCommit s =
            .next { s with
              work := settleSlot s.hub (commitNext s.hub (commitNext s.hub (commitNext s.hub s.work))) }) ∧
        (s.work.copier.phase = 3 → r.sent = 2 → r.slotFail = 0 → slotPending s.work = false →
          exec .epochCommit s =
            .next { s with
              work := endCopier s.hub (s.work.setCopier (fun c => { c with epoch := r.desc.epoch, protectedSet := [] }))
                0 })) ∧
      (∀ v : Word, copierReady s.hub = true → bitOf v.toNat 3 = true → 1 ≤ s.work.copier.phase → s.work.copier.phase ≤ 3 →
        (bitsOf v.toNat 0 3 = 0 →
          exec (.copierAbort v) s = .next { s with work := endEpoch s.hub s.work 0x0903 }) ∧
        (1 ≤ bitsOf v.toNat 0 3 → bitsOf v.toNat 0 3 ≤ 3 →
          exec (.copierAbort v) s = .next { s with work := copierStatus s.hub (endEpoch s.hub s.work 0x0903) 0x0901 }))) ∧
    (∀ v : Word, copierReady s.hub = true → bitOf v.toNat 3 = true → bitsOf v.toNat 0 3 = 0 →
      (s.work.copier.phase = 0 ∨ 3 < s.work.copier.phase) → exec (.copierAbort v) s = .next s)

/-- Restore and refill (13 R411 to R420): a GO is refused with 0x0901 while anything else runs; the last piece of a restore
is written, and then a restore of everything restores the registers, and the image's epoch is taken; a piece whose CRC or place
is wrong ends it with 0x0907; a refill whose last piece is written ends with 0, and one whose every source has failed with
0x0908.

The loss ledger (13 R414): LEDGER_LOSS enters the loss under LEDGER_STEP; VERIFY_GO compares the loss at VERIFY_ADDR with
the entry of VERIFY_STEP: 3 and 0x090A without an entry, 1 where they agree, and 2, VERIFY_FAIL and 0x0909 where they differ; a loss that cannot be read
gives the code of the error and no result (log 25); a 1 written to VERIFY_FAIL clears it. -/
def Obligations.RestoreRefillAndLedgerRun : Prop :=
  (∀ (s : State) (v : Word), copierReady s.hub = true →
    (bitsOf v.toNat 0 3 = 2 → bitOf v.toNat 3 = false →
      exec (.copierRestore v) s = .next { s with work := goRestore s.hub s.work }) ∧
    (bitsOf v.toNat 0 3 = 3 → bitOf v.toNat 3 = false →
      exec (.copierRefill v) s = .next { s with work := goRefill s.hub s.work }) ∧
    (copierBusy s.work = true →
      goRestore s.hub s.work = copierStatus s.hub s.work 0x0901 ∧
        goRefill s.hub s.work = copierStatus s.hub s.work 0x0901) ∧
    (∀ r : CopierRun, s.work.copier.run = some r → r.missing = [] →
      (s.work.copier.phase = 4 → r.stage = 2 →
        (r.work = [] → exec .restoreComplete s = .next { s with work := finishRestore s.hub s.work r }) ∧
        (∀ (k a : Nat) (rest : List (Nat × Nat)), r.work = (k, a) :: rest → r.failed = [] →
          (crc32 (memRead r.buffer 0 pieceSize) ≠ (r.crcs.getD k (0, 0)).2 ∨ inLpddr s.hub a pieceSize = false) →
          exec .restoreComplete s =
            .next { s with
              work := stopCopier s.hub s.work 0x0907 0 (0x0907, slotBase r + 0xA00000 + k * pieceSize) }) ∧
        (∀ (k a : Nat) (r1 : CopierRun), r.work = [(k, a)] → r.failed = [] →
          crc32 (memRead r.buffer 0 pieceSize) = (r.crcs.getD k (0, 0)).2 → inLpddr s.hub a pieceSize = true →
          r1 = { clearReads r with work := [] } →
          exec .restoreComplete s =
            .next { s with
              work := finishRestore s.hub
                ((putPiece s.work a (memRead r.buffer 0 pieceSize)).setCopier (fun c =>
                  { c with run := some r1, done := c.done + 1 })) r1 })) ∧
      (s.work.copier.phase = 5 →
        (r.work = [] → exec .refillComplete s = .next { s with work := endCopier s.hub s.work 0 }) ∧
        (∀ (a ix : Nat) (rest : List (Nat × Nat)), r.work = (a, ix) :: rest → r.stage = 0 →
          (r.regions.getD ix ⟨0, 0, []⟩).sources.filter (fun m => !r.failedSources.contains m) = [] →
          exec .refillComplete s =
            .next { s with
              work := stopCopier s.hub s.work 0x0908 ix (s.work.copier.errCode, s.work.copier.errAddr.toNat) }) ∧
        (∀ a ix p : Nat, r.work = [(a, ix)] → r.stage ≠ 0 → r.failed = [] → a % pieceSize = 0 →
          moduleAddr s.hub s.work true a = .ok p →
          exec .refillComplete s =
            .next { s with
              work := endCopier s.hub
                (((putPiece s.work p (memRead r.buffer 0 pieceSize)).setRun (fun y => { y with work := [] })).setCopier
                  (fun c => { c with done := c.done + 1 })) 0 })))) ∧
  (∀ (s : State) (v : Word) (en : Word × BitVec 48), copierReady s.hub = true →
    s.work.copier.ledger.getD (s.work.copier.verifyStep.toNat % 64) (BitVec.allOnes 64, 0) = en →
    exec (.ledgerLoss v) s =
      .next { s with
        work := s.work.setCopier (fun c =>
          { c with ledger := c.ledger.set (c.ledgerStep.toNat % 64) (c.ledgerStep, v.setWidth 48) }) } ∧
    (bitOf v.toNat 4 = true →
      exec (.verifyFailClear v) s = .next { s with work := s.work.setCopier (fun c => { c with verifyFail := false }) }) ∧
    (bitOf v.toNat 0 = true → (en.1 ≠ s.work.copier.verifyStep ∨ s.work.copier.verifyStep = BitVec.allOnes 64) →
      exec (.verifyGo v) s =
        .next { s with work := copierStatus s.hub (s.work.setCopier (fun c => { c with verifyResult := 3 })) 0x090A }) ∧
    (∀ (c : Code) (a : Nat), bitOf v.toNat 0 = true → en.1 = s.work.copier.verifyStep →
      s.work.copier.verifyStep ≠ BitVec.allOnes 64 → verifyLoss s.hub s.work = .error (c, a) →
      exec (.verifyGo v) s =
        .next { s with
          work := copierStatus s.hub
            ((setCopierErr s.work c 0 (atlasOf a)).setCopier (fun x => { x with verifyResult := 0 })) c }) ∧
    (∀ loss : Nat, bitOf v.toNat 0 = true → en.1 = s.work.copier.verifyStep →
      s.work.copier.verifyStep ≠ BitVec.allOnes 64 → verifyLoss s.hub s.work = .ok loss →
      (loss = en.2.toNat →
        exec (.verifyGo v) s =
          .next { s with work := copierStatus s.hub (s.work.setCopier (fun c => { c with verifyResult := 1 })) 0 }) ∧
      (loss ≠ en.2.toNat →
        ∃ t : State, exec (.verifyGo v) s = .next t ∧ t.hub = s.hub ∧ t.work.copier.verifyResult = 2 ∧
          t.work.copier.verifyFail = true ∧ t.work.copier.lastStatus = 0x0909)))

/-! ### Mailboxes (14) -/

/-- MB_DOORBELL and an unknown opcode (14 R435 to R439, R444 to R446): a doorbell of a mailbox that is not open is discarded;
that of an idle open mailbox has its ring read, and a sealed command is taken while the completion ring has a free slot; that of
a mailbox between two reads of a slot only leaves its hint; an opcode in no table completes with 0x0602. (A command one of whose
writes meets a piece that a snapshot protects waits for the piece and is served again, log 12.)

The checks of every mailbox command before its own (14 R445, R446, R454): a failed processor, a command that needs a
privileged mailbox, and a reserved byte that is not 0, complete it with 0x0608, 0x0603 and 0x0604, and nothing else
happens. (Their order is the model's choice, log 45.) -/
def Obligations.MailboxCommandsAreTakenAndChecked : Prop :=
  (∀ (s : State) (k : Nat),
    (∀ v : Word, k < 16 → s.hub.ident.powered = true → s.hub.ident.powerState ≠ 2 →
      ((s.hub.mailbox k).isOpen = false → exec (.mbDoorbell k v) s = .next { s with work := s.work.reply 0 [] }) ∧
      ((s.hub.mailbox k).isOpen = true → (s.hub.mailbox k).rereads ≠ 0 → (s.hub.mailbox k).unsealed = false →
        exec (.mbDoorbell k v) s =
          .next { s with
            hub := s.hub.setMailbox k (fun m => { m with hint := some (v.setWidth 32), unsealed := false, rereads := m.rereads })
            work := s.work.reply 0 [] }) ∧
      (∀ d : Desc, (s.hub.mailbox k).isOpen = true → (s.hub.mailbox k).rereads = 0 → fwRuns s.hub 4 = true →
        (s.hub.mailbox k).cmd = none → (s.hub.mailbox k).closing = false → cplFree s.hub s.work k = true →
        judgeSlot (s.hub.mailbox k).cmdHead
          (physBytes s.work (slotAddr (s.hub.mailbox k).cmdBase (s.hub.mailbox k).cmdLog2 (s.hub.mailbox k).cmdHead) 64) =
            .sealed d →
        ∃ t : State, exec (.mbDoorbell k v) s = .next t ∧ t.hub.ident = s.hub.ident ∧ t.hub.safety = s.hub.safety ∧
          t.hub.mailbox k =
            { s.hub.mailbox k with
              hint := some (v.setWidth 32), unsealed := false, full := false, cmdHead := (s.hub.mailbox k).cmdHead + 1
              rereads := 0, cmd := some d, busyLong := false })) ∧
    (∀ d : Desc, heldCommand s.hub k (fun o => !knownCommand o) = some d →
      exec (.mailboxUnknownOpcode k) s = .next (completed s s.hub s.work k 0x0602 []))) ∧
  (∀ (s : State) (c : Instr) (k op owner : Nat) (priv : Bool) (fields : List (Nat × Nat)) (d : Desc),
    mailboxRow c = some (k, op, owner, priv, fields) → heldCommand s.hub k (fun o => o == op) = some d →
    (fwFailed s.hub owner = true → exec c s = .next (completed s s.hub s.work k 0x0608 [])) ∧
    (fwFailed s.hub owner = false → fwRuns s.hub owner = true → priv = true → (s.hub.mailbox k).priv = false →
      exec c s = .next (completed s s.hub s.work k 0x0603 [])) ∧
    (fwFailed s.hub owner = false → fwRuns s.hub owner = true → (priv = true → (s.hub.mailbox k).priv = true) →
      argsReserved fields d.payload = true → exec c s = .next (completed s s.hub s.work k 0x0604 [])))

/-- GET_VERSIONS, RESET_REQUEST, SET_POWER_STATE and SET_POWER_CAP (14 R446, 15 R472, R485, R486, R491): versions come from
the running and the staged bundle; a reset follows its completion, or waits behind the one that runs; Complex idle is entered,
or kept, only with idle streams and no step; entry into Module standby needs Complex idle and no firmware update, and waits for
an epoch that is open; a cap lies between 1,000 W and 2,300 W. -/
def Obligations.PowerCommandsTakeEffect : Prop :=
  ∀ (s : State) (k : Nat) (d : Desc),
    (Serves s (.getVersions k) d →
      exec (.getVersions k) s =
        .next (completed s s.hub s.work k 0
          (leBytes 8 s.hub.sec.running.version.toNat ++
            leBytes 8 (if s.hub.fw.update.stage = 3 then s.hub.fw.update.stagedVersion.toNat else 0) ++
            leBytes 1 s.hub.ident.flashBank))) ∧
    (Serves s (.resetRequest k) d →
      (resetArgsBad d.payload = true → exec (.resetRequest k) s = .next (completed s s.hub s.work k 0x0604 [])) ∧
      (resetArgsBad d.payload = false →
        exec (.resetRequest k) s =
          .next (afterCommand s k
            (beginRequested d.payload (completeCommand s.hub s.work k 0 []).1 (completeCommand s.hub s.work k 0 []).2)))) ∧
    (Serves s (.setPowerState k) d →
      (2 < fld d.payload 8 1 → exec (.setPowerState k) s = .next (completed s s.hub s.work k 0x0604 [])) ∧
      (fld d.payload 8 1 = 0 → s.hub.ident.powerState = 0 →
        exec (.setPowerState k) s = .next (completed s s.hub s.work k 0 [])) ∧
      (fld d.payload 8 1 = 0 → s.hub.ident.powerState ≠ 0 →
        exec (.setPowerState k) s =
          .next (completed s (setPower s.hub 0) (wakeEngines (setPower s.hub 0) s.work) k 0 [])) ∧
      (fld d.payload 8 1 = 1 →
        (mayIdle s.hub s.work = false →
          exec (.setPowerState k) s = .next (completed s s.hub s.work k 0x0606 [])) ∧
        (mayIdle s.hub s.work = true →
          exec (.setPowerState k) s = .next (completed s (setPower s.hub 1) s.work k 0 []))) ∧
      (fld d.payload 8 1 = 2 →
        (s.hub.ident.powerState = 0 ∨ (s.hub.ident.powerState = 1 ∧ updateBusy s.hub = true) →
          exec (.setPowerState k) s = .next (completed s s.hub s.work k 0x0606 [])) ∧
        (s.hub.ident.powerState = 1 → updateBusy s.hub = false → epochOpen s.work = true →
          exec (.setPowerState k) s = .next s) ∧
        (s.hub.ident.powerState = 1 → updateBusy s.hub = false → epochOpen s.work = false →
          ∀ x : Hub × Work,
            x = completeCommand (enterStandby s.hub s.work).1 (enterStandby s.hub s.work).2 k 0 [] →
            exec (.setPowerState k) s = .next (afterCommand s k (suspendAfter d.payload x.1 x.2)) ∧
            (suspendAfter d.payload x.1 x.2).1.ident.powerState = 2 ∧
            (suspendAfter d.payload x.1 x.2).1.ident.complexReady = false ∧
            (suspendAfter d.payload x.1 x.2).1.safety = s.hub.safety ∧
            (∀ n, n < 6 → n ≠ 1 → (suspendAfter d.payload x.1 x.2).1.ident.fwAlive.getD n false = false)))) ∧
    (Serves s (.setPowerCap k) d →
      ((fld d.payload 8 4 < 1000 ∨ 2300 < fld d.payload 8 4) →
        exec (.setPowerCap k) s = .next (completed s s.hub s.work k 0x0604 [])) ∧
      (1000 ≤ fld d.payload 8 4 → fld d.payload 8 4 ≤ 2300 →
        exec (.setPowerCap k) s =
          .next (completed s { s.hub with fw := { s.hub.fw with powerCap := fld d.payload 8 4 } } s.work k 0 [])))

/-- FW_STAGE_BEGIN is refused with 0x0606 while a deferral or a trial is in force; FW_STAGE_WRITE with 0x0607 when
STAGE_STATE is not 2, when its OFFSET is not STAGED_KIB × 1,024, or when OFFSET + LENGTH exceeds BUNDLE_BYTES (14 R461). -/
def Obligations.StagingIsRefusedOutOfTurn : Prop :=
  ∀ (s : State) (k : Nat) (d : Desc),
    (Serves s (.fwStageBegin k) d → fld d.payload 8 8 ≠ 0 → fld d.payload 8 8 % 4096 = 0 → fld d.payload 8 8 ≤ maxBundle →
      (s.hub.fw.update.deferred = true ∨ s.hub.fw.update.trial = true) →
      exec (.fwStageBegin k) s = .next (completed s s.hub s.work k 0x0606 [])) ∧
    (Serves s (.fwStageWrite k) d → fld d.payload 8 8 % 4096 = 0 → fld d.payload 0x14 4 % 4096 = 0 →
      fld d.payload 0x14 4 ≤ 0x1000000 → (fld d.payload 0x14 4 ≠ 0 → inLpddr s.hub (fld d.payload 8 8) (fld d.payload 0x14 4) = true) →
      (s.hub.fw.update.stage ≠ 2 ∨ fld d.payload 0x10 4 ≠ s.hub.fw.update.stagedKib * 1024 ∨
        s.hub.fw.update.bundleBytes < fld d.payload 0x10 4 + fld d.payload 0x14 4) →
      exec (.fwStageWrite k) s = .next (completed s s.hub s.work k 0x0607 []))

/-- The stages of a firmware update (14 R454, R456 to R460, R463, 16 R500): staging erases the inactive bank, whose contents are
gone from the start of the erase, and then takes writes in order; a bundle that verifies is ready, and one that does not gives
its code and STAGE_STATE 4; with nothing staged there is nothing to verify (0x0607, log 31). Activation selects the staged bank
on trial and restarts every processor that is not held failed (one that restarts for the sixth time may be held, log 95), but is
deferred with 0x0605 in an emergency, until the module has been clear of it; images that are not those verified do not run
(log 31). A cancellation ends a deferral or a staging; CONFIG_STAGE commits a record that verifies to the copy not in use. -/
def Obligations.FirmwareUpdateRunsInStages : Prop :=
  ∀ (s : State) (k : Nat) (d : Desc),
    (Serves s (.fwStageBegin k) d → fld d.payload 8 8 ≠ 0 → fld d.payload 8 8 % 4096 = 0 → fld d.payload 8 8 ≤ maxBundle →
      s.hub.fw.update.deferred = false → s.hub.fw.update.trial = false → erasing s.hub = false →
      exec (.fwStageBegin k) s =
        .next { s with
          hub := ((s.hub.setBank (stagedBank s.hub) []).setUpdate (fun u =>
            { u with
              stage := 1, stagedKib := 0, bundleBytes := fld d.payload 8 8, stagedVersion := 0, stagedDigest := []
              waitingMailbox := some k })).setMailbox k (fun m => { m with busyLong := true }) }) ∧
    (Serves s (.fwStageBegin k) d → fld d.payload 8 8 ≠ 0 → fld d.payload 8 8 % 4096 = 0 → fld d.payload 8 8 ≤ maxBundle →
      s.hub.fw.update.deferred = false → s.hub.fw.update.trial = false → erasing s.hub = true →
      exec (.fwStageBegin k) s = .next s) ∧
    (∀ h : Hub, s.hub.fw.update.waitingMailbox = some k → fwRuns s.hub 0 = true →
      h = s.hub.setUpdate (fun u => { u with stage := if u.stage = 1 then 2 else u.stage, waitingMailbox := none }) →
      ((s.hub.mailbox k).cmd = some d → d.kind = 0x0701 → (s.hub.mailbox k).busyLong = true → fwRuns s.hub 4 = true →
        exec .eraseComplete s =
          .next { s with hub := (completeCommand h s.work k 0 []).1, work := (completeCommand h s.work k 0 []).2 }) ∧
      ((s.hub.mailbox k).cmd = none → exec .eraseComplete s = .next { s with hub := h })) ∧
    (∀ b : List Byte, Serves s (.fwStageWrite k) d → fld d.payload 8 8 % 4096 = 0 → fld d.payload 0x14 4 % 4096 = 0 →
      fld d.payload 0x14 4 ≤ 0x1000000 → (fld d.payload 0x14 4 ≠ 0 → inLpddr s.hub (fld d.payload 8 8) (fld d.payload 0x14 4) = true) →
      s.hub.fw.update.stage = 2 →
      fld d.payload 0x10 4 = s.hub.fw.update.stagedKib * 1024 →
      fld d.payload 0x10 4 + fld d.payload 0x14 4 ≤ s.hub.fw.update.bundleBytes →
      fwRead s.hub s.work (fld d.payload 8 8) (fld d.payload 0x14 4) = .ok b →
      exec (.fwStageWrite k) s =
        .next (completed s
          ((s.hub.setBank (stagedBank s.hub)
            (bankWrite (s.hub.fw.flash.bank (stagedBank s.hub)) (fld d.payload 0x10 4) b)).setUpdate (fun u =>
              { u with stagedKib := u.stagedKib + fld d.payload 0x14 4 / 1024 })) s.work k 0 [])) ∧
    (Serves s (.fwStageVerify k) d → s.hub.fw.update.stage < 2 →
      exec (.fwStageVerify k) s = .next (completed s s.hub s.work k 0x0607 [])) ∧
    (Serves s (.fwStageVerify k) d → 2 ≤ s.hub.fw.update.stage →
      exec (.fwStageVerify k) s =
        .next
          (if bundleCode (s.hub.fw.flash.bank (stagedBank s.hub)) = 0 then
            completed s
              (s.hub.setUpdate (fun u =>
                { u with
                  stage := 3, stagedVersion := (bundleId (s.hub.fw.flash.bank (stagedBank s.hub))).version
                  stagedDigest := imageDigests (s.hub.fw.flash.bank (stagedBank s.hub)) }))
              s.work k 0 (leBytes 8 (bundleId (s.hub.fw.flash.bank (stagedBank s.hub))).version.toNat)
          else
            completed s (s.hub.setUpdate (fun u => { u with stage := 4 })) s.work k
              (bundleCode (s.hub.fw.flash.bank (stagedBank s.hub))) [])) ∧
    (Serves s (.fwActivate k) d → s.hub.fw.update.stage = 3 → s.hub.fw.update.deferred = false →
      s.hub.fw.update.trial = false →
      (emergency s.hub.safety = true →
        exec (.fwActivate k) s =
          .next (completed s (s.hub.setUpdate (fun u => { u with deferred := true })) s.work k 0x0605 [])) ∧
      (emergency s.hub.safety = false →
        exec (.fwActivate k) s =
          .next (afterCommand s k
            (activate (s.hub.setMailbox k (fun m => { m with busyLong := true })) s.work
              (some (k, BitVec.ofNat 64 (fld d.payload 0 8), d.seq)))))) ∧
    (s.hub.fw.update.deferred = true → emergency s.hub.safety = false → fwRuns s.hub 0 = true →
      exec .deferredActivation s =
        .next { s with hub := (activate s.hub s.work none).1, work := (activate s.hub s.work none).2 }) ∧
    (∀ (h : Hub) (w : Work) (cmd : Option (Nat × Word × Seq)),
      (activate h w cmd).1.safety = h.safety ∧ (activate h w cmd).1.fw.update.deferred = false ∧
      (imageDigests (h.fw.flash.bank (stagedBank h)) = h.fw.update.stagedDigest →
        (activate h w cmd).1.ident.flashBank = 1 - h.ident.flashBank ∧ (activate h w cmd).1.fw.update.trial = true ∧
        ∀ n, n < 6 → n < h.fw.procs.length → (h.proc n).st ≠ 3 →
          ((activate h w cmd).1.proc n).st = 4 ∨
            (((activate h w cmd).1.proc n).st = 3 ∧ 5 ≤ (h.proc n).restarts)) ∧
      (imageDigests (h.fw.flash.bank (stagedBank h)) ≠ h.fw.update.stagedDigest →
        (activate h w cmd).1.fw.update.trial = false ∧ (activate h w cmd).1.fw.update.lastResult = 0x0609)) ∧
    (Serves s (.fwCancel k) d →
      (s.hub.fw.update.deferred = true →
        exec (.fwCancel k) s = .next (completed s (s.hub.setUpdate (fun u => { u with deferred := false })) s.work k 0 [])) ∧
      (s.hub.fw.update.deferred = false → (s.hub.fw.update.stage = 1 ∨ s.hub.fw.update.stage = 2) →
        exec (.fwCancel k) s = .next (completed s (s.hub.setUpdate (fun u => { u with stage := 0 })) s.work k 0 [])) ∧
      (s.hub.fw.update.deferred = false → s.hub.fw.update.stage ≠ 1 → s.hub.fw.update.stage ≠ 2 →
        exec (.fwCancel k) s = .next (completed s s.hub s.work k 0x060A []))) ∧
    (∀ b : List Byte, Serves s (.configStage k) d → fld d.payload 0x10 4 = cfgBytes → fld d.payload 8 8 % 4096 = 0 →
      inLpddr s.hub (fld d.payload 8 8) cfgBytes = true → fwRead s.hub s.work (fld d.payload 8 8) cfgBytes = .ok b →
      exec (.configStage k) s =
        .next
          (if cfgCode s.hub.ident.serial b = 0 then
            completed s { s.hub with fw := { s.hub.fw with flash := writeCfg s.hub.fw.flash s.hub.sec.cfgSource b } } s.work k
              0 []
          else completed s s.hub s.work k (cfgCode s.hub.ident.serial b) []))

/-- The commands that FW2 serves on tables and ports (14 R446, 12 R363, R366, R370, R372, R395): a module number is set once;
route and Ethernet entries are replaced from memory; the retransmission time lies between 5 µs and 10 ms; PORT_STATUS
answers the port's state and counts; PORT_RESET retrains the port, and is done at once while the fabric reference is lost;
injection rules load in test mode only. -/
def Obligations.FabricTablesAndPortsAreSet : Prop :=
  ∀ (s : State) (k : Nat) (d : Desc),
    (Serves s (.setModuleNumber k) d → fld d.payload 8 4 ≤ 0x1FFFE →
      (s.hub.ident.numberValid = true → exec (.setModuleNumber k) s = .next (completed s s.hub s.work k 0x0606 [])) ∧
      (s.hub.ident.numberValid = false →
        exec (.setModuleNumber k) s =
          .next (completed s
            { s.hub with
              ident := { s.hub.ident with number := BitVec.ofNat 17 (fld d.payload 8 4), numberValid := true } }
            s.work k 0 []))) ∧
    (∀ b : List Byte, Serves s (.loadRoutes k) d → fld d.payload 0x14 4 ≠ 0 →
      fld d.payload 0x10 4 + fld d.payload 0x14 4 ≤ 131072 → fld d.payload 0x18 1 ≠ 0 → fld d.payload 0x18 1 ≤ 3 →
      srcArg s.hub (fld d.payload 8 8) (2 * fld d.payload 0x14 4) 64 = true →
      fwRead s.hub s.work (fld d.payload 8 8) (2 * fld d.payload 0x14 4) = .ok b →
      exec (.loadRoutes k) s =
        .next (completed s s.hub
          (s.work.setFabric (fun f =>
            { f with
              routes0 := if bitOf (fld d.payload 0x18 1) 0 then
                  replaceEntries f.routes0 (fld d.payload 0x10 4) (fld d.payload 0x14 4)
                    (routeEntries b (fld d.payload 0x10 4) (fld d.payload 0x14 4))
                else f.routes0
              routes1 := if bitOf (fld d.payload 0x18 1) 1 then
                  replaceEntries f.routes1 (fld d.payload 0x10 4) (fld d.payload 0x14 4)
                    (routeEntries b (fld d.payload 0x10 4) (fld d.payload 0x14 4))
                else f.routes1 })) k 0 [])) ∧
    (∀ b : List Byte, Serves s (.loadEthTable k) d → fld d.payload 0x10 4 + fld d.payload 0x14 4 ≤ 4096 →
      srcArg s.hub (fld d.payload 8 8) (32 * fld d.payload 0x14 4) 64 = true →
      fwRead s.hub s.work (fld d.payload 8 8) (32 * fld d.payload 0x14 4) = .ok b →
      exec (.loadEthTable k) s =
        .next (completed s s.hub
          (s.work.setFabric (fun f =>
            { f with
              ethTable := replaceEntries f.ethTable (fld d.payload 0x10 4) (fld d.payload 0x14 4)
                ((List.range (fld d.payload 0x14 4)).map (fun i =>
                  (fld d.payload 0x10 4 + i, ethEntryOf (b.drop (32 * i))))) })) k 0 [])) ∧
    (∀ b : List Byte, Serves s (.loadInjection k) d → fld d.payload 0x10 1 + fld d.payload 0x11 1 ≤ 32 →
      srcArg s.hub (fld d.payload 8 8) (32 * fld d.payload 0x11 1) 64 = true →
      (s.hub.ident.cfg.testMode = false → exec (.loadInjection k) s = .next (completed s s.hub s.work k 0x050A [])) ∧
      (s.hub.ident.cfg.testMode = true → fld d.payload 0x11 1 ≠ 0 →
        fwRead s.hub s.work (fld d.payload 8 8) (32 * fld d.payload 0x11 1) = .ok b →
        ((List.range (fld d.payload 0x11 1)).map (fun i => (b.drop (32 * i)).take 32)).any ruleBad = false →
        exec (.loadInjection k) s =
          .next (completed s s.hub
            (s.work.setFabric (fun f =>
              { f with
                rules := putRules f.rules (fld d.payload 0x10 1)
                  (((List.range (fld d.payload 0x11 1)).map (fun i => (b.drop (32 * i)).take 32)).map ruleOf) }))
            k 0 []))) ∧
    (Serves s (.setTransport k) d →
      ((fld d.payload 8 4 < 5 ∨ 10000 < fld d.payload 8 4) →
        exec (.setTransport k) s = .next (completed s s.hub s.work k 0x0604 [])) ∧
      (5 ≤ fld d.payload 8 4 → fld d.payload 8 4 ≤ 10000 →
        exec (.setTransport k) s =
          .next (completed s s.hub (s.work.setFabric (fun f => { f with rtoUs := fld d.payload 8 4 })) k 0 []))) ∧
    (Serves s (.portStatus k) d → fld d.payload 8 1 ≤ 15 →
      exec (.portStatus k) s =
        .next (completed s s.hub s.work k 0
          (leBytes 4 (portCode (portOf s.work (fld d.payload 8 1)).st) ++
            leBytes 4 (portOf s.work (fld d.payload 8 1)).replays ++
            leBytes 4 (portOf s.work (fld d.payload 8 1)).retrains ++
            leBytes 4 (portOf s.work (fld d.payload 8 1)).c0Over))) ∧
    (Serves s (.portReset k) d → fld d.payload 8 1 ≤ 15 →
      (s.work.fabric.referenceLost = true → exec (.portReset k) s = .next (completed s s.hub s.work k 0 [])) ∧
      (s.work.fabric.referenceLost = false →
        exec (.portReset k) s =
          .next { s with
            hub := s.hub.setMailbox k (fun m => { m with busyLong := true })
            work := s.work.setPort (fld d.payload 8 1) startRetrain }))

/-- The commands that FW2 serves on groups (14 R446, 12 R384 to R386, R394): the gazetteer moves and a collective queue is
set only while nothing runs there; a queue whose stop is cleared reads its ring; the next sequence of a group is written
while nothing of the group is in flight, and ends its wait; a group change writes the pending fields of this member and
tells every other one, in parts, and completes once all have answered, or with the code of a message refused. -/
def Obligations.GroupCommandsTakeEffect : Prop :=
  ∀ (s : State) (k : Nat) (d : Desc),
    (Serves s (.setGazBase k) d → addrArg s.hub (fld d.payload 0x10 8) 0x80000 4096 = true →
      (s.work.colls.queues.any cqRuns = true → exec (.setGazBase k) s = .next (completed s s.hub s.work k 0x0606 [])) ∧
      (s.work.colls.queues.any cqRuns = false →
        exec (.setGazBase k) s =
          .next (completed s s.hub (s.work.setFabric (fun f => { f with gazBase := fld d.payload 0x10 8 })) k 0 []))) ∧
    (Serves s (.setCq k) d → fld d.payload 8 1 ≤ 15 → fld d.payload 0x18 1 ≤ 1 →
      ringArgsOk (fld d.payload 0x10 8) (fld d.payload 9 1) = true →
      (cqRuns (collQ s.work (fld d.payload 8 1)) = true →
        exec (.setCq k) s = .next (completed s s.hub s.work k 0x0606 [])) ∧
      (cqRuns (collQ s.work (fld d.payload 8 1)) = false → fld d.payload 0x18 1 = 0 →
        exec (.setCq k) s =
          .next (completed s s.hub
            (s.work.setCollQ (fld d.payload 8 1) (fun _ =>
              { resetCollQueue with
                base := fld d.payload 0x10 8, log2 := fld d.payload 9 1
                nextSeq := BitVec.ofNat 32 (fld d.payload 0x0C 4) })) k 0 [])) ∧
      (cqRuns (collQ s.work (fld d.payload 8 1)) = false → fld d.payload 0x18 1 = 1 →
        (ringPlaced s.hub (fld d.payload 0x10 8) (fld d.payload 9 1) = false →
          exec (.setCq k) s = .next (completed s s.hub s.work k 0x0103 [])) ∧
        (ringPlaced s.hub (fld d.payload 0x10 8) (fld d.payload 9 1) = true →
          exec (.setCq k) s =
            .next (completed s s.hub
              ((sealRing s.hub s.work (fld d.payload 0x10 8) (fld d.payload 9 1)
                (BitVec.ofNat 32 (fld d.payload 0x0C 4))).setCollQ (fld d.payload 8 1) (fun _ =>
                  { resetCollQueue with
                    enabled := true, base := fld d.payload 0x10 8, log2 := fld d.payload 9 1
                    nextSeq := BitVec.ofNat 32 (fld d.payload 0x0C 4) })) k 0 [])))) ∧
    (Serves s (.cqClearStop k) d → fld d.payload 8 1 ≤ 15 →
      exec (.cqClearStop k) s =
        .next (completed s s.hub
          (readColl s.hub
            (s.work.setCollQ (fld d.payload 8 1) (fun q => { q with stopped := false, stopCode := 0 }))
            (fld d.payload 8 1)) k 0 [])) ∧
    (Serves s (.setNextSeq k) d → fld d.payload 8 2 ≤ 4095 →
      (groupInFlight s.work (fld d.payload 8 2) = true →
        exec (.setNextSeq k) s = .next (completed s s.hub s.work k 0x0606 [])) ∧
      (groupInFlight s.work (fld d.payload 8 2) = false →
        exec (.setNextSeq k) s =
          .next (completed s s.hub
            (endGroupWait s.hub
              (physWrite s.hub s.work (gazAddr s.work (fld d.payload 8 2) + 0x20) ((d.payload.drop 0x0C).take 4))
              (fld d.payload 8 2)) k 0 []))) ∧
    (∀ b : List Byte, Serves s (.groupChange k) d → fld d.payload 8 2 ≤ 4095 → fld d.payload 0x18 4 ≠ 0 →
      fld d.payload 0x18 4 ≤ 65536 → addrArg s.hub (fld d.payload 0x10 8) (4 * fld d.payload 0x18 4) 64 = true →
      gazEntry s.hub s.work (fld d.payload 8 2) = .ok b →
      ((gazValid b = false ∨ fld b 8 4 ≠ 0 ∨ bitOf (fld b 0x28 4) 0 = true) →
        exec (.groupChange k) s = .next (completed s s.hub s.work k 0x0606 [])) ∧
      (∀ (old new others : List Nat) (w : Work), gazValid b = true → fld b 8 4 = 0 → bitOf (fld b 0x28 4) 0 = false →
        gazMembers s.hub s.work b = .ok old →
        memberArray s.hub s.work (fld d.payload 0x10 8) (fld d.payload 0x18 4) = .ok new →
        others = ((old ++ new).filter (fun m => !isSelf s.hub m)).eraseDups →
        w = pendingFields s.hub s.work (fld d.payload 8 2) (fld d.payload 0x1C 4)
          (BitVec.ofNat 32 (fld d.payload 0x0C 4)) (fld d.payload 0x10 8) (fld d.payload 0x18 4)
          (pendingIndex new (ownNumber s.hub)) →
        (others = [] → exec (.groupChange k) s = .next (completed s s.hub w k 0 [])) ∧
        (∀ (w2 : Work) (c : Code), others ≠ [] →
          tellMembers s.hub w (fld d.payload 8 2) (fld d.payload 0x1C 4) (BitVec.ofNat 32 (fld d.payload 0x0C 4))
            (fld d.payload 0x10 8) new others = (w2, c) →
          (c ≠ 0 → exec (.groupChange k) s = .next (completed s s.hub w2 k c [])) ∧
          (c = 0 →
            exec (.groupChange k) s =
              .next (afterCommand s k
                (s.hub.setMailbox k (fun m => { m with busyLong := true }),
                  w2.setFabric (fun f =>
                    { f with
                      changes :=
                        ⟨fld d.payload 8 2, k, others.flatMap (fun m => (groupParts new).map (fun _ => m))⟩ ::
                          f.changes.filter (fun x => x.group != fld d.payload 8 2) })))))))

/-- The commands that FW3 serves (14 R446, 11 R332, R333, R349, 13 R423): a home's quarantine list is copied out; a
quarantined line is cleared by a write of the whole line; a directory entry is copied out in directory mode; an engine
retires once, its SRAM contents are lost, and it is present no more; the fault counts are answered.

The commands that FW4 and FW5 serve (14 R442, R446, 08 R215, 11 R322, 17 R509): mailboxes other than 0 open and close;
the tensor table and the translation table of every engine change only while no stream, step or copier runs; telemetry
answers the last samples (log 33), the ports and the commands served; a crash dump is cleared; a log ring is set. -/
def Obligations.RasAndServiceCommandsTakeEffect : Prop :=
  (∀ (s : State) (k : Nat) (d : Desc),
    (Serves s (.quarantineRead k) d → fld d.payload 8 1 ≤ 23 → addrArg s.hub (fld d.payload 0x10 8) 2048 64 = true →
      exec (.quarantineRead k) s =
        .next (completed s s.hub
          (physWrite s.hub s.work (fld d.payload 0x10 8)
            (padTo 2048 ((s.work.coh.home (fld d.payload 8 1)).quarantine.flatMap (fun ln => leBytes 8 (ln * 128)))))
          k 0
          (leBytes 2 (s.work.coh.home (fld d.payload 8 1)).quarantine.length ++
            leBytes 1 (if (s.work.coh.home (fld d.payload 8 1)).overflow then 1 else 0)))) ∧
    (Serves s (.quarantineClear k) d → addrArg s.hub (fld d.payload 8 8) 128 128 = true →
      exec (.quarantineClear k) s =
        .next (completed s s.hub (physWrite s.hub s.work (fld d.payload 8 8) (List.replicate 128 0)) k 0 [])) ∧
    (Serves s (.dirRead k) d → addrArg s.hub (fld d.payload 8 8) 64 64 = true →
      addrArg s.hub (fld d.payload 0x10 8) 16 16 = true →
      (s.hub.ident.cfg.coherenceMode = false → exec (.dirRead k) s = .next (completed s s.hub s.work k 0x0606 [])) ∧
      (s.hub.ident.cfg.coherenceMode = true →
        exec (.dirRead k) s =
          .next (completed s s.hub
            (physWrite s.hub s.work (fld d.payload 0x10 8)
              (dirRecord ((s.work.coh.home (lineHome (lineOf (fld d.payload 8 8)))).dir.find?
                (fun x => x.line == lineOf (fld d.payload 8 8))))) k 0 []))) ∧
    (Serves s (.retireEngine k) d → fld d.payload 8 1 ≤ 71 →
      (retired s.hub (fld d.payload 8 1) = true →
        exec (.retireEngine k) s = .next (completed s s.hub s.work k 0x0606 [])) ∧
      (retired s.hub (fld d.payload 8 1) = false →
        ∀ x : Hub × Work, x = retireNow s.hub s.work (fld d.payload 8 1) →
          exec (.retireEngine k) s = .next (completed s x.1 x.2 k 0 []) ∧ present x.1 (fld d.payload 8 1) = false ∧
          (∀ e, e ≠ fld d.payload 8 1 → present x.1 e = present s.hub e) ∧ x.1.safety = s.hub.safety)) ∧
    (Serves s (.rasCounts k) d → fld d.payload 8 1 = 0xFF →
      exec (.rasCounts k) s =
        .next (completed s s.hub s.work k 0
          (leBytes 4 0 ++ leBytes 4 0 ++ leBytes 4 0 ++ leBytes 4 s.work.coh.homeRing ++ leBytes 4 s.work.coh.eccRetries))) ∧
    (Serves s (.rasCounts k) d → fld d.payload 8 1 ≤ 71 →
      exec (.rasCounts k) s =
        .next (completed s s.hub s.work k 0
          (leBytes 4 (s.work.engine (fld d.payload 8 1)).ras.sram ++ leBytes 4 (s.work.engine (fld d.payload 8 1)).ras.tile ++
            leBytes 4 (s.work.engine (fld d.payload 8 1)).ras.arrayWord ++
            leBytes 4 (s.work.engine (fld d.payload 8 1)).ras.ring ++ leBytes 4 0)))) ∧
  (∀ (s : State) (k : Nat) (d : Desc),
    (Serves s (.mbOpen k) d → fld d.payload 8 1 ≠ 0 → fld d.payload 8 1 ≤ 15 → fld d.payload 0x0B 1 ≤ 1 →
      ringArgsOk (fld d.payload 0x10 8) (fld d.payload 9 1) = true →
      ringArgsOk (fld d.payload 0x18 8) (fld d.payload 0x0A 1) = true →
      ((s.hub.mailbox (fld d.payload 8 1)).isOpen = true →
        exec (.mbOpen k) s = .next (completed s s.hub s.work k 0x0606 [])) ∧
      (∀ m : Mailbox, (s.hub.mailbox (fld d.payload 8 1)).isOpen = false →
        ringPlaced s.hub (fld d.payload 0x10 8) (fld d.payload 9 1) = true →
        ringPlaced s.hub (fld d.payload 0x18 8) (fld d.payload 0x0A 1) = true →
        m = { resetMailbox with
              isOpen := true, priv := fld d.payload 0x0B 1 == 1, cmdBase := fld d.payload 0x10 8
              cmdLog2 := fld d.payload 9 1, cplBase := fld d.payload 0x18 8, cplLog2 := fld d.payload 0x0A 1
              doneSeq := 0xFFFFFFFF } →
        exec (.mbOpen k) s =
          .next (completed s (s.hub.setMailbox (fld d.payload 8 1) (fun _ => m))
            (openMailbox s.hub s.work (fld d.payload 8 1) m) k 0 []))) ∧
    (Serves s (.mbClose k) d → fld d.payload 8 1 ≠ 0 → fld d.payload 8 1 ≤ 15 →
      exec (.mbClose k) s =
        .next (completed s (closeMailbox s.hub s.work (fld d.payload 8 1)).1
          (closeMailbox s.hub s.work (fld d.payload 8 1)).2 k 0 [])) ∧
    (Serves s (.setTensorTable k) d → fld d.payload 8 1 ≤ 20 → fld d.payload 0x10 8 % 4096 = 0 →
      (fld d.payload 8 1 ≠ 0 → inLpddr s.hub (fld d.payload 0x10 8) (256 * 2 ^ fld d.payload 8 1) = true) →
      ((streamsRun s.work = true ∨ s.work.upd.phase ≠ 0) →
        exec (.setTensorTable k) s = .next (completed s s.hub s.work k 0x0606 [])) ∧
      (streamsRun s.work = false → s.work.upd.phase = 0 →
        exec (.setTensorTable k) s =
          .next (completed s s.hub (setTensorTable s.work (fld d.payload 8 1) (fld d.payload 0x10 8)) k 0 []))) ∧
    (Serves s (.setXlate k) d → fld d.payload 8 1 ≤ 1 → fld d.payload 0x10 8 % 8192 = 0 →
      (fld d.payload 8 1 = 1 → inLpddr s.hub (fld d.payload 0x10 8) 8192 = true) →
      ((streamsRun s.work = true ∨ s.work.upd.phase ≠ 0 ∨ s.work.copier.phase ≠ 0) →
        exec (.setXlate k) s = .next (completed s s.hub s.work k 0x0606 [])) ∧
      (streamsRun s.work = false → s.work.upd.phase = 0 → s.work.copier.phase = 0 →
        exec (.setXlate k) s =
          .next (completed s s.hub (setXlate s.work (fld d.payload 8 1 == 1) (fld d.payload 0x10 8)) k 0 []))) ∧
    (Serves s (.telemetry k) d →
      exec (.telemetry k) s =
        .next (completed s s.hub s.work k 0
          (leBytes 4 (toFp32 (.fin false s.hub.safety.power 1)) ++ leBytes 2 s.hub.safety.measuredMv ++
            leBytes 2 (hottest s.hub.safety) ++ leBytes 2 (maskOf 16 (portIsUp s.work)) ++ leBytes 2 0 ++
            leBytes 4 (min (s.work.fabric.ports.map (fun p => p.c0Over)).sum max32) ++ leBytes 8 s.hub.fw.served))) ∧
    (Serves s (.dumpClear k) d → fld d.payload 8 1 ≤ 5 →
      exec (.dumpClear k) s =
        .next (completed s
          (s.hub.setProc (fld d.payload 8 1) (fun x => { x with dump := { x.dump with valid := false, lost := 0 } }))
          s.work k 0 [])) ∧
    (Serves s (.setLogRing k) d → fld d.payload 8 1 ≤ 11 → ringArgsOk (fld d.payload 0x10 8) (fld d.payload 9 1) = true →
      (ringPlaced s.hub (fld d.payload 0x10 8) (fld d.payload 9 1) = false →
        exec (.setLogRing k) s = .next (completed s s.hub s.work k 0x0103 [])) ∧
      (ringPlaced s.hub (fld d.payload 0x10 8) (fld d.payload 9 1) = true →
        exec (.setLogRing k) s =
          .next (completed s s.hub
            ((sealRing s.hub s.work (fld d.payload 0x10 8) (fld d.payload 9 1) 0).setLogs (fun l =>
              { l with
                heads := l.heads.set (fld d.payload 8 1) 0
                rings := l.rings.set (fld d.payload 8 1) (some ⟨fld d.payload 0x10 8, fld d.payload 9 1, 0⟩) }))
            k 0 []))))

/-- The firmware processors (14 R450 to R455, R462): a watchdog expiry, a panic, an exception that the firmware does not handle
and a parity error in a private SRAM stop the processor with their reason, count the restart, leave a dump unless one is there
already, and hold it as failed at its sixth restart; during a trial the module goes back to the previous bank; a restart that
completes brings the processor back, FW1 in Module standby too; a trial that is confirmed ends. -/
def Obligations.FirmwareProcessorsRestart : Prop :=
  ∀ (s : State) (n : Nat) (sixth : Bool) (b : DumpData),
    (∀ (c : Instr) (reason : Nat), fwRuns s.hub n = true →
      (c, reason) ∈ [(.watchdogExpiry n sixth b, 1), (.firmwarePanic n sixth false b, 2),
        (.firmwarePanic n sixth true b, 3), (.privateSramParity n sixth b, 4)] →
      exec c s =
        .next { s with
          hub := (triggerRestart s.hub s.work n reason sixth (some b)).1
          work := (triggerRestart s.hub s.work n reason sixth (some b)).2 } ∧
      (n < s.hub.fw.procs.length → ∀ h : Hub, h = (triggerRestart s.hub s.work n reason sixth (some b)).1 →
        h.safety = s.hub.safety ∧ fwRuns h n = false ∧ (h.proc n).dump.valid = true ∧
        (s.hub.fw.update.trial = false →
          (h.proc n).st = (if sixth then 3 else 2) ∧ (h.proc n).lastReason = reason ∧
            (h.proc n).restarts = (s.hub.proc n).restarts + 1) ∧
        (s.hub.fw.update.trial = true → h.fw.update.trial = false ∧ h.fw.update.lastResult = 0x0609))) ∧
    ((s.hub.proc n).st = 2 ∨ (s.hub.proc n).st = 4 → s.hub.ident.powered = true → s.hub.safety.refFail = false →
      (s.hub.ident.powerState ≠ 2 ∨ n = 1) → n < s.hub.ident.fwAlive.length →
      ∃ t : State, exec (.fwRestartComplete n) s = .next t ∧ (t.hub.proc n).st = 1 ∧ fwRuns t.hub n = true ∧
        t.hub.safety = s.hub.safety) ∧
    (s.hub.fw.update.trial = true → (List.range 6).all (fwRuns s.hub) = true →
      ∃ t : State, exec .trialConfirm s = .next t ∧ t.hub.fw.update.trial = false ∧
        t.hub.fw.update.lastResult = 0 ∧ (bankRecord t.hub.fw.flash).trial = false ∧ t.hub.ident = s.hub.ident)

/-! ### Resets and power (15, 19) -/

/-- Resets (15 R487 to R493, 14 R447): a cold power-on starts a module that is Off, its reference present, with every limit
at its default until the boot has read the record, or waits for its reference; below 50 V, or with PRESENT_N high, nothing
starts; a module warm reset keeps the safety partition but for FW1's request, the
ledger and the trip log; an engine-complex reset makes ENGINE_COMPLEX_READY 0, loses engine SRAM and the
operations, tiles and streams of every engine, and keeps the rest of identity, firmware, safety and security state;
ENGINE_COMPLEX_READY ends it, and the reset requests that waited go on; a reset of a module that is Off or stops, or of a
complex that does not run, is ignored.

The host link (15 R490): a link that fails is down; one that is retrained is up; one that stays down for 2 ms resets the
engine complex. -/
def Obligations.ResetsAndHostLinkAct : Prop :=
  (∀ s : State,
    ((s.hub.ident.powered = false ∨ s.hub.sec.coldWaits = true) → s.hub.safety.refFail = false →
      ∃ t : State, exec (.coldPowerOn true true) s = .next t ∧ t.hub.ident.powered = true ∧
        t.hub.safety.tripCount = s.hub.safety.tripCount ∧ t.hub.safety.tripLog = s.hub.safety.tripLog ∧
        t.hub.safety.capMv = 750 ∧ t.hub.safety.requestMv = 650 ∧ t.work.engines = resetWork.engines ∧
        t.work.copier = resetCopier ∧ t.hub.sec.coldWaits = false) ∧
    (mayReset s.hub = true →
      ∃ t : State, exec .moduleWarmReset s = .next t ∧ t.hub.ident.complexReady = false ∧
        t.work.copier.ledger = s.work.copier.ledger ∧ t.work.engines = resetWork.engines ∧
        t.hub.fw.flash.counterOk = s.hub.fw.flash.counterOk ∧
        (s.hub.sec.coldWaits = false → t.hub.safety = { s.hub.safety with requestMv := 650 })) ∧
    (s.hub.ident.powered = false → s.hub.safety.refFail = true →
      exec (.coldPowerOn true true) s = .next { s with hub := coldHub s.hub, work := coldWork s.work }) ∧
    (∀ a b : Bool, (a && b) = false → exec (.coldPowerOn a b) s = .next s) ∧
    (mayReset s.hub = false → exec .moduleWarmReset s = .next s) ∧
    (complexRuns s.hub = false → exec .engineComplexReset s = .next s) ∧
    (complexRuns s.hub = true →
      ∃ t : State, exec .engineComplexReset s = .next t ∧
        t.hub = { s.hub with ident := { s.hub.ident with complexReady := false } } ∧
        (∀ c ∈ t.work.mem, c.1 < lpddrEnd s.hub) ∧ t.work.tables = s.work.tables ∧
        (∀ e, (t.work.engine e).ops = [] ∧ (t.work.engine e).tiles = (resetEngine e).tiles ∧
          ∀ q, t.work.stream e q = resetStream)) ∧
    (s.hub.ident.powered = true → s.hub.ident.bootDone = true → s.hub.sec.stoppedBoot = false →
      s.hub.safety.refFail = false → s.hub.ident.powerState ≠ 2 → s.hub.ident.complexReady = false →
      ∃ h : Hub, h = { s.hub with ident := { s.hub.ident with complexReady := true } } ∧
        (s.hub.fw.pendingResets = [] → exec .engineComplexReady s = .next { s with hub := h }) ∧
        exec .engineComplexReady s =
          .next { s with
            hub := (serveResets s.hub.fw.pendingResets ({ h with fw := { h.fw with pendingResets := [] } }, s.work)).1
            work :=
              (serveResets s.hub.fw.pendingResets ({ h with fw := { h.fw with pendingResets := [] } }, s.work)).2 })) ∧
  (∀ (s : State) (link : Nat), s.hub.ident.powered = true →
    exec (.hostLinkFailure link) s =
      .next { s with
        hub := { s.hub with ident := { s.hub.ident with links := s.hub.ident.links.set link false } } } ∧
    (s.hub.ident.powerState ≠ 2 →
      exec (.hostLinkRetrained link) s =
        .next { s with
          hub := { s.hub with ident := { s.hub.ident with links := s.hub.ident.links.set link true } } }) ∧
    (s.hub.ident.links.getD link true = false → complexRuns s.hub = true →
      ∃ t : State, exec (.hostLinkTimeout link) s = .next t ∧
        t.hub = { s.hub with ident := { s.hub.ident with complexReady := false } }))

/-- Over-current (15 R470, R471, R474, R475, R478): the first action lowers CAP_MV to 10 mV below the applied setpoint, but
not below 600 mV, is an emergency and enters a trip of code 0x0702; CAP_MV falls by 10 mV at a time while the condition
holds, and then every engine parks; a sample at or below the limit releases the response (what the rails measure in a sample
is free, log 96); CAP_MV rises by 10 mV at a time up to 750 mV; FW1's request moves the setpoint within 600 mV to 750 mV, and
not upward while the input power lies above its cap (log 97). -/
def Obligations.OvercurrentLowersTheRail : Prop :=
  ∀ s : State, s.hub.ident.powered = true →
    (∀ c : Instr,
      (c = .peakOvercurrent ∧ s.hub.safety.peakW < s.hub.safety.power ∧ s.hub.safety.ocPeak = false) ∨
        (c = .sustainedOvercurrent ∧ s.hub.safety.sustainedW < s.hub.safety.power ∧ s.hub.safety.ocSustained = false) →
      ∃ t : State, exec c s = .next t ∧
        t.hub.safety.capMv = max 600 (min s.hub.safety.requestMv s.hub.safety.capMv - 10) ∧
        emergency t.hub.safety = true ∧ t.hub.ident = s.hub.ident ∧ t.hub.safety.limits = s.hub.safety.limits ∧
        Tripped s t 0x0702 0xFF s.hub.safety.power) ∧
    (∀ power volts : Nat,
      ∃ (mv : Nat) (rails : List Rail), mv ≤ 1023 ∧
        rails.map (fun r => (r.low, r.high)) = s.hub.safety.rails.map (fun r => (r.low, r.high)) ∧
        exec (.inputSample power volts) s =
          .next { s with
            hub := { s.hub with
              safety := { s.hub.safety with
                power := min power 65535, voltage := min volts 65535, measuredMv := mv, rails := rails
                ocPeak := s.hub.safety.ocPeak && decide (s.hub.safety.peakW < power)
                ocSustained := s.hub.safety.ocSustained && decide (s.hub.safety.sustainedW < power) } }
            work := s.work.tick }) ∧
    (conditionHolds s.hub.safety = true →
      (600 < s.hub.safety.capMv →
        ∃ t : State, exec .capStep s = .next t ∧
          t.hub = { s.hub with safety := { s.hub.safety with capMv := max 600 (s.hub.safety.capMv - 10) } }) ∧
      (s.hub.safety.capMv ≤ 600 → s.hub.safety.ocParked = false →
        exec .overcurrentPark s =
          .next { s with hub := { s.hub with safety := { s.hub.safety with ocParked := true } } })) ∧
    (conditionHolds s.hub.safety = false → s.hub.safety.ocParked = true →
      ∃ t : State, exec .overcurrentParkRelease s = .next t ∧
        t.hub = { s.hub with safety := { s.hub.safety with ocParked := false } }) ∧
    (100 * s.hub.safety.power ≤ 95 * s.hub.safety.sustainedW → s.hub.safety.capMv < 750 →
      ∃ t : State, exec .capRaise s = .next t ∧
        t.hub = { s.hub with safety := { s.hub.safety with capMv := min 750 (s.hub.safety.capMv + 10) } }) ∧
    (∀ mv : Nat, fwRuns s.hub 1 = true →
      (600 ≤ mv → mv ≤ 750 → mv % 5 = 0 →
        (mv ≤ s.hub.safety.requestMv ∨ s.hub.safety.power ≤ s.hub.fw.powerCap) →
        exec (.railRequest mv) s =
          .next { s with hub := { s.hub with safety := { s.hub.safety with requestMv := mv } } }) ∧
      ((mv < 600 ∨ 750 < mv ∨ mv % 5 ≠ 0 ∨ (s.hub.safety.requestMv < mv ∧ s.hub.fw.powerCap < s.hub.safety.power)) →
        exec (.railRequest mv) s = .next s))

/-- Orderly stops, temperature and the reference (15 R474, R477, R478, 19 R540, R551): an input voltage or a rail outside its
window, a die at STOP_C and PRESENT_N high stop the module in order: it is Off, with a trip of the code and the reading that
tripped; a die at PARK_C parks every engine with 0x0703 until every die is at or below RELEASE_C; a lost reference is a trip
of 0x0706, and its return starts a module warm reset, or the boot that waited for it. (The codes 0x0704 and 0x0705 of the stops are the model's reading,
log 47.) -/
def Obligations.TripsStopOrParkTheModule : Prop :=
  ∀ s : State, s.hub.ident.powered = true →
    (∀ (c : Instr) (volts : Nat),
      (c = .underVoltage volts ∧ volts < s.hub.safety.underV) ∨ (c = .overVoltage volts ∧ s.hub.safety.overV < volts) ∨
        c = .presentNRelease volts →
      ∃ t : State, exec c s = .next t ∧ Stopped t ∧ Tripped s t 0x0704 0xFF volts) ∧
    (∀ rail mv : Nat, rail < 8 →
      (mv < (s.hub.safety.rails.getD rail ⟨0, 0, 0⟩).low ∨ (s.hub.safety.rails.getD rail ⟨0, 0, 0⟩).high < mv) →
      ∃ t : State, exec (.railWindowTrip rail mv) s = .next t ∧ Stopped t ∧ Tripped s t 0x0705 rail mv) ∧
    (∀ temps : List Nat, temps.length = 9 →
      (∀ d c : Nat, hotDie temps s.hub.safety.stopC = some (d, c) →
        ∃ t : State, exec (.tempSample temps) s = .next t ∧ Stopped t ∧ Tripped s t 0x0704 d c ∧
          t.hub.safety.temps = temps) ∧
      (∀ d c : Nat, hotDie temps s.hub.safety.stopC = none → hotDie temps s.hub.safety.parkC = some (d, c) →
        s.hub.safety.thermalPark = false →
        ∃ t : State, exec (.tempSample temps) s = .next t ∧ t.hub.safety.thermalPark = true ∧
          t.hub.ident = s.hub.ident ∧ Tripped s t 0x0703 d c ∧ t.hub.safety.temps = temps) ∧
      (hotDie temps s.hub.safety.stopC = none → hotDie temps s.hub.safety.parkC = none →
        exec (.tempSample temps) s =
          .next { s with hub := { s.hub with safety := { s.hub.safety with temps := temps } } })) ∧
    (s.hub.safety.thermalPark = true → s.hub.safety.temps.all (fun x => decide (x ≤ s.hub.safety.releaseC)) = true →
      ∃ t : State, exec .thermalRelease s = .next t ∧
        t.hub = { s.hub with safety := { s.hub.safety with thermalPark := false } }) ∧
    (s.hub.safety.refFail = false →
      ∃ t : State, exec .referenceLost s = .next t ∧ t.hub.safety.refFail = true ∧ t.hub.ident = s.hub.ident ∧
        Tripped s t 0x0706 0xFF 0) ∧
    (s.hub.safety.refFail = true → s.hub.safety.stopping = false →
      ∃ h : Hub, h = { s.hub with safety := { s.hub.safety with refFail := false } } ∧
        (s.hub.ident.bootDone = true → exec .referenceRestored s = exec .moduleWarmReset { s with hub := h }) ∧
        (s.hub.ident.bootDone = false →
          exec .referenceRestored s =
            .next { s with hub := (bootAfter h s.work).1, work := (bootAfter h s.work).2 }) ∧
        ∃ t : State, exec .referenceRestored s = .next t ∧ t.hub.safety.refFail = false)

/-- Module standby ends with a wake frame: an Ethernet II frame to the port's own MAC address, of EtherType 0x88B5, whose
payload starts with MODULE_SERIAL. It acts as WAKE; in any other state, and with any other payload, the frame is discarded
(19 R546, R543). -/
def Obligations.WakeFrameActsAsWake : Prop :=
  ∀ (s : State) (toOurMac : Bool) (etherType : Nat) (payload : List Byte), i2cAnswers s.hub = true →
    (s.hub.ident.powerState = 2 → toOurMac = true → etherType = 0x88B5 →
      payload.take 8 = leBytes 8 s.hub.ident.serial.toNat →
      ∃ t u : State, exec (.wakeFrame toOurMac etherType payload) s = .next t ∧ exec .wake s = .next u ∧
        t.hub = u.hub ∧ t.hub.ident.powerState = 0 ∧ t.work.fabric = u.work.fabric ∧ t.work.mem = u.work.mem) ∧
    ((s.hub.ident.powerState ≠ 2 ∨ toOurMac = false ∨ etherType ≠ 0x88B5 ∨
        payload.take 8 ≠ leBytes 8 s.hub.ident.serial.toNat) →
      exec (.wakeFrame toOurMac etherType payload) s = .next s)

/-- The sideband, the wake timer and the debug port (19 R542 to R544, 15 R483, 16 R501): RESET_N is a module warm reset; while
it is held low no boot runs, and the boot follows when it rises; WAKE and the wake timer end Module standby, and WAKE
answers 0; an unknown command byte answers 0x0604; a vendor debug instruction selects the bypass register unless the record
opens the debug port. FAULT_N is low in an emergency, and once the boot is complete while a processor is not alive (19 R541). -/
def Obligations.SidebandAndDebugPortAct : Prop :=
  ∀ s : State,
    (emergency s.hub.safety = true → faultN s.hub = false) ∧
    (∀ n : Nat, n < 6 → s.hub.ident.bootDone = true → s.hub.ident.fwAlive.getD n false = false → faultN s.hub = false) ∧
    (emergency s.hub.safety = false → s.hub.ident.bootDone = false → faultN s.hub = true) ∧
    (emergency s.hub.safety = false → (∀ n, n < 6 → s.hub.ident.fwAlive.getD n false = true) → faultN s.hub = true) ∧
    (mayReset s.hub = true →
      exec .resetN s = exec .moduleWarmReset s ∧ (∃ t : State, exec .resetN s = .next t) ∧
      (∃ t : State, exec .spiRecovery s = .next t ∧ t.hub.sec.spiOpen = true ∧ t.hub.ident.bootDone = false) ∧
      (s.hub.sec.spiOpen = true →
        ∃ t : State, exec .spiRecoveryEnd s = .next t ∧ t.hub.sec.spiOpen = false ∧
          (s.hub.safety.refFail = false → t.hub.ident.bootDone = true))) ∧
    (i2cAnswers s.hub = true →
      (∀ b : Byte, b ≠ 1 → b ≠ 2 →
        exec (.i2cUnknownCommand b) s =
          .next { s with work := { s.work with replies := { s.work.replies with i2cStatus := 0x0604, i2cData := 0 } } }) ∧
      (∃ t : State, exec .wake s = .next t ∧ t.work.replies.i2cStatus = 0 ∧
        (s.hub.ident.powerState = 2 → t.hub.ident.powerState = 0))) ∧
    (s.hub.ident.powered = true →
      (s.hub.ident.powerState = 2 →
        ∃ t : State, exec .wakeTimer s = .next t ∧ t.hub.ident.powerState = 0 ∧ t.hub.safety = s.hub.safety) ∧
      (∀ ir : Nat,
        (ir ≤ 3 ∨ s.hub.sec.debugOpen = true →
          exec (.debugInstruction ir) s =
            .next { s with hub := { s.hub with sec := { s.hub.sec with debugIr := ir, bypass := ir == 3 } } }) ∧
        (3 < ir → s.hub.sec.debugOpen = false →
          exec (.debugInstruction ir) s =
            .next { s with hub := { s.hub with sec := { s.hub.sec with debugIr := 3, bypass := true } } })))

/-! ### Attestation (16) -/

/-- The SPDM requests (16 R503 to R505; request and error codes PRESUMED, log 37): GET_VERSION, GET_CAPABILITIES and
NEGOTIATE_ALGORITHMS go through their stages, and a request before its stage is answered with an error; digests and certificates
of slot 0 are answered; a challenge of slot 0 and a signed measurement use one index of the device LMS key, and are refused
without using one when no index can be reserved; one of another slot, an unknown measurement, or a signed response beyond 200 in
10 s is answered with an error. -/
def Obligations.AttestationAnswersRequests : Prop :=
  ∀ s : State, fwRuns s.hub 0 = true →
    (∃ t : State, exec .getVersion s = .next t ∧ t.hub.sec.spdm = 1 ∧ t.work.replies.spdmCode = 0x04 ∧
      t.work.replies.spdmBody = leBytes 2 0x1200) ∧
    (∀ (c : Instr) (a b : Bool) (n m : Nat) (bs : List Byte),
      (s.hub.sec.spdm = 0 ∧ c = .getCapabilities) ∨ (s.hub.sec.spdm < 2 ∧ c = .negotiateAlgorithms a b) ∨
        (s.hub.sec.spdm < 3 ∧
          (c = .getDigests ∨ c = .getCertificate 0 n m ∨ c = .challenge n bs a ∨ c = .getMeasurements n bs a)) →
      ∃ t : State, exec c s = .next t ∧ t.hub = s.hub ∧ t.work.replies.spdmCode = 0x7F) ∧
    (1 ≤ s.hub.sec.spdm →
      ∃ t : State, exec .getCapabilities s = .next t ∧ t.hub.sec.spdm = 2 ∧ t.work.replies.spdmCode = 0x61) ∧
    (2 ≤ s.hub.sec.spdm →
      (∃ t : State, exec (.negotiateAlgorithms true true) s = .next t ∧ t.hub.sec.spdm = 3 ∧
        t.work.replies.spdmCode = 0x63) ∧
      (∀ a b : Bool, (a && b) = false →
        ∃ t : State, exec (.negotiateAlgorithms a b) s = .next t ∧ t.hub = s.hub ∧ t.work.replies.spdmCode = 0x7F)) ∧
    (3 ≤ s.hub.sec.spdm →
      (∃ t : State, exec .getDigests s = .next t ∧ t.hub = s.hub ∧
        t.work.replies.spdmBody = leBytes 1 1 ++ Config.sha384 (chainOf s.hub)) ∧
      (∀ offset len : Nat,
        ∃ t : State, exec (.getCertificate 0 offset len) s = .next t ∧ t.hub = s.hub ∧
          (t.work.replies.spdmCode, t.work.replies.spdmBody.drop 4) =
            (if offset < (chainOf s.hub).length then (0x02, ((chainOf s.hub).drop offset).take (min len 65535))
             else (0x7F, []))) ∧
      (∀ (slot index : Nat) (transcript : List Byte) (passed : Bool),
        (slot ≠ 0 →
          ∃ t : State, exec (.challenge slot transcript passed) s = .next t ∧ t.hub = s.hub ∧
            t.work.replies.spdmCode = 0x7F) ∧
        (measurementBody s.hub index = none →
          ∃ t : State, exec (.getMeasurements index transcript passed) s = .next t ∧ t.hub = s.hub ∧
            t.work.replies.spdmCode = 0x7F)) ∧
      (∀ (c : Instr) (code : Nat) (body transcript : List Byte) (index : Nat) (passed : Bool) (h : Hub),
        (c = .challenge 0 transcript passed ∧ code = 0x03 ∧ body = Config.sha384 (chainOf s.hub)) ∨
          (c = .getMeasurements index transcript passed ∧ code = 0x60 ∧ measurementBody s.hub index = some body) →
        h = (if passed then { s.hub with sec := { s.hub.sec with responses := 0 } } else s.hub) →
        (200 ≤ h.sec.responses →
          ∃ t : State, exec c s = .next t ∧ t.hub = h ∧ t.work.replies.spdmCode = 0x7F) ∧
        (h.sec.responses < 200 → s.hub.sec.lmsReady = true →
          ∃ t : State, exec c s = .next t ∧ t.hub = useIndex h ∧ t.work.replies.spdmCode = code ∧
            t.work.replies.spdmBody = body ++ bothSignatures s.hub transcript) ∧
        (h.sec.responses < 200 → s.hub.sec.lmsReady = false →
          ∃ t : State, exec c s = .next t ∧ t.hub = h ∧ t.work.replies.spdmCode = 0x7F ∧
            t.work.replies.spdmBody = leBytes 2 (if s.hub.fw.flash.counterOk then 0x0807 else 0x0808)))) ∧
    (s.hub.sec.nextIndex + 1 < 4096 * (s.hub.sec.lmsBlock + 1) →
      (useIndex s.hub).sec.nextIndex = s.hub.sec.nextIndex + 1 ∧ (useIndex s.hub).fw = s.hub.fw)

/-! ### Logs (17) -/

/-- A record of classes 1 to 10 is merged into the first waiting record whose CLASS, CODE, UNIT and STEP_NUMBER are equal: that
record keeps its DOMAIN_COUNT, CAUSAL and DETAIL, its REPEAT rises by one (up to 65,535), and no entry is taken. A trace
record is never merged, and an alarm is placed as a record of its own (17 R520). -/
def Obligations.RecordsMergeWithWaitingOnes : Prop :=
  ∀ (s : State) (r : LogSource), s.hub.ident.powered = true →
    (∀ (pre post : List QueueEntry) (q : QueueEntry), 1 ≤ r.cls → r.cls ≤ 10 →
      s.work.logs.queue = pre ++ q :: post → coalesces q.record r s.work.upd.accepted = true →
      (∀ x ∈ pre, coalesces x.record r s.work.upd.accepted = false) →
      exec (.logRecord r) s =
        .next { s with
          work := { s.work with
            logs := { s.work.logs with
              queue := pre ++ { q with record := { q.record with rep := min (q.record.rep + 1) 65535 } } :: post } } }) ∧
    (∀ (q : LogRec), coalesces q r s.work.upd.accepted = true ↔
      q.cls = r.cls ∧ q.code = r.code ∧ q.unit = r.unit ∧ q.step = s.work.upd.accepted) ∧
    (r.cls = 11 →
      ∃ t : State, exec (.logRecord r) s = .next t ∧
        (t.work.logs.queue = s.work.logs.queue ∨
          ∃ q : QueueEntry, q.record.cls = 11 ∧ t.work.logs.queue = s.work.logs.queue ++ [q])) ∧
    (∀ (dests : List Nat) (w1 : Work) (x : LogRec),
      stamp s.hub s.work 0 ⟨0, r.code, r.domain, r.unit, 0, r.detail⟩ = (w1, x) →
      exec (.alarm r dests) s =
        .next { s with
          work := queueAlarm s.hub (putAlarm s.hub (w1.setLogs (fun l => place l x)) x) x
            (alarmDests s.hub s.work dests) } ∧
      ((place w1.logs x).queue = s.work.logs.queue ∨ (place w1.logs x).queue = s.work.logs.queue ++ [⟨x, true⟩]))

/-- The rest of the log path (17 R509, R517, R519, R521, R523): a record that matches none is stamped with K + 1 and placed; a
waiting alarm leaves once the window holds its packets, or is new; FW5 writes the oldest record of a class into its ring, when
no drop summary is due and a slot is free, and forwards it where its class is forwarded; a drop summary that is due goes
before it; a class-0 record, which the funnel has written, is only forwarded. -/
def Obligations.RecordsReachTheirRings : Prop :=
  ∀ s : State, s.hub.ident.powered = true →
    (∀ r : LogSource, 1 ≤ r.cls → r.cls ≤ 11 →
      (11 ≤ r.cls ∨ s.work.logs.queue.any (fun q => coalesces q.record r s.work.upd.accepted) = false) →
      ∃ t : State, exec (.logRecord r) s = .next t ∧ t.work.logs.causal = s.work.logs.causal + 1 ∧
        t.hub = s.hub ∧ t.work.mem = s.work.mem ∧
        (sharedUsed s.work.logs < 704 →
          ∃ x : LogRec, t.work.logs.queue = s.work.logs.queue ++ [⟨x, true⟩] ∧ x.cls = r.cls ∧ x.code = r.code ∧
            x.unit = r.unit ∧ x.step = s.work.upd.accepted ∧ x.causal = s.work.logs.causal + 1 ∧ x.rep = 0)) ∧
    (∀ (passed : Bool) (a : AlarmEntry) (rest : List AlarmEntry), s.work.logs.alarmQueue = a :: rest →
      (passed = true ∨ s.work.logs.alarmWindow = 0 ∨ s.work.logs.alarmWindow + a.dests.length ≤ 24) →
      exec (.alarmSend passed) s =
        .next { s with
          work := sendAlarmTo s.hub
            (s.work.setLogs (fun l =>
              { l with alarmQueue := rest, alarmWindow := if passed then 0 else l.alarmWindow }))
            a.record a.dests }) ∧
    (∀ (cls : Nat) (r : LogRec) (rest : List QueueEntry), fwRuns s.hub 5 = true →
      takeRecord cls s.work.logs.queue = some (r, rest) →
      (cls = 0 →
        exec (.logRingWrite cls) s =
          .next { s with work := forwardRecord s.hub (s.work.setLogs (fun l => { l with queue := rest })) r }) ∧
      (cls ≠ 0 → (s.work.logs.unsummed.getD cls (0, 0)).1 = 0 → ringFree s.work.logs cls = true →
        exec (.logRingWrite cls) s =
          .next { s with
            work := forwardRecord s.hub
              (putRing s.hub (s.work.setLogs (fun l => { l with queue := rest })) cls r) r }) ∧
      (cls ≠ 0 → summaryDue s.work.logs cls = true →
        exec (.logRingWrite cls) s = .next { s with work := writeNext s.hub (writeSummary s.hub s.work cls) cls }))

/-! ### Reset and the safety partition as a whole -/

/-- What reset leaves (01 R32 to R36, 07 R208, R213, 09 R272, 13 R427, 14 R464, 15 R480 to R482): no command waits; memory
lists nothing; the token counters of every engine are 0, and its streams are disabled and hold no descriptor; the limits,
the rail windows, the request and the cap of the safety partition are at their defaults; no step and no epoch runs. (That
the D registers and the PC are 0 is the model's choice, log 2, and that memory lists nothing, log 4.) -/
def Obligations.ResetState : Prop :=
  State.reset.pending = [] ∧ State.reset.work.mem = [] ∧ Memory.wf State.reset.work.mem = true ∧
    State.reset.hub.safety.legal = true ∧
    State.reset.hub.safety.limits = [2300, 2800, 20, 440, 660, 110, 100, 120] ∧
    State.reset.hub.safety.requestMv = 650 ∧ State.reset.hub.safety.capMv = 750 ∧
    State.reset.hub.safety.rails.map (fun r => (r.low, r.high)) =
      [(580, 770), (700, 800), (750, 850), (700, 800), (3135, 3465), (1000, 1100), (470, 530), (1710, 1890)] ∧
    State.reset.hub.ident.complexReady = false ∧ State.reset.hub.ident.numberValid = false ∧
    State.reset.hub.ident.number = 0x1FFFF ∧ State.reset.hub.ident.powerState = 0 ∧
    State.reset.work.upd.phase = 0 ∧ State.reset.work.copier.phase = 0 ∧ State.reset.work.copier.epoch = 0 ∧
    (∀ e : Nat, e < 72 →
      (State.reset.work.engine e).tokens = List.replicate 64 0 ∧ (State.reset.work.engine e).ops = [] ∧
      ∀ q : Nat, q < 4 →
        (State.reset.work.stream e q).enable = false ∧ (State.reset.work.stream e q).nextSeq = 0 ∧
        (State.reset.work.stream e q).pc = 0 ∧ (State.reset.work.stream e q).desc = none ∧
        (State.reset.work.stream e q).d = List.replicate 32 0)

/-- Only the configuration record of a cold power-on sets the limits of the safety controller: from every state in which the
module has power and its cold boot is over, no step changes them (15 R473). -/
def Obligations.LimitsChangeOnlyAtColdPowerOn : Prop :=
  ∀ s t : State, s.hub.ident.powered = true → s.hub.sec.coldWaits = false → step s = .next t →
    t.hub.safety.limits = s.hub.safety.limits

/-- Every step keeps the safety partition legal: no limit rises above its default (15 R473), and neither the request for the
engine rail nor its cap leaves 600 mV to 750 mV (15 R470, R475). -/
def Obligations.SafetyLimitsKept : Prop :=
  ∀ s t : State, s.hub.safety.legal = true → step s = .next t → t.hub.safety.legal = true
end

