-- ==== Sys2Proof/Laws/Memory.lean ====
section
/-!
SUPPORT. Sparse memory: what a read gives after a write, a clear and a copy, and that every memory operation keeps the
canonical form.
-/

namespace Sys2Proof.Machine

/-! ### Reads -/

theorem memGet_filter (m : List Host.Cell) (p : Nat → Bool) (x : Nat) :
    memGet (m.filter (fun c => p c.1)) x = if p x then memGet m x else 0 := by
  induction m with
  | nil => simp [memGet]
  | cons c r ih =>
    obtain ⟨y, b⟩ := c
    by_cases hp : p y
    · simp only [List.filter_cons, hp, if_true, memGet, ih]
      by_cases hy : y = x
      · subst hy; simp [hp]
      · simp [hy]
    · rw [List.filter_cons_of_neg (by simpa using hp), ih]
      by_cases hy : y = x
      · subst hy; simp [hp]
      · simp [memGet, hy]

theorem memGet_insert (m : List Host.Cell) (a x : Nat) (v : Byte) (h : ∀ c ∈ m, c.1 ≠ a) :
    memGet (memInsert m a v) x = if a = x then v else memGet m x := by
  induction m with
  | nil => simp [memInsert, memGet]
  | cons c r ih =>
    obtain ⟨y, b⟩ := c
    have hy : y ≠ a := h (y, b) (by simp)
    have hr : ∀ c ∈ r, c.1 ≠ a := fun c hc => h c (by simp [hc])
    simp only [memInsert]
    split_ifs with h1 h2 h2
    · simp [memGet, h2]
    · simp [memGet, h2]
    · subst h2; simp [memGet, hy, ih hr]
    · simp [memGet, ih hr, h2]

theorem memGet_set (m : List Host.Cell) (a x : Nat) (v : Byte) :
    memGet (memSet m a v) x = if a = x then v else memGet m x := by
  have hf := memGet_filter m (fun y => y != a) x
  unfold memSet
  split_ifs with h1 h2 h2
  · rw [hf]; simp [h1, h2]
  · rw [hf]; simp [Ne.symm h2]
  · rw [memGet_insert _ _ _ _ (by simp), if_pos h2]
  · rw [memGet_insert _ _ _ _ (by simp), if_neg h2, hf]; simp [Ne.symm h2]

@[simp] theorem memGet_set_self (m : List Host.Cell) (a : Nat) (v : Byte) : memGet (memSet m a v) a = v := by
  simp [memGet_set]

/-- A read after a write: the bytes written, and every other byte as before. -/
theorem memGet_write (m : List Host.Cell) (a : Nat) (bs : List Byte) (x : Nat) :
    memGet (memWrite m a bs) x = if a ≤ x ∧ x < a + bs.length then bs.getD (x - a) 0 else memGet m x := by
  induction bs generalizing m a with
  | nil => simp [memWrite]
  | cons b bs ih =>
    simp only [memWrite, ih, memGet_set, List.length_cons]
    by_cases h : a = x
    · subst h; simp
    · by_cases h1 : a + 1 ≤ x ∧ x < a + 1 + bs.length
      · have h2 : a ≤ x ∧ x < a + (bs.length + 1) := by omega
        obtain ⟨k, hk⟩ : ∃ k, x - a = k + 1 := ⟨x - a - 1, by omega⟩
        simp only [h1, h2, and_self, if_true, hk, List.getD_cons_succ]
        congr 1; omega
      · rw [if_neg h1, if_neg h, if_neg (by omega)]

theorem memGet_write_out (m : List Host.Cell) (a : Nat) (bs : List Byte) (x : Nat) (h : x < a ∨ a + bs.length ≤ x) :
    memGet (memWrite m a bs) x = memGet m x := by
  rw [memGet_write, if_neg (by omega)]

theorem memGet_write_in (m : List Host.Cell) (a : Nat) (bs : List Byte) (i : Nat) (h : i < bs.length) :
    memGet (memWrite m a bs) (a + i) = bs.getD i 0 := by
  rw [memGet_write, if_pos (by omega)]
  simp

theorem memGet_clear (m : List Host.Cell) (a n x : Nat) :
    memGet (memClear m a n) x = if a ≤ x ∧ x < a + n then 0 else memGet m x := by
  have := memGet_filter m (fun y => decide (y < a) || decide (a + n ≤ y)) x
  unfold memClear
  rw [this]
  by_cases h : a ≤ x ∧ x < a + n
  · rw [if_pos h, if_neg]; simp; omega
  · rw [if_neg h, if_pos]; simp; omega

@[simp] theorem length_memRead (m : List Host.Cell) (a n : Nat) : (memRead m a n).length = n := by simp [memRead]

theorem memRead_getD (m : List Host.Cell) (a n i : Nat) (h : i < n) : (memRead m a n).getD i 0 = memGet m (a + i) := by
  simp [memRead, List.getD_eq_getElem?_getD, h]

/-- Bytes that are written read back. -/
theorem memRead_write (m : List Host.Cell) (a : Nat) (bs : List Byte) :
    memRead (memWrite m a bs) a bs.length = bs := by
  apply List.ext_getElem (by simp)
  intro i h1 h2
  simp only [memRead, List.getElem_map, List.getElem_range', one_mul, memGet_write_in m a bs i h2]
  simp [h2]

/-! ### The canonical form -/

/-- The canonical form in words: addresses strictly rise, and no byte is 0. -/
theorem wf_iff (m : List Host.Cell) :
    Memory.wf m = true ↔ (m.Pairwise (fun x y => x.1 < y.1)) ∧ ∀ c ∈ m, c.2 ≠ 0 := by
  induction m with
  | nil => simp [Memory.wf]
  | cons c r ih =>
    obtain ⟨a, b⟩ := c
    cases r with
    | nil => simp [Memory.wf]
    | cons d t =>
      obtain ⟨x, y⟩ := d
      simp only [Memory.wf, Bool.and_eq_true, bne_iff_ne, decide_eq_true_eq, ih]
      constructor
      · rintro ⟨⟨hb, hx⟩, hp, hz⟩
        refine ⟨List.pairwise_cons.2 ⟨?_, hp⟩, ?_⟩
        · intro z hz'
          rcases List.mem_cons.1 hz' with rfl | h
          · exact hx
          · exact Nat.lt_trans hx ((List.pairwise_cons.1 hp).1 z h)
        · intro z hz'
          rcases List.mem_cons.1 hz' with rfl | h
          · exact hb
          · exact hz z h
      · rintro ⟨hp, hz⟩
        have hp' := List.pairwise_cons.1 hp
        exact ⟨⟨hz (a, b) (by simp), hp'.1 (x, y) (by simp)⟩, hp'.2, fun z h => hz z (List.mem_cons_of_mem _ h)⟩

theorem wf_filter (m : List Host.Cell) (p : Host.Cell → Bool) (h : Memory.wf m = true) :
    Memory.wf (m.filter p) = true := by
  rw [wf_iff] at *
  exact ⟨h.1.filter p, fun c hc => h.2 c (List.mem_of_mem_filter hc)⟩

theorem mem_insert (m : List Host.Cell) (a : Nat) (v : Byte) (c : Host.Cell) :
    c ∈ memInsert m a v ↔ c = (a, v) ∨ c ∈ m := by
  induction m with
  | nil => simp [memInsert]
  | cons d r ih =>
    obtain ⟨y, b⟩ := d
    simp only [memInsert]
    split_ifs
    · simp
    · simp only [List.mem_cons, ih]
      tauto

theorem wf_insert (m : List Host.Cell) (a : Nat) (v : Byte) (hv : v ≠ 0) (hn : ∀ c ∈ m, c.1 ≠ a)
    (h : Memory.wf m = true) : Memory.wf (memInsert m a v) = true := by
  rw [wf_iff] at *
  refine ⟨?_, fun c hc => ?_⟩
  · obtain ⟨hp, -⟩ := h
    induction m with
    | nil => simp [memInsert]
    | cons d r ih =>
      obtain ⟨y, b⟩ := d
      have hp' := List.pairwise_cons.1 hp
      have hy : y ≠ a := hn (y, b) (by simp)
      simp only [memInsert]
      split_ifs with h1
      · refine List.pairwise_cons.2 ⟨fun z hz => ?_, hp⟩
        rcases List.mem_cons.1 hz with rfl | hz
        · exact h1
        · exact Nat.lt_trans h1 (hp'.1 z hz)
      · refine List.pairwise_cons.2 ⟨fun z hz => ?_, ih (fun c hc => hn c (by simp [hc])) hp'.2⟩
        rcases (mem_insert r a v z).1 hz with rfl | hz
        · exact Nat.lt_of_le_of_ne (Nat.le_of_not_lt h1) hy
        · exact hp'.1 z hz
  · rcases (mem_insert m a v c).1 hc with rfl | hc
    · exact hv
    · exact h.2 c hc

theorem wf_set (m : List Host.Cell) (a : Nat) (v : Byte) (h : Memory.wf m = true) : Memory.wf (memSet m a v) = true := by
  unfold memSet
  split_ifs with hv
  · exact wf_filter m _ h
  · exact wf_insert _ a v hv (by simp) (wf_filter m _ h)

theorem wf_write (m : List Host.Cell) (a : Nat) (bs : List Byte) (h : Memory.wf m = true) :
    Memory.wf (memWrite m a bs) = true := by
  induction bs generalizing m a with
  | nil => exact h
  | cons b bs ih => exact ih _ _ (wf_set m a b h)

theorem wf_clear (m : List Host.Cell) (a n : Nat) (h : Memory.wf m = true) : Memory.wf (memClear m a n) = true :=
  wf_filter m _ h

theorem wf_copy (m : List Host.Cell) (src dst n : Nat) (h : Memory.wf m = true) : Memory.wf (memCopy m src dst n) = true := by
  unfold memCopy
  generalize m.filter (fun c => decide (src ≤ c.1) && decide (c.1 < src + n)) = l
  have hc := wf_clear m dst n h
  generalize memClear m dst n = k at hc
  induction l generalizing k with
  | nil => exact hc
  | cons c r ih => exact ih _ (wf_set k _ _ hc)

theorem wf_reset : Memory.wf State.reset.work.mem = true := rfl

end Sys2Proof.Machine
end

