-- ==== Sys2Proof/Laws/State.lean ====
section
/-!
SUPPORT. What each update of one part of the state leaves in every other part: one lemma per field per update, true by
computation, so that no later proof unfolds a record update.
-/

namespace Sys2Proof.Machine

/-! ### Updates of `Work` -/
@[simp] theorem Work.setEngine_mem (w : Work) (e : Nat) (f : Engine → Engine) : (w.setEngine e f).mem = w.mem := rfl
@[simp] theorem Work.setEngine_coh (w : Work) (e : Nat) (f : Engine → Engine) : (w.setEngine e f).coh = w.coh := rfl
theorem Work.setEngine_engines (w : Work) (e : Nat) (f : Engine → Engine) :
    (w.setEngine e f).engines = w.engines.modify e f := rfl
@[simp] theorem Work.setEngine_upd (w : Work) (e : Nat) (f : Engine → Engine) : (w.setEngine e f).upd = w.upd := rfl
@[simp] theorem Work.setEngine_copier (w : Work) (e : Nat) (f : Engine → Engine) :
    (w.setEngine e f).copier = w.copier := rfl
@[simp] theorem Work.setEngine_fabric (w : Work) (e : Nat) (f : Engine → Engine) :
    (w.setEngine e f).fabric = w.fabric := rfl
@[simp] theorem Work.setEngine_colls (w : Work) (e : Nat) (f : Engine → Engine) :
    (w.setEngine e f).colls = w.colls := rfl
@[simp] theorem Work.setEngine_logs (w : Work) (e : Nat) (f : Engine → Engine) : (w.setEngine e f).logs = w.logs := rfl
@[simp] theorem Work.setEngine_tables (w : Work) (e : Nat) (f : Engine → Engine) :
    (w.setEngine e f).tables = w.tables := rfl
@[simp] theorem Work.setEngine_replies (w : Work) (e : Nat) (f : Engine → Engine) :
    (w.setEngine e f).replies = w.replies := rfl
@[simp] theorem Work.setEngine_freeIx (w : Work) (e : Nat) (f : Engine → Engine) :
    (w.setEngine e f).freeIx = w.freeIx := rfl

@[simp] theorem Work.setStream_mem (w : Work) (e q : Nat) (f : Stream → Stream) : (w.setStream e q f).mem = w.mem := rfl
@[simp] theorem Work.setStream_coh (w : Work) (e q : Nat) (f : Stream → Stream) : (w.setStream e q f).coh = w.coh := rfl
theorem Work.setStream_engines (w : Work) (e q : Nat) (f : Stream → Stream) :
    (w.setStream e q f).engines = w.engines.modify e (fun en => en.setStream q f) := rfl
@[simp] theorem Work.setStream_upd (w : Work) (e q : Nat) (f : Stream → Stream) : (w.setStream e q f).upd = w.upd := rfl
@[simp] theorem Work.setStream_copier (w : Work) (e q : Nat) (f : Stream → Stream) :
    (w.setStream e q f).copier = w.copier := rfl
@[simp] theorem Work.setStream_fabric (w : Work) (e q : Nat) (f : Stream → Stream) :
    (w.setStream e q f).fabric = w.fabric := rfl
@[simp] theorem Work.setStream_colls (w : Work) (e q : Nat) (f : Stream → Stream) :
    (w.setStream e q f).colls = w.colls := rfl
@[simp] theorem Work.setStream_logs (w : Work) (e q : Nat) (f : Stream → Stream) :
    (w.setStream e q f).logs = w.logs := rfl
@[simp] theorem Work.setStream_tables (w : Work) (e q : Nat) (f : Stream → Stream) :
    (w.setStream e q f).tables = w.tables := rfl
@[simp] theorem Work.setStream_replies (w : Work) (e q : Nat) (f : Stream → Stream) :
    (w.setStream e q f).replies = w.replies := rfl
@[simp] theorem Work.setStream_freeIx (w : Work) (e q : Nat) (f : Stream → Stream) :
    (w.setStream e q f).freeIx = w.freeIx := rfl

@[simp] theorem Work.tick_mem (w : Work) : w.tick.mem = w.mem := rfl
@[simp] theorem Work.tick_coh (w : Work) : w.tick.coh = w.coh := rfl
@[simp] theorem Work.tick_engines (w : Work) : w.tick.engines = w.engines := rfl
@[simp] theorem Work.tick_upd (w : Work) : w.tick.upd = w.upd := rfl
@[simp] theorem Work.tick_copier (w : Work) : w.tick.copier = w.copier := rfl
@[simp] theorem Work.tick_fabric (w : Work) : w.tick.fabric = w.fabric := rfl
@[simp] theorem Work.tick_colls (w : Work) : w.tick.colls = w.colls := rfl
@[simp] theorem Work.tick_logs (w : Work) : w.tick.logs = w.logs := rfl
@[simp] theorem Work.tick_tables (w : Work) : w.tick.tables = w.tables := rfl
@[simp] theorem Work.tick_replies (w : Work) : w.tick.replies = w.replies := rfl
@[simp] theorem Work.tick_freeIx (w : Work) : w.tick.freeIx = w.freeIx + 1 := rfl

@[simp] theorem Work.reply_mem (w : Work) (c : Code) (d : List Byte) : (w.reply c d).mem = w.mem := rfl
@[simp] theorem Work.reply_coh (w : Work) (c : Code) (d : List Byte) : (w.reply c d).coh = w.coh := rfl
@[simp] theorem Work.reply_engines (w : Work) (c : Code) (d : List Byte) : (w.reply c d).engines = w.engines := rfl
@[simp] theorem Work.reply_upd (w : Work) (c : Code) (d : List Byte) : (w.reply c d).upd = w.upd := rfl
@[simp] theorem Work.reply_copier (w : Work) (c : Code) (d : List Byte) : (w.reply c d).copier = w.copier := rfl
@[simp] theorem Work.reply_fabric (w : Work) (c : Code) (d : List Byte) : (w.reply c d).fabric = w.fabric := rfl
@[simp] theorem Work.reply_colls (w : Work) (c : Code) (d : List Byte) : (w.reply c d).colls = w.colls := rfl
@[simp] theorem Work.reply_logs (w : Work) (c : Code) (d : List Byte) : (w.reply c d).logs = w.logs := rfl
@[simp] theorem Work.reply_tables (w : Work) (c : Code) (d : List Byte) : (w.reply c d).tables = w.tables := rfl
@[simp] theorem Work.reply_replies (w : Work) (c : Code) (d : List Byte) :
    (w.reply c d).replies = { w.replies with coreStatus := c, coreData := d } := rfl
@[simp] theorem Work.reply_freeIx (w : Work) (c : Code) (d : List Byte) : (w.reply c d).freeIx = w.freeIx := rfl

@[simp] theorem Work.setHome_mem (w : Work) (i : Nat) (f : Home → Home) : (w.setHome i f).mem = w.mem := rfl
theorem Work.setHome_coh (w : Work) (i : Nat) (f : Home → Home) :
    (w.setHome i f).coh = { w.coh with homes := w.coh.homes.modify i f } := rfl
@[simp] theorem Work.setHome_engines (w : Work) (i : Nat) (f : Home → Home) : (w.setHome i f).engines = w.engines := rfl
@[simp] theorem Work.setHome_upd (w : Work) (i : Nat) (f : Home → Home) : (w.setHome i f).upd = w.upd := rfl
@[simp] theorem Work.setHome_copier (w : Work) (i : Nat) (f : Home → Home) : (w.setHome i f).copier = w.copier := rfl
@[simp] theorem Work.setHome_fabric (w : Work) (i : Nat) (f : Home → Home) : (w.setHome i f).fabric = w.fabric := rfl
@[simp] theorem Work.setHome_colls (w : Work) (i : Nat) (f : Home → Home) : (w.setHome i f).colls = w.colls := rfl
@[simp] theorem Work.setHome_logs (w : Work) (i : Nat) (f : Home → Home) : (w.setHome i f).logs = w.logs := rfl
@[simp] theorem Work.setHome_tables (w : Work) (i : Nat) (f : Home → Home) : (w.setHome i f).tables = w.tables := rfl
@[simp] theorem Work.setHome_replies (w : Work) (i : Nat) (f : Home → Home) : (w.setHome i f).replies = w.replies := rfl
@[simp] theorem Work.setHome_freeIx (w : Work) (i : Nat) (f : Home → Home) : (w.setHome i f).freeIx = w.freeIx := rfl

@[simp] theorem Work.setTxn_mem (w : Work) (t : Txn) (f : Txn → Txn) : (w.setTxn t f).mem = w.mem := rfl
@[simp] theorem Work.setTxn_engines (w : Work) (t : Txn) (f : Txn → Txn) : (w.setTxn t f).engines = w.engines := rfl
@[simp] theorem Work.setTxn_upd (w : Work) (t : Txn) (f : Txn → Txn) : (w.setTxn t f).upd = w.upd := rfl
@[simp] theorem Work.setTxn_copier (w : Work) (t : Txn) (f : Txn → Txn) : (w.setTxn t f).copier = w.copier := rfl
@[simp] theorem Work.setTxn_fabric (w : Work) (t : Txn) (f : Txn → Txn) : (w.setTxn t f).fabric = w.fabric := rfl
@[simp] theorem Work.setTxn_colls (w : Work) (t : Txn) (f : Txn → Txn) : (w.setTxn t f).colls = w.colls := rfl
@[simp] theorem Work.setTxn_logs (w : Work) (t : Txn) (f : Txn → Txn) : (w.setTxn t f).logs = w.logs := rfl
@[simp] theorem Work.setTxn_tables (w : Work) (t : Txn) (f : Txn → Txn) : (w.setTxn t f).tables = w.tables := rfl
@[simp] theorem Work.setTxn_replies (w : Work) (t : Txn) (f : Txn → Txn) : (w.setTxn t f).replies = w.replies := rfl
@[simp] theorem Work.setTxn_freeIx (w : Work) (t : Txn) (f : Txn → Txn) : (w.setTxn t f).freeIx = w.freeIx := rfl

@[simp] theorem Work.setPort_mem (w : Work) (n : Nat) (f : Port → Port) : (w.setPort n f).mem = w.mem := rfl
@[simp] theorem Work.setPort_coh (w : Work) (n : Nat) (f : Port → Port) : (w.setPort n f).coh = w.coh := rfl
@[simp] theorem Work.setPort_engines (w : Work) (n : Nat) (f : Port → Port) : (w.setPort n f).engines = w.engines := rfl
@[simp] theorem Work.setPort_upd (w : Work) (n : Nat) (f : Port → Port) : (w.setPort n f).upd = w.upd := rfl
@[simp] theorem Work.setPort_copier (w : Work) (n : Nat) (f : Port → Port) : (w.setPort n f).copier = w.copier := rfl
@[simp] theorem Work.setPort_colls (w : Work) (n : Nat) (f : Port → Port) : (w.setPort n f).colls = w.colls := rfl
@[simp] theorem Work.setPort_logs (w : Work) (n : Nat) (f : Port → Port) : (w.setPort n f).logs = w.logs := rfl
@[simp] theorem Work.setPort_tables (w : Work) (n : Nat) (f : Port → Port) : (w.setPort n f).tables = w.tables := rfl
@[simp] theorem Work.setPort_replies (w : Work) (n : Nat) (f : Port → Port) : (w.setPort n f).replies = w.replies := rfl
@[simp] theorem Work.setPort_freeIx (w : Work) (n : Nat) (f : Port → Port) : (w.setPort n f).freeIx = w.freeIx := rfl

@[simp] theorem Work.setSender_mem (w : Work) (x : Sender) : (w.setSender x).mem = w.mem := rfl
@[simp] theorem Work.setSender_coh (w : Work) (x : Sender) : (w.setSender x).coh = w.coh := rfl
@[simp] theorem Work.setSender_engines (w : Work) (x : Sender) : (w.setSender x).engines = w.engines := rfl
@[simp] theorem Work.setSender_upd (w : Work) (x : Sender) : (w.setSender x).upd = w.upd := rfl
@[simp] theorem Work.setSender_copier (w : Work) (x : Sender) : (w.setSender x).copier = w.copier := rfl
@[simp] theorem Work.setSender_colls (w : Work) (x : Sender) : (w.setSender x).colls = w.colls := rfl
@[simp] theorem Work.setSender_logs (w : Work) (x : Sender) : (w.setSender x).logs = w.logs := rfl
@[simp] theorem Work.setSender_tables (w : Work) (x : Sender) : (w.setSender x).tables = w.tables := rfl
@[simp] theorem Work.setSender_replies (w : Work) (x : Sender) : (w.setSender x).replies = w.replies := rfl
@[simp] theorem Work.setSender_freeIx (w : Work) (x : Sender) : (w.setSender x).freeIx = w.freeIx := rfl

@[simp] theorem Work.setReceiver_mem (w : Work) (x : Receiver) : (w.setReceiver x).mem = w.mem := rfl
@[simp] theorem Work.setReceiver_coh (w : Work) (x : Receiver) : (w.setReceiver x).coh = w.coh := rfl
@[simp] theorem Work.setReceiver_engines (w : Work) (x : Receiver) : (w.setReceiver x).engines = w.engines := rfl
@[simp] theorem Work.setReceiver_upd (w : Work) (x : Receiver) : (w.setReceiver x).upd = w.upd := rfl
@[simp] theorem Work.setReceiver_copier (w : Work) (x : Receiver) : (w.setReceiver x).copier = w.copier := rfl
@[simp] theorem Work.setReceiver_colls (w : Work) (x : Receiver) : (w.setReceiver x).colls = w.colls := rfl
@[simp] theorem Work.setReceiver_logs (w : Work) (x : Receiver) : (w.setReceiver x).logs = w.logs := rfl
@[simp] theorem Work.setReceiver_tables (w : Work) (x : Receiver) : (w.setReceiver x).tables = w.tables := rfl
@[simp] theorem Work.setReceiver_replies (w : Work) (x : Receiver) : (w.setReceiver x).replies = w.replies := rfl
@[simp] theorem Work.setReceiver_freeIx (w : Work) (x : Receiver) : (w.setReceiver x).freeIx = w.freeIx := rfl

@[simp] theorem Work.setFabric_mem (w : Work) (f : Fabric → Fabric) : (w.setFabric f).mem = w.mem := rfl
@[simp] theorem Work.setFabric_coh (w : Work) (f : Fabric → Fabric) : (w.setFabric f).coh = w.coh := rfl
@[simp] theorem Work.setFabric_engines (w : Work) (f : Fabric → Fabric) : (w.setFabric f).engines = w.engines := rfl
@[simp] theorem Work.setFabric_upd (w : Work) (f : Fabric → Fabric) : (w.setFabric f).upd = w.upd := rfl
@[simp] theorem Work.setFabric_copier (w : Work) (f : Fabric → Fabric) : (w.setFabric f).copier = w.copier := rfl
@[simp] theorem Work.setFabric_fabric (w : Work) (f : Fabric → Fabric) : (w.setFabric f).fabric = f w.fabric := rfl
@[simp] theorem Work.setFabric_colls (w : Work) (f : Fabric → Fabric) : (w.setFabric f).colls = w.colls := rfl
@[simp] theorem Work.setFabric_logs (w : Work) (f : Fabric → Fabric) : (w.setFabric f).logs = w.logs := rfl
@[simp] theorem Work.setFabric_tables (w : Work) (f : Fabric → Fabric) : (w.setFabric f).tables = w.tables := rfl
@[simp] theorem Work.setFabric_replies (w : Work) (f : Fabric → Fabric) : (w.setFabric f).replies = w.replies := rfl
@[simp] theorem Work.setFabric_freeIx (w : Work) (f : Fabric → Fabric) : (w.setFabric f).freeIx = w.freeIx := rfl

@[simp] theorem Work.setColls_mem (w : Work) (f : Collectives → Collectives) : (w.setColls f).mem = w.mem := rfl
@[simp] theorem Work.setColls_coh (w : Work) (f : Collectives → Collectives) : (w.setColls f).coh = w.coh := rfl
@[simp] theorem Work.setColls_engines (w : Work) (f : Collectives → Collectives) :
    (w.setColls f).engines = w.engines := rfl
@[simp] theorem Work.setColls_upd (w : Work) (f : Collectives → Collectives) : (w.setColls f).upd = w.upd := rfl
@[simp] theorem Work.setColls_copier (w : Work) (f : Collectives → Collectives) :
    (w.setColls f).copier = w.copier := rfl
@[simp] theorem Work.setColls_fabric (w : Work) (f : Collectives → Collectives) :
    (w.setColls f).fabric = w.fabric := rfl
@[simp] theorem Work.setColls_colls (w : Work) (f : Collectives → Collectives) : (w.setColls f).colls = f w.colls := rfl
@[simp] theorem Work.setColls_logs (w : Work) (f : Collectives → Collectives) : (w.setColls f).logs = w.logs := rfl
@[simp] theorem Work.setColls_tables (w : Work) (f : Collectives → Collectives) :
    (w.setColls f).tables = w.tables := rfl
@[simp] theorem Work.setColls_replies (w : Work) (f : Collectives → Collectives) :
    (w.setColls f).replies = w.replies := rfl
@[simp] theorem Work.setColls_freeIx (w : Work) (f : Collectives → Collectives) :
    (w.setColls f).freeIx = w.freeIx := rfl

@[simp] theorem Work.setCollQ_mem (w : Work) (k : Nat) (f : CollQueue → CollQueue) : (w.setCollQ k f).mem = w.mem := rfl
@[simp] theorem Work.setCollQ_coh (w : Work) (k : Nat) (f : CollQueue → CollQueue) : (w.setCollQ k f).coh = w.coh := rfl
@[simp] theorem Work.setCollQ_engines (w : Work) (k : Nat) (f : CollQueue → CollQueue) :
    (w.setCollQ k f).engines = w.engines := rfl
@[simp] theorem Work.setCollQ_upd (w : Work) (k : Nat) (f : CollQueue → CollQueue) : (w.setCollQ k f).upd = w.upd := rfl
@[simp] theorem Work.setCollQ_copier (w : Work) (k : Nat) (f : CollQueue → CollQueue) :
    (w.setCollQ k f).copier = w.copier := rfl
@[simp] theorem Work.setCollQ_fabric (w : Work) (k : Nat) (f : CollQueue → CollQueue) :
    (w.setCollQ k f).fabric = w.fabric := rfl
theorem Work.setCollQ_colls (w : Work) (k : Nat) (f : CollQueue → CollQueue) :
    (w.setCollQ k f).colls = { w.colls with queues := w.colls.queues.modify k f } := rfl
@[simp] theorem Work.setCollQ_logs (w : Work) (k : Nat) (f : CollQueue → CollQueue) :
    (w.setCollQ k f).logs = w.logs := rfl
@[simp] theorem Work.setCollQ_tables (w : Work) (k : Nat) (f : CollQueue → CollQueue) :
    (w.setCollQ k f).tables = w.tables := rfl
@[simp] theorem Work.setCollQ_replies (w : Work) (k : Nat) (f : CollQueue → CollQueue) :
    (w.setCollQ k f).replies = w.replies := rfl
@[simp] theorem Work.setCollQ_freeIx (w : Work) (k : Nat) (f : CollQueue → CollQueue) :
    (w.setCollQ k f).freeIx = w.freeIx := rfl

@[simp] theorem Work.setUpd_mem (w : Work) (f : Update → Update) : (w.setUpd f).mem = w.mem := rfl
@[simp] theorem Work.setUpd_coh (w : Work) (f : Update → Update) : (w.setUpd f).coh = w.coh := rfl
@[simp] theorem Work.setUpd_engines (w : Work) (f : Update → Update) : (w.setUpd f).engines = w.engines := rfl
@[simp] theorem Work.setUpd_upd (w : Work) (f : Update → Update) : (w.setUpd f).upd = f w.upd := rfl
@[simp] theorem Work.setUpd_copier (w : Work) (f : Update → Update) : (w.setUpd f).copier = w.copier := rfl
@[simp] theorem Work.setUpd_fabric (w : Work) (f : Update → Update) : (w.setUpd f).fabric = w.fabric := rfl
@[simp] theorem Work.setUpd_colls (w : Work) (f : Update → Update) : (w.setUpd f).colls = w.colls := rfl
@[simp] theorem Work.setUpd_logs (w : Work) (f : Update → Update) : (w.setUpd f).logs = w.logs := rfl
@[simp] theorem Work.setUpd_tables (w : Work) (f : Update → Update) : (w.setUpd f).tables = w.tables := rfl
@[simp] theorem Work.setUpd_replies (w : Work) (f : Update → Update) : (w.setUpd f).replies = w.replies := rfl
@[simp] theorem Work.setUpd_freeIx (w : Work) (f : Update → Update) : (w.setUpd f).freeIx = w.freeIx := rfl

@[simp] theorem Work.setCopier_mem (w : Work) (f : Copier → Copier) : (w.setCopier f).mem = w.mem := rfl
@[simp] theorem Work.setCopier_coh (w : Work) (f : Copier → Copier) : (w.setCopier f).coh = w.coh := rfl
@[simp] theorem Work.setCopier_engines (w : Work) (f : Copier → Copier) : (w.setCopier f).engines = w.engines := rfl
@[simp] theorem Work.setCopier_upd (w : Work) (f : Copier → Copier) : (w.setCopier f).upd = w.upd := rfl
@[simp] theorem Work.setCopier_copier (w : Work) (f : Copier → Copier) : (w.setCopier f).copier = f w.copier := rfl
@[simp] theorem Work.setCopier_fabric (w : Work) (f : Copier → Copier) : (w.setCopier f).fabric = w.fabric := rfl
@[simp] theorem Work.setCopier_colls (w : Work) (f : Copier → Copier) : (w.setCopier f).colls = w.colls := rfl
@[simp] theorem Work.setCopier_logs (w : Work) (f : Copier → Copier) : (w.setCopier f).logs = w.logs := rfl
@[simp] theorem Work.setCopier_tables (w : Work) (f : Copier → Copier) : (w.setCopier f).tables = w.tables := rfl
@[simp] theorem Work.setCopier_replies (w : Work) (f : Copier → Copier) : (w.setCopier f).replies = w.replies := rfl
@[simp] theorem Work.setCopier_freeIx (w : Work) (f : Copier → Copier) : (w.setCopier f).freeIx = w.freeIx := rfl

@[simp] theorem Work.setRun_mem (w : Work) (f : CopierRun → CopierRun) : (w.setRun f).mem = w.mem := rfl
@[simp] theorem Work.setRun_coh (w : Work) (f : CopierRun → CopierRun) : (w.setRun f).coh = w.coh := rfl
@[simp] theorem Work.setRun_engines (w : Work) (f : CopierRun → CopierRun) : (w.setRun f).engines = w.engines := rfl
@[simp] theorem Work.setRun_upd (w : Work) (f : CopierRun → CopierRun) : (w.setRun f).upd = w.upd := rfl
@[simp] theorem Work.setRun_copier (w : Work) (f : CopierRun → CopierRun) :
    (w.setRun f).copier = { w.copier with run := w.copier.run.map f } := rfl
@[simp] theorem Work.setRun_fabric (w : Work) (f : CopierRun → CopierRun) : (w.setRun f).fabric = w.fabric := rfl
@[simp] theorem Work.setRun_colls (w : Work) (f : CopierRun → CopierRun) : (w.setRun f).colls = w.colls := rfl
@[simp] theorem Work.setRun_logs (w : Work) (f : CopierRun → CopierRun) : (w.setRun f).logs = w.logs := rfl
@[simp] theorem Work.setRun_tables (w : Work) (f : CopierRun → CopierRun) : (w.setRun f).tables = w.tables := rfl
@[simp] theorem Work.setRun_replies (w : Work) (f : CopierRun → CopierRun) : (w.setRun f).replies = w.replies := rfl
@[simp] theorem Work.setRun_freeIx (w : Work) (f : CopierRun → CopierRun) : (w.setRun f).freeIx = w.freeIx := rfl

@[simp] theorem Work.setLogs_mem (w : Work) (f : Logs → Logs) : (w.setLogs f).mem = w.mem := rfl
@[simp] theorem Work.setLogs_coh (w : Work) (f : Logs → Logs) : (w.setLogs f).coh = w.coh := rfl
@[simp] theorem Work.setLogs_engines (w : Work) (f : Logs → Logs) : (w.setLogs f).engines = w.engines := rfl
@[simp] theorem Work.setLogs_upd (w : Work) (f : Logs → Logs) : (w.setLogs f).upd = w.upd := rfl
@[simp] theorem Work.setLogs_copier (w : Work) (f : Logs → Logs) : (w.setLogs f).copier = w.copier := rfl
@[simp] theorem Work.setLogs_fabric (w : Work) (f : Logs → Logs) : (w.setLogs f).fabric = w.fabric := rfl
@[simp] theorem Work.setLogs_colls (w : Work) (f : Logs → Logs) : (w.setLogs f).colls = w.colls := rfl
@[simp] theorem Work.setLogs_logs (w : Work) (f : Logs → Logs) : (w.setLogs f).logs = f w.logs := rfl
@[simp] theorem Work.setLogs_tables (w : Work) (f : Logs → Logs) : (w.setLogs f).tables = w.tables := rfl
@[simp] theorem Work.setLogs_replies (w : Work) (f : Logs → Logs) : (w.setLogs f).replies = w.replies := rfl
@[simp] theorem Work.setLogs_freeIx (w : Work) (f : Logs → Logs) : (w.setLogs f).freeIx = w.freeIx := rfl

@[simp] theorem Work.sram_mem (w : Work) (a : Nat) (bs : List Byte) : (w.sram a bs).mem = memWrite w.mem a bs := rfl
@[simp] theorem Work.sram_coh (w : Work) (a : Nat) (bs : List Byte) : (w.sram a bs).coh = w.coh := rfl
@[simp] theorem Work.sram_engines (w : Work) (a : Nat) (bs : List Byte) : (w.sram a bs).engines = w.engines := rfl
@[simp] theorem Work.sram_upd (w : Work) (a : Nat) (bs : List Byte) : (w.sram a bs).upd = w.upd := rfl
@[simp] theorem Work.sram_copier (w : Work) (a : Nat) (bs : List Byte) : (w.sram a bs).copier = w.copier := rfl
@[simp] theorem Work.sram_fabric (w : Work) (a : Nat) (bs : List Byte) : (w.sram a bs).fabric = w.fabric := rfl
@[simp] theorem Work.sram_colls (w : Work) (a : Nat) (bs : List Byte) : (w.sram a bs).colls = w.colls := rfl
@[simp] theorem Work.sram_logs (w : Work) (a : Nat) (bs : List Byte) : (w.sram a bs).logs = w.logs := rfl
@[simp] theorem Work.sram_tables (w : Work) (a : Nat) (bs : List Byte) : (w.sram a bs).tables = w.tables := rfl
@[simp] theorem Work.sram_replies (w : Work) (a : Nat) (bs : List Byte) : (w.sram a bs).replies = w.replies := rfl
@[simp] theorem Work.sram_freeIx (w : Work) (a : Nat) (bs : List Byte) : (w.sram a bs).freeIx = w.freeIx := rfl

@[simp] theorem Work.setHome_lines (w : Work) (i : Nat) (f : Home → Home) :
    (w.setHome i f).coh.lines = w.coh.lines := rfl
@[simp] theorem Work.setHome_victims (w : Work) (i : Nat) (f : Home → Home) :
    (w.setHome i f).coh.victims = w.coh.victims := rfl
@[simp] theorem Work.setHome_wbCount (w : Work) (i : Nat) (f : Home → Home) :
    (w.setHome i f).coh.wbCount = w.coh.wbCount := rfl
@[simp] theorem Work.setHome_crossedTags (w : Work) (i : Nat) (f : Home → Home) :
    (w.setHome i f).coh.crossedTags = w.coh.crossedTags := rfl
@[simp] theorem Work.setHome_resent (w : Work) (i : Nat) (f : Home → Home) :
    (w.setHome i f).coh.resent = w.coh.resent := rfl
@[simp] theorem Work.setHome_eccRetries (w : Work) (i : Nat) (f : Home → Home) :
    (w.setHome i f).coh.eccRetries = w.coh.eccRetries := rfl
@[simp] theorem Work.setHome_homeRing (w : Work) (i : Nat) (f : Home → Home) :
    (w.setHome i f).coh.homeRing = w.coh.homeRing := rfl
@[simp] theorem Work.setCollQ_heldGroups (w : Work) (k : Nat) (f : CollQueue → CollQueue) :
    (w.setCollQ k f).colls.heldGroups = w.colls.heldGroups := rfl
@[simp] theorem Work.setCollQ_dead (w : Work) (k : Nat) (f : CollQueue → CollQueue) :
    (w.setCollQ k f).colls.dead = w.colls.dead := rfl
/-! ### Updates of `Hub` -/

@[simp] theorem Hub.setMailbox_ident (h : Hub) (k : Nat) (f : Mailbox → Mailbox) :
    (h.setMailbox k f).ident = h.ident := rfl
@[simp] theorem Hub.setMailbox_safety (h : Hub) (k : Nat) (f : Mailbox → Mailbox) :
    (h.setMailbox k f).safety = h.safety := rfl
@[simp] theorem Hub.setMailbox_sec (h : Hub) (k : Nat) (f : Mailbox → Mailbox) : (h.setMailbox k f).sec = h.sec := rfl
@[simp] theorem Hub.setProc_ident (h : Hub) (n : Nat) (f : FwProc → FwProc) : (h.setProc n f).ident = h.ident := rfl
@[simp] theorem Hub.setProc_safety (h : Hub) (n : Nat) (f : FwProc → FwProc) : (h.setProc n f).safety = h.safety := rfl
@[simp] theorem Hub.setProc_sec (h : Hub) (n : Nat) (f : FwProc → FwProc) : (h.setProc n f).sec = h.sec := rfl
@[simp] theorem Hub.setUpdate_ident (h : Hub) (f : FwUpdate → FwUpdate) : (h.setUpdate f).ident = h.ident := rfl
@[simp] theorem Hub.setUpdate_safety (h : Hub) (f : FwUpdate → FwUpdate) : (h.setUpdate f).safety = h.safety := rfl
@[simp] theorem Hub.setUpdate_sec (h : Hub) (f : FwUpdate → FwUpdate) : (h.setUpdate f).sec = h.sec := rfl
@[simp] theorem Hub.setBank_ident (h : Hub) (b : Nat) (m : List Host.Cell) : (h.setBank b m).ident = h.ident := rfl
@[simp] theorem Hub.setBank_safety (h : Hub) (b : Nat) (m : List Host.Cell) : (h.setBank b m).safety = h.safety := rfl
@[simp] theorem Hub.setBank_sec (h : Hub) (b : Nat) (m : List Host.Cell) : (h.setBank b m).sec = h.sec := rfl
@[simp] theorem Hub.setSec_ident (h : Hub) (f : Security → Security) : (h.setSec f).ident = h.ident := rfl
@[simp] theorem Hub.setSec_fw (h : Hub) (f : Security → Security) : (h.setSec f).fw = h.fw := rfl
@[simp] theorem Hub.setSec_safety (h : Hub) (f : Security → Security) : (h.setSec f).safety = h.safety := rfl
@[simp] theorem Hub.setSafety_ident (h : Hub) (f : Safety → Safety) : (h.setSafety f).ident = h.ident := rfl
@[simp] theorem Hub.setSafety_fw (h : Hub) (f : Safety → Safety) : (h.setSafety f).fw = h.fw := rfl
@[simp] theorem Hub.setSafety_sec (h : Hub) (f : Safety → Safety) : (h.setSafety f).sec = h.sec := rfl
@[simp] theorem Hub.setSec_sec (h : Hub) (f : Security → Security) : (h.setSec f).sec = f h.sec := rfl
@[simp] theorem Hub.setSafety_safety (h : Hub) (f : Safety → Safety) : (h.setSafety f).safety = f h.safety := rfl
@[simp] theorem Hub.setUpdate_update (h : Hub) (f : FwUpdate → FwUpdate) :
    (h.setUpdate f).fw.update = f h.fw.update := rfl
@[simp] theorem Hub.setMailbox_procs (h : Hub) (k : Nat) (f : Mailbox → Mailbox) :
    (h.setMailbox k f).fw.procs = h.fw.procs := rfl
@[simp] theorem Hub.setMailbox_update (h : Hub) (k : Nat) (f : Mailbox → Mailbox) :
    (h.setMailbox k f).fw.update = h.fw.update := rfl
@[simp] theorem Hub.setMailbox_flash (h : Hub) (k : Nat) (f : Mailbox → Mailbox) :
    (h.setMailbox k f).fw.flash = h.fw.flash := rfl
@[simp] theorem Hub.setProc_mailboxes (h : Hub) (n : Nat) (f : FwProc → FwProc) :
    (h.setProc n f).fw.mailboxes = h.fw.mailboxes := rfl
@[simp] theorem Hub.setProc_update (h : Hub) (n : Nat) (f : FwProc → FwProc) :
    (h.setProc n f).fw.update = h.fw.update := rfl
@[simp] theorem Hub.setProc_flash (h : Hub) (n : Nat) (f : FwProc → FwProc) :
    (h.setProc n f).fw.flash = h.fw.flash := rfl
@[simp] theorem Hub.setUpdate_mailboxes (h : Hub) (f : FwUpdate → FwUpdate) :
    (h.setUpdate f).fw.mailboxes = h.fw.mailboxes := rfl
@[simp] theorem Hub.setUpdate_procs (h : Hub) (f : FwUpdate → FwUpdate) : (h.setUpdate f).fw.procs = h.fw.procs := rfl
@[simp] theorem Hub.setUpdate_flash (h : Hub) (f : FwUpdate → FwUpdate) : (h.setUpdate f).fw.flash = h.fw.flash := rfl
@[simp] theorem Hub.setBank_mailboxes (h : Hub) (b : Nat) (m : List Host.Cell) :
    (h.setBank b m).fw.mailboxes = h.fw.mailboxes := rfl
@[simp] theorem Hub.setBank_procs (h : Hub) (b : Nat) (m : List Host.Cell) :
    (h.setBank b m).fw.procs = h.fw.procs := rfl
@[simp] theorem Hub.setBank_update (h : Hub) (b : Nat) (m : List Host.Cell) :
    (h.setBank b m).fw.update = h.fw.update := rfl

/-! ### Updates of an engine -/

@[simp] theorem Engine.setStream_streams (en : Engine) (q : Nat) (f : Stream → Stream) :
    (en.setStream q f).streams = en.streams.modify q f := rfl
@[simp] theorem Engine.setStream_ops (en : Engine) (q : Nat) (f : Stream → Stream) :
    (en.setStream q f).ops = en.ops := rfl
@[simp] theorem Engine.setStream_nextId (en : Engine) (q : Nat) (f : Stream → Stream) :
    (en.setStream q f).nextId = en.nextId := rfl
@[simp] theorem Engine.setStream_stopped (en : Engine) (q : Nat) (f : Stream → Stream) :
    (en.setStream q f).stopped = en.stopped := rfl
@[simp] theorem Engine.setStream_saving (en : Engine) (q : Nat) (f : Stream → Stream) :
    (en.setStream q f).saving = en.saving := rfl
@[simp] theorem Engine.setStream_resetting (en : Engine) (q : Nat) (f : Stream → Stream) :
    (en.setStream q f).resetting = en.resetting := rfl
@[simp] theorem Engine.setStream_genHold (en : Engine) (q : Nat) (f : Stream → Stream) :
    (en.setStream q f).genHold = en.genHold := rfl
@[simp] theorem Engine.setStream_tokenSat (en : Engine) (q : Nat) (f : Stream → Stream) :
    (en.setStream q f).tokenSat = en.tokenSat := rfl
@[simp] theorem Engine.setStream_gen (en : Engine) (q : Nat) (f : Stream → Stream) :
    (en.setStream q f).gen = en.gen := rfl
@[simp] theorem Engine.setStream_tokens (en : Engine) (q : Nat) (f : Stream → Stream) :
    (en.setStream q f).tokens = en.tokens := rfl
@[simp] theorem Engine.setStream_notices (en : Engine) (q : Nat) (f : Stream → Stream) :
    (en.setStream q f).notices = en.notices := rfl
@[simp] theorem Engine.setStream_arr (en : Engine) (q : Nat) (f : Stream → Stream) :
    (en.setStream q f).arr = en.arr := rfl
@[simp] theorem Engine.setStream_tiles (en : Engine) (q : Nat) (f : Stream → Stream) :
    (en.setStream q f).tiles = en.tiles := rfl
@[simp] theorem Engine.setStream_accConflicts (en : Engine) (q : Nat) (f : Stream → Stream) :
    (en.setStream q f).accConflicts = en.accConflicts := rfl
@[simp] theorem Engine.setStream_insetWaits (en : Engine) (q : Nat) (f : Stream → Stream) :
    (en.setStream q f).insetWaits = en.insetWaits := rfl
@[simp] theorem Engine.setStream_euWaits (en : Engine) (q : Nat) (f : Stream → Stream) :
    (en.setStream q f).euWaits = en.euWaits := rfl
@[simp] theorem Engine.setStream_ttLog2 (en : Engine) (q : Nat) (f : Stream → Stream) :
    (en.setStream q f).ttLog2 = en.ttLog2 := rfl
@[simp] theorem Engine.setStream_ttBase (en : Engine) (q : Nat) (f : Stream → Stream) :
    (en.setStream q f).ttBase = en.ttBase := rfl
@[simp] theorem Engine.setStream_trap (en : Engine) (q : Nat) (f : Stream → Stream) :
    (en.setStream q f).trap = en.trap := rfl
@[simp] theorem Engine.setStream_keep (en : Engine) (q : Nat) (f : Stream → Stream) :
    (en.setStream q f).keep = en.keep := rfl
@[simp] theorem Engine.setStream_xl (en : Engine) (q : Nat) (f : Stream → Stream) : (en.setStream q f).xl = en.xl := rfl
@[simp] theorem Engine.setStream_selfParked (en : Engine) (q : Nat) (f : Stream → Stream) :
    (en.setStream q f).selfParked = en.selfParked := rfl
@[simp] theorem Engine.setStream_ras (en : Engine) (q : Nat) (f : Stream → Stream) :
    (en.setStream q f).ras = en.ras := rfl

@[simp] theorem Engine.setTile_streams (en : Engine) (t : Nat) (f : Tile → Tile) :
    (en.setTile t f).streams = en.streams := rfl
@[simp] theorem Engine.setTile_ops (en : Engine) (t : Nat) (f : Tile → Tile) : (en.setTile t f).ops = en.ops := rfl
@[simp] theorem Engine.setTile_nextId (en : Engine) (t : Nat) (f : Tile → Tile) :
    (en.setTile t f).nextId = en.nextId := rfl
@[simp] theorem Engine.setTile_stopped (en : Engine) (t : Nat) (f : Tile → Tile) :
    (en.setTile t f).stopped = en.stopped := rfl
@[simp] theorem Engine.setTile_saving (en : Engine) (t : Nat) (f : Tile → Tile) :
    (en.setTile t f).saving = en.saving := rfl
@[simp] theorem Engine.setTile_resetting (en : Engine) (t : Nat) (f : Tile → Tile) :
    (en.setTile t f).resetting = en.resetting := rfl
@[simp] theorem Engine.setTile_genHold (en : Engine) (t : Nat) (f : Tile → Tile) :
    (en.setTile t f).genHold = en.genHold := rfl
@[simp] theorem Engine.setTile_tokenSat (en : Engine) (t : Nat) (f : Tile → Tile) :
    (en.setTile t f).tokenSat = en.tokenSat := rfl
@[simp] theorem Engine.setTile_gen (en : Engine) (t : Nat) (f : Tile → Tile) : (en.setTile t f).gen = en.gen := rfl
@[simp] theorem Engine.setTile_tokens (en : Engine) (t : Nat) (f : Tile → Tile) :
    (en.setTile t f).tokens = en.tokens := rfl
@[simp] theorem Engine.setTile_notices (en : Engine) (t : Nat) (f : Tile → Tile) :
    (en.setTile t f).notices = en.notices := rfl
@[simp] theorem Engine.setTile_arr (en : Engine) (t : Nat) (f : Tile → Tile) : (en.setTile t f).arr = en.arr := rfl
@[simp] theorem Engine.setTile_tiles (en : Engine) (t : Nat) (f : Tile → Tile) :
    (en.setTile t f).tiles = en.tiles.modify t f := rfl
@[simp] theorem Engine.setTile_accConflicts (en : Engine) (t : Nat) (f : Tile → Tile) :
    (en.setTile t f).accConflicts = en.accConflicts := rfl
@[simp] theorem Engine.setTile_insetWaits (en : Engine) (t : Nat) (f : Tile → Tile) :
    (en.setTile t f).insetWaits = en.insetWaits := rfl
@[simp] theorem Engine.setTile_euWaits (en : Engine) (t : Nat) (f : Tile → Tile) :
    (en.setTile t f).euWaits = en.euWaits := rfl
@[simp] theorem Engine.setTile_ttLog2 (en : Engine) (t : Nat) (f : Tile → Tile) :
    (en.setTile t f).ttLog2 = en.ttLog2 := rfl
@[simp] theorem Engine.setTile_ttBase (en : Engine) (t : Nat) (f : Tile → Tile) :
    (en.setTile t f).ttBase = en.ttBase := rfl
@[simp] theorem Engine.setTile_trap (en : Engine) (t : Nat) (f : Tile → Tile) : (en.setTile t f).trap = en.trap := rfl
@[simp] theorem Engine.setTile_keep (en : Engine) (t : Nat) (f : Tile → Tile) : (en.setTile t f).keep = en.keep := rfl
@[simp] theorem Engine.setTile_xl (en : Engine) (t : Nat) (f : Tile → Tile) : (en.setTile t f).xl = en.xl := rfl
@[simp] theorem Engine.setTile_selfParked (en : Engine) (t : Nat) (f : Tile → Tile) :
    (en.setTile t f).selfParked = en.selfParked := rfl
@[simp] theorem Engine.setTile_ras (en : Engine) (t : Nat) (f : Tile → Tile) : (en.setTile t f).ras = en.ras := rfl

@[simp] theorem Engine.setOp_streams (en : Engine) (id : Nat) (f : Op → Op) :
    (en.setOp id f).streams = en.streams := rfl
@[simp] theorem Engine.setOp_ops (en : Engine) (id : Nat) (f : Op → Op) :
    (en.setOp id f).ops = en.ops.map (fun o => if o.id == id then f o else o) := rfl
@[simp] theorem Engine.setOp_nextId (en : Engine) (id : Nat) (f : Op → Op) : (en.setOp id f).nextId = en.nextId := rfl
@[simp] theorem Engine.setOp_stopped (en : Engine) (id : Nat) (f : Op → Op) :
    (en.setOp id f).stopped = en.stopped := rfl
@[simp] theorem Engine.setOp_saving (en : Engine) (id : Nat) (f : Op → Op) : (en.setOp id f).saving = en.saving := rfl
@[simp] theorem Engine.setOp_resetting (en : Engine) (id : Nat) (f : Op → Op) :
    (en.setOp id f).resetting = en.resetting := rfl
@[simp] theorem Engine.setOp_genHold (en : Engine) (id : Nat) (f : Op → Op) :
    (en.setOp id f).genHold = en.genHold := rfl
@[simp] theorem Engine.setOp_tokenSat (en : Engine) (id : Nat) (f : Op → Op) :
    (en.setOp id f).tokenSat = en.tokenSat := rfl
@[simp] theorem Engine.setOp_gen (en : Engine) (id : Nat) (f : Op → Op) : (en.setOp id f).gen = en.gen := rfl
@[simp] theorem Engine.setOp_tokens (en : Engine) (id : Nat) (f : Op → Op) : (en.setOp id f).tokens = en.tokens := rfl
@[simp] theorem Engine.setOp_notices (en : Engine) (id : Nat) (f : Op → Op) :
    (en.setOp id f).notices = en.notices := rfl
@[simp] theorem Engine.setOp_arr (en : Engine) (id : Nat) (f : Op → Op) : (en.setOp id f).arr = en.arr := rfl
@[simp] theorem Engine.setOp_tiles (en : Engine) (id : Nat) (f : Op → Op) : (en.setOp id f).tiles = en.tiles := rfl
@[simp] theorem Engine.setOp_accConflicts (en : Engine) (id : Nat) (f : Op → Op) :
    (en.setOp id f).accConflicts = en.accConflicts := rfl
@[simp] theorem Engine.setOp_insetWaits (en : Engine) (id : Nat) (f : Op → Op) :
    (en.setOp id f).insetWaits = en.insetWaits := rfl
@[simp] theorem Engine.setOp_euWaits (en : Engine) (id : Nat) (f : Op → Op) :
    (en.setOp id f).euWaits = en.euWaits := rfl
@[simp] theorem Engine.setOp_ttLog2 (en : Engine) (id : Nat) (f : Op → Op) : (en.setOp id f).ttLog2 = en.ttLog2 := rfl
@[simp] theorem Engine.setOp_ttBase (en : Engine) (id : Nat) (f : Op → Op) : (en.setOp id f).ttBase = en.ttBase := rfl
@[simp] theorem Engine.setOp_trap (en : Engine) (id : Nat) (f : Op → Op) : (en.setOp id f).trap = en.trap := rfl
@[simp] theorem Engine.setOp_keep (en : Engine) (id : Nat) (f : Op → Op) : (en.setOp id f).keep = en.keep := rfl
@[simp] theorem Engine.setOp_xl (en : Engine) (id : Nat) (f : Op → Op) : (en.setOp id f).xl = en.xl := rfl
@[simp] theorem Engine.setOp_selfParked (en : Engine) (id : Nat) (f : Op → Op) :
    (en.setOp id f).selfParked = en.selfParked := rfl
@[simp] theorem Engine.setOp_ras (en : Engine) (id : Nat) (f : Op → Op) : (en.setOp id f).ras = en.ras := rfl

@[simp] theorem Engine.delOp_streams (en : Engine) (id : Nat) : (en.delOp id).streams = en.streams := rfl
@[simp] theorem Engine.delOp_ops (en : Engine) (id : Nat) :
    (en.delOp id).ops = en.ops.filter (fun o => o.id != id) := rfl
@[simp] theorem Engine.delOp_nextId (en : Engine) (id : Nat) : (en.delOp id).nextId = en.nextId := rfl
@[simp] theorem Engine.delOp_stopped (en : Engine) (id : Nat) : (en.delOp id).stopped = en.stopped := rfl
@[simp] theorem Engine.delOp_saving (en : Engine) (id : Nat) : (en.delOp id).saving = en.saving := rfl
@[simp] theorem Engine.delOp_resetting (en : Engine) (id : Nat) : (en.delOp id).resetting = en.resetting := rfl
@[simp] theorem Engine.delOp_genHold (en : Engine) (id : Nat) : (en.delOp id).genHold = en.genHold := rfl
@[simp] theorem Engine.delOp_tokenSat (en : Engine) (id : Nat) : (en.delOp id).tokenSat = en.tokenSat := rfl
@[simp] theorem Engine.delOp_gen (en : Engine) (id : Nat) : (en.delOp id).gen = en.gen := rfl
@[simp] theorem Engine.delOp_tokens (en : Engine) (id : Nat) : (en.delOp id).tokens = en.tokens := rfl
@[simp] theorem Engine.delOp_notices (en : Engine) (id : Nat) : (en.delOp id).notices = en.notices := rfl
@[simp] theorem Engine.delOp_arr (en : Engine) (id : Nat) : (en.delOp id).arr = en.arr := rfl
@[simp] theorem Engine.delOp_tiles (en : Engine) (id : Nat) : (en.delOp id).tiles = en.tiles := rfl
@[simp] theorem Engine.delOp_accConflicts (en : Engine) (id : Nat) : (en.delOp id).accConflicts = en.accConflicts := rfl
@[simp] theorem Engine.delOp_insetWaits (en : Engine) (id : Nat) : (en.delOp id).insetWaits = en.insetWaits := rfl
@[simp] theorem Engine.delOp_euWaits (en : Engine) (id : Nat) : (en.delOp id).euWaits = en.euWaits := rfl
@[simp] theorem Engine.delOp_ttLog2 (en : Engine) (id : Nat) : (en.delOp id).ttLog2 = en.ttLog2 := rfl
@[simp] theorem Engine.delOp_ttBase (en : Engine) (id : Nat) : (en.delOp id).ttBase = en.ttBase := rfl
@[simp] theorem Engine.delOp_trap (en : Engine) (id : Nat) : (en.delOp id).trap = en.trap := rfl
@[simp] theorem Engine.delOp_keep (en : Engine) (id : Nat) : (en.delOp id).keep = en.keep := rfl
@[simp] theorem Engine.delOp_xl (en : Engine) (id : Nat) : (en.delOp id).xl = en.xl := rfl
@[simp] theorem Engine.delOp_selfParked (en : Engine) (id : Nat) : (en.delOp id).selfParked = en.selfParked := rfl
@[simp] theorem Engine.delOp_ras (en : Engine) (id : Nat) : (en.delOp id).ras = en.ras := rfl

/-! ### Reading back one part -/

theorem getD_modify {α : Type} (l : List α) (i : Nat) (f : α → α) (d : α) (j : Nat) :
    (l.modify i f).getD j d = if i = j ∧ j < l.length then f (l.getD j d) else l.getD j d := by
  simp only [List.getD_eq_getElem?_getD, List.getElem?_modify]
  by_cases h : i = j
  · subst h
    by_cases hl : i < l.length
    · simp [hl]
    · simp [hl]
  · simp [h]

theorem Work.engine_setEngine (w : Work) (e : Nat) (f : Engine → Engine) (x : Nat) :
    (w.setEngine e f).engine x = if e = x ∧ x < w.engines.length then f (w.engine x) else w.engine x :=
  getD_modify _ _ _ _ _

@[simp] theorem Work.engine_setEngine_self (w : Work) (e : Nat) (f : Engine → Engine) (h : e < w.engines.length) :
    (w.setEngine e f).engine e = f (w.engine e) := by simp [Work.engine_setEngine, h]

@[simp] theorem Work.engine_setEngine_other (w : Work) (e x : Nat) (f : Engine → Engine) (h : e ≠ x) :
    (w.setEngine e f).engine x = w.engine x := by simp [Work.engine_setEngine, h]

theorem Engine.stream_setStream (en : Engine) (q : Nat) (f : Stream → Stream) (x : Nat) :
    (en.setStream q f).stream x = if q = x ∧ x < en.streams.length then f (en.stream x) else en.stream x :=
  getD_modify _ _ _ _ _

theorem Engine.tile_setTile (en : Engine) (t : Nat) (f : Tile → Tile) (x : Nat) :
    (en.setTile t f).tile x = if t = x ∧ x < en.tiles.length then f (en.tile x) else en.tile x :=
  getD_modify _ _ _ _ _

theorem Work.stream_setStream (w : Work) (e q : Nat) (f : Stream → Stream) (x y : Nat) :
    (w.setStream e q f).stream x y =
      if e = x ∧ x < w.engines.length ∧ q = y ∧ y < (w.engine x).streams.length then f (w.stream x y) else w.stream x y := by
  simp only [Work.stream, Work.setStream, Work.engine_setEngine]
  split_ifs with h1 h2 h3
  · rw [Engine.stream_setStream, if_pos ⟨h2.2.2.1, h2.2.2.2⟩]
  · rw [Engine.stream_setStream, if_neg (fun h => h2 ⟨h1.1, h1.2, h.1, h.2⟩)]
  · exact absurd ⟨h3.1, h3.2.1⟩ h1
  · rfl

@[simp] theorem Work.length_setEngine (w : Work) (e : Nat) (f : Engine → Engine) :
    (w.setEngine e f).engines.length = w.engines.length := by simp [Work.setEngine]

theorem Coherence.home_setHome (w : Work) (i : Nat) (f : Home → Home) (x : Nat) :
    (w.setHome i f).coh.home x = if i = x ∧ x < w.coh.homes.length then f (w.coh.home x) else w.coh.home x :=
  getD_modify _ _ _ _ _

theorem Hub.mailbox_setMailbox (h : Hub) (k : Nat) (f : Mailbox → Mailbox) (x : Nat) :
    (h.setMailbox k f).mailbox x = if k = x ∧ x < h.fw.mailboxes.length then f (h.mailbox x) else h.mailbox x :=
  getD_modify _ _ _ _ _

theorem Hub.proc_setProc (h : Hub) (n : Nat) (f : FwProc → FwProc) (x : Nat) :
    (h.setProc n f).proc x = if n = x ∧ x < h.fw.procs.length then f (h.proc x) else h.proc x :=
  getD_modify _ _ _ _ _

theorem collQ_setCollQ (w : Work) (k : Nat) (f : CollQueue → CollQueue) (x : Nat) :
    collQ (w.setCollQ k f) x = if k = x ∧ x < w.colls.queues.length then f (collQ w x) else collQ w x :=
  getD_modify _ _ _ _ _

/-- Every update of one part leaves the engines of the rest as they are. -/
theorem Work.engine_congr {w v : Work} (h : w.engines = v.engines) (e : Nat) : w.engine e = v.engine e := by
  simp [Work.engine, h]

theorem onWork_pending (s : State) (f : Hub → Work → Work) (t : State) (h : onWork s f = .next t) :
    t.pending = s.pending ∧ t.hub = s.hub ∧ t.work = f s.hub s.work := by
  cases h
  exact ⟨rfl, rfl, rfl⟩

end Sys2Proof.Machine
end

