-- ==== Sys2Proof/Laws/Coherence.lean ====
section
/-!
SUPPORT. Coherent lines (11): what dropping the copies of a line, taking its data to its home and noting it in the
directory leave of the coherent bytes and of the holders.
-/

namespace Sys2Proof.Machine

theorem find?_filter_of_imp {α : Type} (l : List α) (p q : α → Bool) (h : ∀ x, p x = true → q x = true) :
    (l.filter q).find? p = l.find? p := by
  induction l with
  | nil => rfl
  | cons x l ih =>
    by_cases hp : p x = true
    · simp [h x hp, hp]
    · by_cases hq : q x = true
      · simp [hq, hp, ih]
      · simp [hq, hp, ih]

theorem find?_map_of_fix {α : Type} (l : List α) (p : α → Bool) (f : α → α) (h : ∀ x, p (f x) = p x)
    (hf : ∀ x, p x = true → f x = x) : (l.map f).find? p = l.find? p := by
  induction l with
  | nil => rfl
  | cons x l ih =>
    by_cases hp : p x = true
    · simp [hp, hf x hp]
    · simp [h, hp, ih]

/-- A line whose copies are all dropped has no dirty copy; every other line keeps its own. -/
theorem dirtyCopy_dropCopies (c : Coherence) (ln x : Nat) :
    dirtyCopy (dropCopies c ln none) x = if x = ln then none else dirtyCopy c x := by
  have hh : ∀ y, ((dropCopies c ln none).home y).txns.find? (fun t => t.line == x && t.supplied.isSome) =
      if x = ln ∧ y = lineHome ln then none else (c.home y).txns.find? (fun t => t.line == x && t.supplied.isSome) := by
    intro y
    simp only [Coherence.home, dropCopies, clearSupplied, getD_modify]
    by_cases hy : lineHome ln = y ∧ y < c.homes.length
    · rw [if_pos hy]
      by_cases hx : x = ln
      · rw [if_pos ⟨hx, hy.1.symm⟩, List.find?_eq_none]
        intro t ht
        obtain ⟨u, -, rfl⟩ := List.mem_map.1 ht
        subst hx
        by_cases hu : u.line = x <;> simp [hu]
      · rw [if_neg (by simp [hx])]
        apply find?_map_of_fix
        · intro t
          by_cases hu : t.line = ln
          · simp [hu, Ne.symm hx]
          · simp [hu]
        · intro t ht
          have : t.line ≠ ln := by
            rintro rfl
            simp [Ne.symm hx] at ht
          simp [this]
    · rw [if_neg hy]
      by_cases hx : x = ln ∧ y = lineHome ln
      · rw [if_pos hx]
        have : c.homes.getD y resetHome = resetHome := by
          apply List.getD_eq_default
          have := hy
          rw [hx.2] at this ⊢
          simpa using this
        rw [this]; rfl
      · rw [if_neg hx]
  have hl : (dropCopies c ln none).lines.find? (fun l => l.line == x && dirty l) =
      if x = ln then none else c.lines.find? (fun l => l.line == x && dirty l) := by
    simp only [dropCopies]
    by_cases hx : x = ln
    · rw [if_pos hx, List.find?_eq_none]
      intro l hl
      simp at hl
      simp [hx, hl.2]
    · rw [if_neg hx]
      apply find?_filter_of_imp
      intro l hl
      simp at hl
      simp [hl.1, hx]
  have hv : (dropCopies c ln none).victims.find? (fun v => v.line == x && !v.crossed && !v.done) =
      if x = ln then none else c.victims.find? (fun v => v.line == x && !v.crossed && !v.done) := by
    simp only [dropCopies]
    by_cases hx : x = ln
    · rw [if_pos hx, List.find?_eq_none]
      intro v hv
      obtain ⟨u, -, rfl⟩ := List.mem_map.1 hv
      subst hx
      by_cases hu : u.line = x <;> cases hd : u.done <;> simp [hu, hd]
    · rw [if_neg hx]
      apply find?_map_of_fix
      · intro v
        by_cases hu : v.line = ln
        · cases hd : v.done <;> simp [hu, hd, Ne.symm hx]
        · simp [hu]
      · intro v hv
        have : v.line ≠ ln := by
          rintro rfl
          simp [Ne.symm hx] at hv
        simp [this]
  unfold dirtyCopy
  rw [hl, hv, hh]
  by_cases hx : x = ln
  · subst hx; simp
  · simp [hx]

theorem holders_dropCopies (c : Coherence) (ln x : Nat) :
    holders (dropCopies c ln none) x = if x = ln then [] else holders c x := by
  simp only [holders, dropCopies]
  by_cases hx : x = ln
  · subst hx
    simp
  · rw [if_neg hx, List.filter_filter]
    apply List.filter_congr
    intro l _
    by_cases h : l.line = x
    · simp [h, hx]
    · simp [h]

/-- Quarantine, the directory and the counts of a home hold no data. -/
theorem dirtyCopy_setHome (w : Work) (i : Nat) (f : Home → Home) (hf : ∀ hm, (f hm).txns = hm.txns) (x : Nat) :
    dirtyCopy (w.setHome i f).coh x = dirtyCopy w.coh x := by
  have : ((w.setHome i f).coh.home (lineHome x)).txns = (w.coh.home (lineHome x)).txns := by
    rw [Coherence.home_setHome]
    split_ifs <;> simp [hf]
  simp [dirtyCopy, this]

theorem holders_setHome (w : Work) (i : Nat) (f : Home → Home) (x : Nat) :
    holders (w.setHome i f).coh x = holders w.coh x := rfl

theorem cohByte_setHome (w : Work) (i : Nat) (f : Home → Home) (hf : ∀ hm, (f hm).txns = hm.txns) (x : Nat) :
    cohByte (w.setHome i f) x = cohByte w x := by
  simp [cohByte, dirtyCopy_setHome w i f hf]

theorem quarantineLine_eq (w : Work) (ln : Nat) :
    ∃ f : Home → Home, (∀ hm, (f hm).txns = hm.txns) ∧ quarantineLine w ln = w.setHome (lineHome ln) f := by
  refine ⟨_, ?_, rfl⟩
  intro hm
  split_ifs <;> rfl

/-- Taking dirty data to its home writes only the bytes of the line; lines and victims stay. -/
theorem dataToHome_spec (w : Work) (ln : Nat) (d : List Byte) (bad : Bool) :
    (∀ x, dirtyCopy (dataToHome w ln d bad).coh x = dirtyCopy w.coh x) ∧
      (∀ x, holders (dataToHome w ln d bad).coh x = holders w.coh x) ∧
      (∀ a, lineOf a ≠ ln → memGet (dataToHome w ln d bad).mem a = memGet w.mem a) ∧
      (bad = false → ∀ a, lineOf a = ln → memGet (dataToHome w ln d bad).mem a = d.getD (a % 128) 0) := by
  cases bad
  · refine ⟨fun _ => rfl, fun _ => rfl, fun a ha => ?_, fun _ a ha => ?_⟩
    · simp only [dataToHome, Bool.false_eq_true, if_false]
      rw [memGet_write_out]
      simp [lineOf] at *
      omega
    · simp only [dataToHome, Bool.false_eq_true, if_false]
      have e : a = ln * 128 + a % 128 := by simp [lineOf] at ha; omega
      have hl : a % 128 < 128 := Nat.mod_lt _ (by decide)
      conv_lhs => rw [e]
      rw [memGet_write_in _ _ _ _ (by simpa using hl)]
      simp [List.getD_eq_getElem?_getD, hl]
  · obtain ⟨f, hf, he⟩ := quarantineLine_eq
      { w with
        mem := memWrite w.mem (ln * 128) ((List.range 128).map (fun i =>
          if Config.freeByteGood w.freeIx i then d.getD i 0 else memGet w.mem (ln * 128 + i))) } ln
    refine ⟨fun x => ?_, fun x => ?_, fun a ha => ?_, fun h => absurd h (by decide)⟩
    · simp only [dataToHome, if_true, badToHome, he]
      exact dirtyCopy_setHome _ _ _ hf x
    · simp only [dataToHome, if_true, badToHome, he]
      rfl
    · simp only [dataToHome, if_true, badToHome, he, Work.tick_mem, Work.setHome_mem]
      rw [memGet_write_out]
      simp [lineOf] at *
      omega

/-- After a line is taken to its home, no cache holds it and nothing dirty of it is left; no byte of another line has
changed, nor a byte of the line itself unless its dirty copy was bad. -/
theorem flushLine_spec (w : Work) (ln : Nat) :
    (∀ x, dirtyCopy (flushLine w ln).coh x = if x = ln then none else dirtyCopy w.coh x) ∧
      (∀ x, holders (flushLine w ln).coh x = if x = ln then [] else holders w.coh x) ∧
      (∀ a, lineOf a ≠ ln → cohByte (flushLine w ln) a = cohByte w a) ∧
      ((∀ d, dirtyCopy w.coh ln ≠ some (d, true)) → ∀ a, lineOf a = ln → cohByte (flushLine w ln) a = cohByte w a) := by
  unfold flushLine
  cases hd : dirtyCopy w.coh ln with
  | none =>
    refine ⟨fun x => dirtyCopy_dropCopies _ _ _, fun x => holders_dropCopies _ _ _, fun a ha => ?_, fun _ a ha => ?_⟩
    · simp [cohByte, dirtyCopy_dropCopies, ha]
    · simp [cohByte, dirtyCopy_dropCopies, ha, hd]
  | some p =>
    obtain ⟨d, bad⟩ := p
    obtain ⟨h1, h2, h3, h4⟩ := dataToHome_spec w ln d bad
    refine ⟨fun x => ?_, fun x => ?_, fun a ha => ?_, fun hb a ha => ?_⟩
    · simp only [dirtyCopy_dropCopies, h1]
    · simp only [holders_dropCopies, h2]
    · simp only [cohByte, dirtyCopy_dropCopies, ha, if_false, h1, h3 a ha]
    · have : bad = false := by
        cases bad
        · rfl
        · exact absurd rfl (hb d)
      subst this
      simp only [cohByte, dirtyCopy_dropCopies, ha, if_true, hd, h4 rfl a ha]

/-- Noting a line in the directory changes no coherent byte of it and none of its holders. -/
theorem dirNote_spec (h : Hub) (w : Work) (ln : Nat) :
    (∀ a, lineOf a = ln → cohByte (dirNote h w ln) a = cohByte w a) ∧
      holders (dirNote h w ln).coh ln = holders w.coh ln := by
  have key : ∀ w1 : Work, (∀ a, lineOf a = ln → cohByte w1 a = cohByte w a) → holders w1.coh ln = holders w.coh ln →
      ∀ (i : Nat) (f : Home → Home), (∀ hm, (f hm).txns = hm.txns) →
      (∀ a, lineOf a = ln → cohByte (w1.setHome i f) a = cohByte w a) ∧
        holders (w1.setHome i f).coh ln = holders w.coh ln :=
    fun w1 h1 h2 i f hf => ⟨fun a ha => (cohByte_setHome w1 i f hf a).trans (h1 a ha), h2⟩
  have same := key w (fun _ _ => rfl) rfl
  unfold dirNote
  split
  · dsimp only
    split
    · exact same _ _ (fun _ => rfl)
    · split
      · exact same _ _ (fun _ => rfl)
      · rename_i v hv
        have hne : v.line ≠ ln := by
          split at hv
          · simp at hv
          · have hm := List.mem_of_mem_head? hv
            simp only [List.mem_filter, bne_iff_ne] at hm
            exact hm.1.2
        obtain ⟨-, f2, f3, -⟩ := flushLine_spec w v.line
        exact key _ (fun a ha => f3 a (by rw [ha]; exact hne.symm)) (by rw [f2, if_neg hne.symm]) _ _ (fun _ => rfl)
  · exact ⟨fun _ _ => rfl, rfl⟩

theorem lineFault_none_clean (w : Work) (ln : Nat) (h : lineFault w ln = none) :
    ∀ d, dirtyCopy w.coh ln ≠ some (d, true) := by
  intro d hd
  unfold lineFault at h
  rw [hd] at h
  dsimp only at h
  split_ifs at h

/-! ### The coherence operations leave the tables as they are -/

@[simp] theorem quarantineLine_tables (w : Work) (ln : Nat) : (quarantineLine w ln).tables = w.tables := rfl

@[simp] theorem dataToHome_tables (w : Work) (ln : Nat) (d : List Byte) (bad : Bool) : (dataToHome w ln d bad).tables = w.tables := by
  unfold dataToHome
  split <;> rfl

@[simp] theorem flushLine_tables (w : Work) (ln : Nat) : (flushLine w ln).tables = w.tables := by
  unfold flushLine
  split <;> simp

@[simp] theorem dirNote_tables (h : Hub) (w : Work) (ln : Nat) : (dirNote h w ln).tables = w.tables := by
  unfold dirNote
  dsimp only
  split
  · split
    · rfl
    · split <;> simp
  · rfl

@[simp] theorem makeRoom_tables (h : Hub) (w : Work) (agent ln : Nat) : (makeRoom h w agent ln).tables = w.tables := by
  unfold makeRoom evictLine
  dsimp only
  split
  · rfl
  · split
    · split <;> simp
    · rfl

@[simp] theorem ownLine_tables (h : Hub) (w : Work) (agent ln a : Nat) (bs : List Byte) :
    (ownLine h w agent ln a bs).tables = w.tables := by
  simp [ownLine]

theorem foldl_tables {α : Type} (f : Work → α → Work) (hf : ∀ w x, (f w x).tables = w.tables) (l : List α) (w : Work) :
    (l.foldl f w).tables = w.tables := by
  induction l generalizing w with
  | nil => rfl
  | cons x l ih => rw [List.foldl_cons, ih, hf]

end Sys2Proof.Machine
end

