-- ==== Sys2Proof/Laws/Ops.lean ====
section
/-!
SUPPORT. The shared operations, each with one lemma that says what it can do: log records, packets, the sequencer's
decision, descriptors' ends, mailbox commands and trips.
-/

namespace Sys2Proof.Machine

/-! ### Log records -/

/-- A log record changes the logs and nothing else. -/
theorem emit_spec (h : Hub) (w : Work) (s : LogSource) : ∃ l, emit h w s = { w with logs := l } := by
  unfold emit
  split_ifs
  · exact ⟨_, rfl⟩
  · exact ⟨_, rfl⟩

theorem trace_spec (h : Hub) (w : Work) (event : Nat) (unit : BitVec 16) (ident : Nat) :
    ∃ l, trace h w event unit ident = { w with logs := l } := by
  unfold trace
  split_ifs
  · exact emit_spec _ _ _
  · exact ⟨w.logs, rfl⟩

/-- A trace event that is not enabled changes nothing. -/
theorem trace_off (h : Hub) (w : Work) (event : Nat) (unit : BitVec 16) (ident : Nat)
    (ht : bitOf w.logs.traceEnable (event - 1) = false) : trace h w event unit ident = w := by
  simp [trace, ht]

theorem emitMemError_spec (h : Hub) (w : Work) (code : Code) (unit : BitVec 16) (addr : Nat) :
    ∃ l, emitMemError h w code unit addr = { w with logs := l } := emit_spec _ _ _

theorem faultLog_spec (h : Hub) (w : Work) (e : Nat) (code : Code) (isn : Word) (addr : Nat) :
    ∃ l, faultLog h w e code isn addr = { w with logs := l } := by
  unfold faultLog
  split
  · exact emitMemError_spec _ _ _ _ _
  · exact emit_spec _ _ _

/-! ### Packets -/

theorem inject_spec (h : Hub) (w : Work) (port : Nat) (ingress : Bool) (p : Packet) :
    ∃ rules ports, (inject h w port ingress p).1 = { w with fabric := { w.fabric with rules := rules, ports := ports } } := by
  unfold inject
  split
  · exact ⟨_, _, rfl⟩
  · exact ⟨w.fabric.rules, w.fabric.ports, rfl⟩

/-- A packet at an egress port changes ports and injection rules only. -/
theorem egress_spec (h : Hub) (w : Work) (port : Nat) (p : Packet) :
    ∃ rules ports, egress h w port p = { w with fabric := { w.fabric with rules := rules, ports := ports } } := by
  have fold : ∀ (l : List Packet) (v : Work),
      ∃ ports, l.foldl (fun w pk => w.setPort port (fun x => enqueue x pk)) v =
        { v with fabric := { v.fabric with ports := ports } } := by
    intro l
    induction l with
    | nil => exact fun v => ⟨v.fabric.ports, rfl⟩
    | cons a l ih =>
      intro v
      obtain ⟨ps, hp⟩ := ih (v.setPort port (fun x => enqueue x a))
      exact ⟨ps, hp⟩
  obtain ⟨r, ps, hi⟩ := inject_spec h w port false p
  obtain ⟨ps2, hf⟩ := fold (inject h w port false p).2 (inject h w port false p).1
  refine ⟨r, ps2, ?_⟩
  unfold egress
  dsimp only
  rw [hf, hi]

/-- Sending a packet changes the fabric's senders, ports and injection rules only. -/
theorem sendPacket_spec (h : Hub) (w : Work) (mask : Nat) (p : Packet) :
    ∃ ss rules ports, (sendPacket h w mask p).1 =
      { w with fabric := { w.fabric with senders := ss, rules := rules, ports := ports } } := by
  have same : ∃ ss rules ports, w = { w with fabric := { w.fabric with senders := ss, rules := rules, ports := ports } } :=
    ⟨w.fabric.senders, w.fabric.rules, w.fabric.ports, rfl⟩
  unfold sendPacket
  dsimp only
  split_ifs
  · exact same
  · exact same
  · split
    · exact same
    · split_ifs
      · exact same
      · obtain ⟨r, ps, he⟩ := egress_spec h (w.setSender _) _ _
        exact ⟨_, r, ps, he⟩

theorem sendRequest_spec (h : Hub) (w : Work) (mask dest cls op addr len : Nat) (payload : List Byte) (who : Requester) :
    ∃ f, (sendRequest h w mask dest cls op addr len payload who).1 = { w with fabric := f } ∧ f.inbox = w.fabric.inbox := by
  unfold sendRequest
  dsimp only
  obtain ⟨ss, r, ps, he⟩ := sendPacket_spec h
    { w with
      fabric :=
        { w.fabric with
          nextTag := (w.fabric.nextTag + 1) % 65536, requests := w.fabric.requests ++ [(w.fabric.nextTag, who)] } }
    mask (requestPacket h dest cls op addr w.fabric.nextTag len payload)
  rcases hq : sendPacket h _ mask (requestPacket h dest cls op addr w.fabric.nextTag len payload) with ⟨w2, c⟩
  rw [hq] at he
  dsimp only at he ⊢
  split_ifs
  · exact ⟨_, he, rfl⟩
  · exact ⟨w.fabric, rfl, rfl⟩

theorem sendResponse_spec (h : Hub) (w : Work) (mask : Nat) (req : Packet) (status : Code) (data : List Byte) :
    ∃ f, sendResponse h w mask req status data = { w with fabric := f } ∧ f.inbox = w.fabric.inbox := by
  unfold sendResponse
  dsimp only
  obtain ⟨ss, r, ps, he⟩ := sendPacket_spec h
    { w with
      fabric :=
        { w.fabric with
          receivers :=
            w.fabric.receivers.map (fun r =>
              if r.src == req.src && r.cls == req.cls then
                { r with
                  kept := r.kept ++
                    [(req.psn, mask,
                      ⟨req.src, req.cls, req.op + 0x80, ownNumber h, data.length, 0, 0, req.addr, req.tag, status, 0, 0,
                        true, data⟩)] }
              else r) } }
    mask
    ⟨req.src, req.cls, req.op + 0x80, ownNumber h, data.length, 0, 0, req.addr, req.tag, status, 0, 0, true, data⟩
  exact ⟨_, he, rfl⟩

/-! ### The sequencer -/

/-- One decision of the sequencer: it waits and changes nothing, refuses the instruction, or gives its word to `run`. -/
theorem decideInstr_cases (h : Hub) (w : Work) (e q : Nat) (mine : Nat → Bool) (run : Work → Nat → Work) :
    (fetch h w e q mine = .wait ∧ decideInstr h w e q mine run = w) ∨
      (∃ c op a t, fetch h w e q mine = .refuse c op a t ∧
        decideInstr h w e q mine run = refuseInstr h (serveStream w e q) e q c op a none t) ∨
      (∃ word, fetch h w e q mine = .go word ∧
        decideInstr h w e q mine run =
          run
            ((keepPage h (serveStream w e q) e (fetchAddr (w.stream e q))).setStream e q (fun s => { s with tileWait := [] }))
            word) := by
  unfold decideInstr
  cases fetch h w e q mine with
  | wait => exact .inl ⟨rfl, rfl⟩
  | refuse c op a t => exact .inr (.inl ⟨c, op, a, t, rfl, rfl⟩)
  | go word => exact .inr (.inr ⟨word, rfl, rfl⟩)

/-- The word that a stream may issue now goes to `run`, in the state once it is taken up. -/
theorem decideInstr_finds (s : State) (e q : Nat) (mine : Nat → Bool) (run : Work → Nat → Work) (word : Nat)
    (hf : Finds s e q mine word) : decideInstr s.hub s.work e q mine run = run (taken s e q) word := by
  unfold Finds at hf
  unfold decideInstr
  rw [hf]
  rfl

/-- A stream that is not ready decides nothing. -/
theorem decideInstr_waits (h : Hub) (w : Work) (e q : Nat) (mine : Nat → Bool) (run : Work → Nat → Work)
    (hr : streamReady h w e q = false) : decideInstr h w e q mine run = w := by
  have hw : fetch h w e q mine = .wait := by
    unfold fetch fetchAt
    split_ifs <;> simp_all
  unfold decideInstr
  rw [hw]

/-- Keeping a page changes the engines only. -/
theorem keepPage_spec (h : Hub) (w : Work) (e a : Nat) : ∃ es, keepPage h w e a = { w with engines := es } := by
  unfold keepPage
  by_cases hc : (!(w.engine e).xl.enable || (w.engine e).xl.pending || decide (lpddrEnd h ≤ a) ||
      (w.engine e).xl.kept.any (fun k => k.1 == a / 0x200000)) = true
  · exact ⟨w.engines, if_pos hc⟩
  · simp only [hc]
    cases walk h w (w.engine e).xl.base a with
    | error c => exact ⟨w.engines, rfl⟩
    | ok l => exact ⟨_, rfl⟩

/-- Without translation no page is kept. -/
theorem keepPage_off (h : Hub) (w : Work) (e a : Nat) (hx : (w.engine e).xl.enable = false) : keepPage h w e a = w := by
  unfold keepPage
  simp only [hx, Bool.not_false, Bool.true_or, if_true]

/-! ### Descriptors -/

/-- A descriptor without a completion record that ends with a code faults its stream and writes nothing. -/
theorem finishDescriptor_fault (h : Hub) (w : Work) (e q : Nat) (isn : Word) (code : Code)
    (ha : (w.stream e q).complAddr = 0) (hc : code ≠ 0) :
    finishDescriptor h w e q isn code =
      w.setStream e q (fun s =>
        { s with
          desc := none, running := false, endIssued := false, acquire := none, tileWait := [], faulting := none
          fault := true }) := by
  have hb : (code != 0) = true := by simpa using hc
  unfold finishDescriptor
  have h0 : BitVec.toNat (0 : Word) = 0 := rfl
  simp only [ha, h0, if_true, hb, if_neg hc]

@[simp] theorem length_completionBytes (e q : Nat) (isn : Word) (code : Code) :
    (completionBytes e q isn code).length = 16 := by
  have : ∀ n v, (leBytes n v).length = n := by
    intro n
    induction n with
    | zero => intro v; rfl
    | succ n ih => intro v; simp [leBytes, ih]
  simp [completionBytes, this]

/-! ### Physical writes -/

/-- A write outside LPDDR5X is a write of the bank's bytes. -/
theorem physWrite_sram (h : Hub) (w : Work) (a : Nat) (bs : List Byte) (ha : lpddrEnd h ≤ a) :
    physWrite h w a bs = { w with mem := memWrite w.mem a bs } := by
  simp [physWrite, Nat.not_lt.2 ha]

theorem writeFault_sram (h : Hub) (w : Work) (a : Nat) (bs : List Byte) (ha : lpddrEnd h ≤ a) :
    writeFault h w a bs = none := by
  simp [writeFault, Nat.not_lt.2 ha]

/-! ### Steps on protected pieces -/

/-- What leaves the homes alone holds nothing. -/
theorem newlyHeld_coh (w v : Work) (h : v.coh = w.coh) : newlyHeld w v = [] := by
  simp [newlyHeld, h]

/-- A step whose writes meet no protected piece is taken. -/
theorem wholeStep_done (w : Work) (who : Nat × Nat × Nat) (done : Work) (h : newlyHeld w done = []) :
    wholeStep w who done = done := by
  simp [wholeStep, h]

theorem wholeCommand_eq (s : State) (k : Nat) (x : Hub × Work) : wholeCommand s k x = .next (afterCommand s k x) := by
  unfold wholeCommand afterCommand
  cases newlyHeld s.work x.2 <;> rfl

theorem afterCommand_pending (s : State) (k : Nat) (x : Hub × Work) : (afterCommand s k x).pending = s.pending := by
  unfold afterCommand
  split <;> rfl

/-- A command whose effect meets no protected piece is carried out. -/
theorem afterCommand_done (s : State) (k : Nat) (x : Hub × Work) (h : newlyHeld s.work x.2 = []) :
    afterCommand s k x = { s with hub := x.1, work := x.2 } := by
  simp [afterCommand, h]

/-! ### Mailbox commands -/

/-- What a mailbox command can do: nothing, or what its run says, completed where the run completes. -/
theorem serveCommandThen_pending (op owner : Nat) (priv : Bool) (fields : List (Nat × Nat))
    (run : Hub → Work → Nat → List Byte → MbResult) (after : List Byte → Hub → Work → Hub × Work) (k : Nat) (s t : State)
    (h : serveCommandThen op owner priv fields run after k s = .next t) : t.pending = s.pending := by
  unfold serveCommandThen at h
  simp only [wholeCommand_eq] at h
  repeat' split at h
  all_goals (cases h; first | rfl | exact afterCommand_pending _ _ _)

theorem serveCommandThen_idle (op owner : Nat) (priv : Bool) (fields : List (Nat × Nat))
    (run : Hub → Work → Nat → List Byte → MbResult) (after : List Byte → Hub → Work → Hub × Work) (k : Nat) (s : State)
    (h : heldCommand s.hub k (fun o => o == op) = none) : serveCommandThen op owner priv fields run after k s = .next s := by
  simp [serveCommandThen, h]

/-- A command that a working processor serves, with its privilege and its reserved bytes in order, runs. -/
theorem serveCommandThen_runs (op owner : Nat) (priv : Bool) (fields : List (Nat × Nat))
    (run : Hub → Work → Nat → List Byte → MbResult) (after : List Byte → Hub → Work → Hub × Work) (k : Nat) (s : State)
    (d : Desc) (h : heldCommand s.hub k (fun o => o == op) = some d) (hf : fwFailed s.hub owner = false)
    (hr : fwRuns s.hub owner = true) (hp : priv = true → (s.hub.mailbox k).priv = true)
    (ha : argsReserved fields d.payload = false) :
    serveCommandThen op owner priv fields run after k s =
      (match run s.hub s.work k d.payload with
       | ⟨h, w, none⟩ => .next (afterCommand s k (h, w))
       | ⟨h, w, some (c, result)⟩ =>
         let x := completeCommand h w k c result
         .next (afterCommand s k (if c = 0 then after d.payload x.1 x.2 else x))) := by
  have hq : (priv && !(s.hub.mailbox k).priv) = false := by cases priv <;> simp_all
  rcases hx : run s.hub s.work k d.payload with ⟨h1, w1, _ | ⟨c, r⟩⟩ <;>
    simp [serveCommandThen, h, hf, hr, ha, hq, hx, wholeCommand_eq]

/-! ### Trips -/

/-- A trip changes only the count, the last code and the log of the safety partition. -/
theorem trip_hub (h : Hub) (w : Work) (code : Code) (source value : Nat) :
    (trip h w code source value).1.ident = h.ident ∧ (trip h w code source value).1.fw = h.fw ∧
      (trip h w code source value).1.sec = h.sec ∧ (trip h w code source value).1.safety.capMv = h.safety.capMv ∧
      (trip h w code source value).1.safety.requestMv = h.safety.requestMv ∧
      (trip h w code source value).1.safety.limits = h.safety.limits := by
  refine ⟨rfl, rfl, rfl, rfl, rfl, rfl⟩

end Sys2Proof.Machine
end

