-- ==== Sys2Proof/Laws/Reads.lean ====
section
/-!
SUPPORT. What a read of many bytes answers when no byte of it faults, and the fields of what was read.
-/

namespace Sys2Proof.Machine

theorem mapM_ok {ε α β : Type} (xs : List α) (f : α → Except ε β) (g : α → β) (h : ∀ x ∈ xs, f x = .ok (g x)) :
    xs.mapM f = .ok (xs.map g) := by
  induction xs with
  | nil => rfl
  | cons x xs ih =>
    rw [List.mapM_cons, h x (by simp), ih (fun y hy => h y (by simp [hy]))]
    rfl

/-- What a byte of a physical address reads as: the coherent value of LPDDR5X, or the SRAM byte. -/
theorem physByte_clean (h : Hub) (w : Work) (a : Nat) (hf : lineFault w (lineOf a) = none ∨ lpddrEnd h ≤ a) :
    physByte h w a = .ok (if a < lpddrEnd h then cohByte w a else memGet w.mem a) := by
  unfold physByte
  by_cases ha : a < lpddrEnd h
  · have : lineFault w (lineOf a) = none := by
      rcases hf with hf | hf
      · exact hf
      · omega
    simp [ha, this]
  · simp [ha]

/-- A physical read that meets no memory error answers its bytes. -/
theorem physRead_clean (h : Hub) (w : Work) (a n : Nat)
    (hf : ∀ i, i < n → lineFault w (lineOf (a + i)) = none ∨ lpddrEnd h ≤ a + i) :
    physRead h w a n =
      .ok ((List.range' a n).map (fun x => if x < lpddrEnd h then cohByte w x else memGet w.mem x)) := by
  apply mapM_ok
  intro x hx
  rw [List.mem_range'_1] at hx
  have hp := physByte_clean h w x (by have := hf (x - a) (by omega); rwa [Nat.add_sub_cancel' hx.1] at this)
  rw [hp]

/-- The same for a read by an engine that does not translate. -/
theorem engineRead_clean (h : Hub) (w : Work) (e a n : Nat) (hx : (w.engine e).xl.enable = false)
    (hr : ∀ i, i < n → regionOf h (a + i) = .lpddr ∨ ∃ x, regionOf h (a + i) = .sram x)
    (hz : ∀ i, i < n → readsZero w (a + i) = false) (hf : ∀ i, i < n → lineFault w (lineOf (a + i)) = none ∨ lpddrEnd h ≤ a + i) :
    engineRead h w e a n =
      .ok ((List.range' a n).map (fun x => if x < lpddrEnd h then cohByte w x else memGet w.mem x)) := by
  apply mapM_ok
  intro x hm
  rw [List.mem_range'_1] at hm
  have hp := physByte_clean h w x (by have := hf (x - a) (by omega); rwa [Nat.add_sub_cancel' hm.1] at this)
  have hr' := hr (x - a) (by omega)
  rw [Nat.add_sub_cancel' hm.1] at hr'
  have hz' := hz (x - a) (by omega)
  rw [Nat.add_sub_cancel' hm.1] at hz'
  have he : engineByte h w e x = .ok (if x < lpddrEnd h then cohByte w x else memGet w.mem x) := by
    by_cases hl : x < lpddrEnd h
    · simp only [if_pos hl] at hp ⊢
      rcases hr' with hr' | ⟨y, hr'⟩ <;> simp [engineByte, engineAddr, hr', translate, hx, hz', hp]
    · simp only [if_neg hl] at hp ⊢
      rcases hr' with hr' | ⟨y, hr'⟩ <;> simp [engineByte, engineAddr, hr', translate, hx, hz', hp, hl]
  rw [he]

theorem home_reset (i : Nat) : resetCoherence.home i = resetHome := by
  simp only [Coherence.home, resetCoherence, List.getD_eq_getElem?_getD, List.getElem?_replicate]
  split <;> rfl

/-- No cache, victim or transaction holds anything, and no line is quarantined. -/
def Quiet (c : Coherence) : Prop :=
  c.lines = [] ∧ c.victims = [] ∧
    ∀ i, (c.home i).txns = [] ∧ (c.home i).quarantine = [] ∧ (c.home i).overflow = false

theorem quiet_reset : Quiet resetCoherence := by
  refine ⟨rfl, rfl, fun i => ?_⟩
  rw [home_reset]
  exact ⟨rfl, rfl, rfl⟩

theorem quiet_setHome (w : Work) (k : Nat) (f : Home → Home) (h : Quiet w.coh)
    (hf : ∀ hm, (f hm).txns = hm.txns ∧ (f hm).quarantine = hm.quarantine ∧ (f hm).overflow = hm.overflow) :
    Quiet (w.setHome k f).coh := by
  refine ⟨h.1, h.2.1, fun i => ?_⟩
  rw [Coherence.home_setHome]
  obtain ⟨a, b, c⟩ := hf (w.coh.home i)
  split_ifs
  · rw [a, b, c]
    exact h.2.2 i
  · exact h.2.2 i

theorem dirtyCopy_quiet (c : Coherence) (ln : Nat) (h : Quiet c) : dirtyCopy c ln = none := by
  simp [dirtyCopy, h.1, h.2.1, (h.2.2 (lineHome ln)).1]

/-- Then a read takes the bytes of memory. -/
theorem lineFault_quiet (w : Work) (ln : Nat) (h : Quiet w.coh) : lineFault w ln = none := by
  simp [lineFault, dirtyCopy_quiet _ _ h, (h.2.2 (lineHome ln)).2.1, (h.2.2 (lineHome ln)).2.2]

theorem cohByte_quiet (w : Work) (a : Nat) (h : Quiet w.coh) : cohByte w a = memGet w.mem a := by
  simp [cohByte, dirtyCopy_quiet _ _ h]

theorem physRead_quiet (h : Hub) (w : Work) (a n : Nat) (hq : Quiet w.coh) :
    physRead h w a n = .ok (memRead w.mem a n) := by
  rw [physRead_clean h w a n (fun i _ => .inl (lineFault_quiet w _ hq))]
  simp [cohByte_quiet w _ hq, memRead]

theorem engineRead_quiet (h : Hub) (w : Work) (e a n : Nat) (hx : (w.engine e).xl.enable = false)
    (hr : ∀ i, i < n → regionOf h (a + i) = .lpddr ∨ ∃ x, regionOf h (a + i) = .sram x)
    (hz : ∀ i, i < n → readsZero w (a + i) = false) (hq : Quiet w.coh) :
    engineRead h w e a n = .ok (memRead w.mem a n) := by
  rw [engineRead_clean h w e a n hx hr hz (fun i _ => .inl (lineFault_quiet w _ hq))]
  simp [cohByte_quiet w _ hq, memRead]

/-- A field of what was read is a read of its own. -/
theorem fld_memRead (m : List Host.Cell) (a size o n : Nat) (h : o + n ≤ size) :
    fld (memRead m a size) o n = leNat (memRead m (a + o) n) := by
  have : ((memRead m a size).drop o).take n = memRead m (a + o) n := by
    apply List.ext_getElem
    · simp; omega
    · intro i h1 h2
      simp [memRead, Nat.add_assoc]
  simp [fld, this]

theorem rangeSet_memRead (m : List Host.Cell) (a size o n : Nat) (h : o + n ≤ size) :
    rangeSet (memRead m a size) o n = (memRead m (a + o) n).any (fun x => x != 0) := by
  have : ((memRead m a size).drop o).take n = memRead m (a + o) n := by
    apply List.ext_getElem
    · simp; omega
    · intro i h1 h2
      simp [memRead, Nat.add_assoc]
  simp [rangeSet, this]

theorem memGet_unlisted (m : List Host.Cell) (a : Nat) (h : ∀ c ∈ m, c.1 ≠ a) : memGet m a = 0 := by
  induction m with
  | nil => rfl
  | cons c m ih =>
    obtain ⟨x, b⟩ := c
    have hx : x ≠ a := h (x, b) (by simp)
    simp only [memGet, if_neg hx]
    exact ih (fun c hc => h c (by simp [hc]))

/-- Where nothing is listed, memory reads as zeros. -/
theorem memRead_zero (m : List Host.Cell) (a n : Nat) (h : ∀ c ∈ m, c.1 < a ∨ a + n ≤ c.1) :
    memRead m a n = List.replicate n 0 := by
  apply List.ext_getElem
  · simp
  · intro i h1 h2
    have hi : i < n := by simpa using h1
    simp only [memRead, List.getElem_map, List.getElem_range', List.getElem_replicate, one_mul]
    apply memGet_unlisted
    intro c hc
    have := h c hc
    omega

@[simp] theorem length_leBytes (n v : Nat) : (leBytes n v).length = n := by
  induction n generalizing v with
  | zero => rfl
  | succ n ih => simp [leBytes, ih]

theorem leNat_replicate_zero (n : Nat) : leNat (List.replicate n 0) = 0 := by
  induction n with
  | zero => rfl
  | succ n ih => simpa [List.replicate_succ, leNat] using ih

@[simp] theorem cacheWrite_tables (h : Hub) (w : Work) (agent a : Nat) (bs : List Byte) :
    (cacheWrite h w agent a bs).tables = w.tables := by
  unfold cacheWrite
  split
  · exact foldl_tables _ (fun w x => by split <;> simp [holdReq]) _ _
  · rfl

/-- A store where the module has no tensor table closes no use (08 R215, R226). -/
theorem storeClosing_no_table (h : Hub) (put : Work → Nat → List Byte → Work) (hp : ∀ w a bs, (put w a bs).tables = w.tables)
    (ps : List (Nat × List Byte)) (w : Work) (ht : w.tables.ttLog2 = 0) :
    storeClosing h put ps w = .ok (ps.foldl (fun w p => put w p.1 p.2) w) := by
  induction ps generalizing w with
  | nil => rfl
  | cons p ps ih =>
    have : closeTarget h w p.1 p.2 = none := by simp [closeTarget, tablePlace, ht]
    simp only [storeClosing, this, List.foldl_cons]
    exact ih _ (by rw [hp, ht])

end Sys2Proof.Machine
end

