-- ==== Sys2Proof/Laws/Tile.lean ====
section
/-!
SUPPORT. Lists keyed by a number, and tiles (05): what an element reads after one element, a row of elements or a token's
results have been written.
-/

namespace Sys2Proof.Machine

theorem alGet_filter {β : Type} (d : β) (l : List (Nat × β)) (k x : Nat) :
    alGet d (l.filter (fun p => p.1 != k)) x = if x = k then d else alGet d l x := by
  induction l with
  | nil => simp [alGet]
  | cons p r ih =>
    obtain ⟨a, b⟩ := p
    by_cases ha : a = k
    · subst ha
      rw [List.filter_cons_of_neg (by simp), ih]
      by_cases hx : x = a
      · simp [hx]
      · simp [alGet, hx, Ne.symm hx]
    · rw [List.filter_cons_of_pos (by simpa using ha)]
      simp only [alGet, ih]
      by_cases hx : a = x
      · subst hx; simp [ha]
      · simp [hx]

@[simp] theorem alGet_alDel {β : Type} (d : β) (l : List (Nat × β)) (k x : Nat) :
    alGet d (alDel l k) x = if x = k then d else alGet d l x := alGet_filter d l k x

@[simp] theorem alGet_alSet {β : Type} (d v : β) (l : List (Nat × β)) (k x : Nat) :
    alGet d (alSet l k v) x = if x = k then v else alGet d l x := by
  by_cases h : x = k
  · subst h; simp [alSet, alGet]
  · simp [alSet, alGet, Ne.symm h, alGet_filter, h]

/-- An element reads the 48 low bits of the code that was last written to it. -/
theorem tileGet_tileSet (t : Tile) (m j c m' j' : Nat) (hj : j < 512) (hj' : j' < 512) :
    tileGet (tileSet t m j c) m' j' = if m' = m ∧ j' = j then c % 2 ^ 48 else tileGet t m' j' := by
  have key : 512 * m' + j' = 512 * m + j ↔ m' = m ∧ j' = j := by omega
  unfold tileGet tileSet
  split_ifs with h1 h2 h2
  · simp [h2, h1]
  · simp [key, h2]
  · simp [h2]
  · simp [key, h2]

/-- A row of codes written from column `j` on. -/
theorem tileGet_tileSetRow (t : Tile) (m j : Nat) (cs : List Nat) (m' j' : Nat) (hc : j + cs.length ≤ 512) (hj' : j' < 512) :
    tileGet (tileSetRow t m j cs) m' j' =
      if m' = m ∧ j ≤ j' ∧ j' < j + cs.length then cs.getD (j' - j) 0 % 2 ^ 48 else tileGet t m' j' := by
  induction cs generalizing t j with
  | nil =>
    rw [if_neg (by simp)]
    rfl
  | cons c cs ih =>
    simp only [List.length_cons] at hc
    rw [tileSetRow, ih (tileSet t m j c) (j + 1) (by omega), List.length_cons]
    rw [tileGet_tileSet _ _ _ _ _ _ (by omega) hj']
    by_cases h1 : m' = m ∧ j + 1 ≤ j' ∧ j' < j + 1 + cs.length
    · obtain ⟨k, hk⟩ : ∃ k, j' - j = k + 1 := ⟨j' - j - 1, by omega⟩
      rw [if_pos h1, if_pos (by omega), hk, List.getD_cons_succ]
      congr 2; omega
    · rw [if_neg h1]
      by_cases h2 : m' = m ∧ j' = j
      · rw [if_pos h2, if_pos (by omega)]
        simp [h2.2]
      · rw [if_neg h2, if_neg (by omega)]

@[simp] theorem tileSet_holder (t : Tile) (m j c : Nat) : (tileSet t m j c).holder = t.holder := rfl

/-- A token's results enter row `m` of the tile: column `j` of every column of the set, and nothing else. -/
theorem tileGet_addToken (af : Fmt) (s : WeightSet) (tok : List Nat × List Nat) (m : Nat) (t : Tile) (m' j' : Nat)
    (hs : s.nCols ≤ 512) (hj' : j' < 512) :
    tileGet (addToken af s tok m t) m' j' =
      if m' = m ∧ j' < s.nCols then
        accumulate (tileGet t m' j') ((tokenGroups af s tok j').map (fun x => x.2)) % 2 ^ 48
      else tileGet t m' j' := by
  unfold addToken
  have gen : ∀ n, n ≤ 512 →
      tileGet ((List.range n).foldl
        (fun t j => tileSet t m j (accumulate (tileGet t m j) ((tokenGroups af s tok j).map (fun x => x.2)))) t) m' j' =
        if m' = m ∧ j' < n then
          accumulate (tileGet t m' j') ((tokenGroups af s tok j').map (fun x => x.2)) % 2 ^ 48
        else tileGet t m' j' := by
    intro n
    induction n with
    | zero => simp
    | succ n ih =>
      intro hn
      rw [List.range_succ, List.foldl_append]
      simp only [List.foldl_cons, List.foldl_nil]
      rw [tileGet_tileSet _ _ _ _ _ _ (by omega) hj']
      by_cases h1 : m' = m ∧ j' = n
      · rw [if_pos h1, if_pos (by omega)]
        obtain ⟨rfl, rfl⟩ := h1
        rw [ih (by omega), if_neg (by omega)]
      · rw [if_neg h1, ih (by omega)]
        by_cases h2 : m' = m ∧ j' < n
        · rw [if_pos h2, if_pos (by omega)]
        · rw [if_neg h2, if_neg (by omega)]
  exact gen s.nCols hs

end Sys2Proof.Machine
end

