-- ==== Sys2Proof/WellFormed.lean ====
section
/-!
DEFINITION. The checks of a well-formed command: every number that names a part of the module names one that exists
(72 engines with 4 streams, 16 queues and mailboxes, 16 ports, 6 firmware processors, 80 caches). A command that is not
well-formed names no part of the module, and its meaning changes nothing (log 1).
-/

namespace Sys2Proof

def engineOk (e : Nat) : Bool := decide (e < 72)
def streamOk (e q : Nat) : Bool := decide (e < 72) && decide (q < 4)
def sixteenOk (k : Nat) : Bool := decide (k < 16)
def procOk (n : Nat) : Bool := decide (n < 6)
def agentOk (a : Nat) : Bool := decide (a < 80)
def classOk (c : Nat) : Bool := decide (c < 4)

def Consumer.wf : Consumer → Bool
  | .engineQueue e q => streamOk e q
  | .collectiveQueue k => sixteenOk k
  | .mailbox k => sixteenOk k

def ErrConsumer.wf : ErrConsumer → Bool
  | .engineOp e _ _ => engineOk e
  | .tileElem e _ row col => engineOk e && decide (row < 256) && decide (col < 512)
  | .savedElem e tile row col => engineOk e && decide (tile < 2) && decide (row < 256) && decide (col < 512)
  | .stream e q => streamOk e q
  | .preCheck => true
  | .updateUnit u => decide (u < 24)
  | .copier => true
  | .collective k => sixteenOk k
  | .core n => decide (n < 8)
  | .remote _ => true
  | .dirtyLine a => agentOk a

def SignalSource.wf : SignalSource → Bool
  | .engineOp e _ => engineOk e
  | .packet _ => true

/-- The command names parts of the module that exist. -/
def Instr.wf : Instr → Bool
  | .doorbell e q _ => streamOk e q
  | .sealReread c => c.wf
  | .run e q | .setGen e q | .ctxSave e q _ | .ctxRestore e q | .resume e q | .unknownDescriptor e q => streamOk e q
  | .nop e q | .endRun e q | .endComplete e q | .setd e q | .addd e q | .branch e q | .tileWait e q => streamOk e q
  | .wload e q | .array e q | .inset e q | .preload e q | .drain e q | .eu e q | .smaxUpdate e q | .smaxFinal e q =>
    streamOk e q
  | .bulkLoad e q | .bulkStore e q | .atomic e q | .fence e q | .signal e q | .wait e q | .reduce e q => streamOk e q
  | .qcfgWrite e q _ | .streamFaultClear e q _ => streamOk e q
  | .setGenApply e | .ctxSaveComplete e | .wloadComplete e | .arrayStart e | .feederEntryArrival e _
  | .arrayComplete e | .insetStart e | .insetComplete e _ | .preloadComplete e | .drainComplete e | .euComplete e _ =>
    engineOk e
  | .wloadStart x => engineOk x.engine
  | .bulkLoadComplete e _ | .bulkStoreComplete e _ | .atomicComplete e _ | .waitTimeout e _ | .reduceComplete e _ =>
    engineOk e
  | .engineSelfPark e | .singleEngineReset e _ | .singleEngineResetDone e | .trapRearm e _ | .xlateInval e _
  | .xlateInvalDone e | .legendMerge e _ => engineOk e
  | .signalArrival c => c.wf
  | .memoryParityError c _ _ => c.wf
  | .readShared a _ | .readUnique a _ _ | .upgrade a _ _ | .writeBack a _ | .snoop a _ | .writeBackAck a _
  | .evictClean a _ => agentOk a
  | .packetForward p b => sixteenOk p && b.length % 64 == 0
  | .packetAck _ c _ _ p => classOk c && sixteenOk p
  | .ackTimer _ c => classOk c
  | .retransmitTimeout _ c _ => classOk c
  | .flitCrcFailure p _ | .retrainComplete p | .retrainTimeout p => sixteenOk p
  | .ethFrame p _ => decide (p = 14 ∨ p = 15)
  | .probePacket _ c p => classOk c && sixteenOk p
  | .creditReturn p c _ _ => sixteenOk p && classOk c
  | .cqDoorbell k _ | .allReduce k | .collectiveReduce k | .reduceScatter k | .broadcast k | .allGather k | .barrier k
  | .collectiveUnknownType k | .collectiveComplete k | .collectiveTimeout k => sixteenOk k
  | .mbDoorbell k _ | .mailboxUnknownOpcode k | .getVersions k | .resetRequest k | .setPowerState k | .setPowerCap k
  | .setModuleNumber k | .loadRoutes k | .loadEthTable k | .setGazBase k | .setCq k | .cqClearStop k | .setNextSeq k
  | .groupChange k | .loadInjection k | .setTransport k | .portStatus k | .portReset k | .quarantineRead k
  | .quarantineClear k | .dirRead k | .retireEngine k | .rasCounts k | .mbOpen k | .mbClose k | .setTensorTable k
  | .setXlate k | .telemetry k | .dumpClear k | .setLogRing k | .fwStageBegin k | .fwStageWrite k | .fwStageVerify k
  | .fwActivate k | .fwCancel k | .configStage k => sixteenOk k
  | .watchdogExpiry n _ _ | .privateSramParity n _ _ => procOk n
  | .firmwarePanic n _ _ _ => procOk n
  | .fwRestartComplete n => procOk n
  | .hostLinkFailure l | .hostLinkRetrained l | .hostLinkTimeout l => decide (l < 2)
  | .railWindowTrip r _ => decide (r < 8)
  | .tempSample ts => decide (ts.length = 9)
  | .logRecord r => decide (1 ≤ r.cls ∧ r.cls ≤ 11)
  | .alarm r _ => decide (r.cls = 0)
  | .logRingWrite c => decide (c ≤ 11)
  | .registerWrite _ w _ => decide (w = 4 ∨ w = 8)
  | .useClose _ | .go _ | .updAbort _ | .cleanFlag .. | .voteOutcome .. | .voteTimeout | .updateUnitsDone => true
  | .readOnce .. | .writeAtHome .. | .atomicAtHome .. | .snoopLapComplete .. => true
  | .ringParityFailure m => decide (m.stop < 104)
  | .remoteRead _ | .remoteWrite _ | .remoteAtomic _ | .controlPacket _ | .collectivePacket _ | .packetResponse _ => true
  | .fabricReferenceLost | .fabricReferenceRestored | .collectiveAbort .. => true
  | .groupControl _ _ _ _ ms i => decide (i < ms.length) || i == 0xFFFFFFFF
  | .copierSnapshot _ | .epochOpened | .firstTouch _ | .pieceCopied _ | .epochCommit | .copierAbort _ | .copierRestore _
  | .restoreComplete | .copierRefill _ | .refillComplete | .verifyGo _ | .ledgerLoss _ | .verifyFailClear _ => true
  | .eraseComplete | .deferredActivation | .trialConfirm => true
  | .coldPowerOn .. | .moduleWarmReset | .engineComplexReset | .inputSample .. | .peakOvercurrent | .sustainedOvercurrent
  | .capStep | .overcurrentPark | .overcurrentParkRelease | .capRaise | .thermalRelease | .underVoltage _
  | .overVoltage _ | .referenceLost | .referenceRestored | .railRequest _ | .presentNRelease _ => true
  | .resetN | .spiRecovery | .spiRecoveryEnd | .wakeTimer | .readReg _ | .wake | .i2cUnknownCommand _ | .wakeFrame .. =>
    true
  | .getVersion | .getCapabilities | .negotiateAlgorithms .. | .getDigests | .getCertificate .. | .challenge ..
  | .getMeasurements .. => true
  | .alarmSend _ | .engineComplexReady | .debugInstruction _ => true

end Sys2Proof
end

