-- ==== Sys2Proof/Tests/Slice0.lean ====
section
/-!
SUPPORT. Tests. The well-formedness checks on ill-formed commands, the worked examples of the spec, and, for each
statement that has hypotheses, states and operands that meet them, clause by clause.
-/

set_option Elab.async false

namespace Sys2Proof.Tests

open Sys2Proof.Machine

/-! ### States to test on -/

/-- The module once its cold boot is over and the engine complex is ready: every processor runs. -/
def readyHub : Hub :=
  { resetHub with
    ident :=
      { resetIdent with
        complexReady := true, bootDone := true, links := [true, true], fwAlive := List.replicate 6 true }
    fw := { resetFirmware with procs := List.replicate 6 { resetFwProc with st := 1 } }
    sec := { resetSecurity with coldWaits := false } }

def ready : State := ⟨[], readyHub, resetWork⟩

def withHub (f : Hub → Hub) (s : State) : State := { s with hub := f s.hub }
def withWork (f : Work → Work) (s : State) : State := { s with work := f s.work }
def withEngine (f : Engine → Engine) (s : State) : State := withWork (fun w => w.setEngine 0 f) s
def withStream (st : Stream) (s : State) : State := withWork (fun w => w.setStream 0 0 (fun _ => st)) s
def withMem (a : Nat) (bs : List Byte) (s : State) : State := withWork (fun w => { w with mem := memWrite w.mem a bs }) s

/-- Port 3 and the Ethernet port 14 carry traffic. -/
def portsUp (s : State) : State :=
  withWork (fun w => (w.setPort 3 (fun p => { p with st := .up })).setPort 14 (fun p => { p with st := .ethUp })) s
/-- The module has number 5, and module 7 is reached through port 3. -/
def routed (s : State) : State :=
  withWork (fun w => w.setFabric (fun f => { f with routes0 := [(7, 8)] }))
    (withHub (fun h => { h with ident := { h.ident with numberValid := true, number := 5 } }) (portsUp s))
/-- The engine complex is not ready. -/
def complexDown : State := withHub (fun h => { h with ident := { h.ident with complexReady := false } }) ready
/-- Group 5 has this module as its one member; NEXT_SEQ is 9. -/
def groupState (s : State) : State :=
  withMem 0x300000 (leBytes 4 0x1FFFF)
    (withMem (0x200000 + 5 * 128) (leBytes 4 1 ++ leBytes 4 1 ++ leBytes 8 0 ++ leBytes 8 0x300000 ++ leBytes 8 0x1FFFF ++ leBytes 4 9)
      (withWork (fun w => w.setFabric (fun f => { f with gazBase := 0x200000 })) s))

/-- A test of the next state. -/
def gives (o : Out) (f : State → Bool) : Bool :=
  match o with
  | .next t => f t
  | _ => false

/-- A test of what a check or a read answers. -/
def okAnd {ε α : Type} (x : Except ε α) (f : α → Bool) : Bool :=
  match x with
  | .ok a => f a
  | .error _ => false

def okB {ε α : Type} (x : Except ε α) : Bool := okAnd x (fun _ => true)

def errIs {α : Type} (x : Except (Code × Nat) α) (c : Code) : Bool :=
  match x with
  | .ok _ => false
  | .error e => e.1 == c

/-! ### Well-formed commands: each check refuses a term that breaks it -/

theorem test_wf_engine : (Instr.setGenApply 72).wf = false ∧ (Instr.setGenApply 71).wf = true := by decide
theorem test_wf_stream : (Instr.nop 0 4).wf = false ∧ (Instr.nop 72 0).wf = false ∧ (Instr.nop 71 3).wf = true := by decide
theorem test_wf_sixteen : (Instr.cqDoorbell 16 0).wf = false ∧ (Instr.cqDoorbell 15 0).wf = true := by decide
theorem test_wf_proc : (Instr.fwRestartComplete 6).wf = false ∧ (Instr.fwRestartComplete 5).wf = true := by decide
theorem test_wf_agent : (Instr.readShared 80 0).wf = false ∧ (Instr.readShared 79 0).wf = true := by decide
theorem test_wf_class : (Instr.ackTimer 0 4).wf = false ∧ (Instr.ackTimer 0 3).wf = true := by decide
theorem test_wf_consumer :
    (Instr.sealReread (.engineQueue 0 4)).wf = false ∧ (Instr.sealReread (.collectiveQueue 16)).wf = false ∧
      (Instr.sealReread (.mailbox 16)).wf = false ∧ (Instr.sealReread (.mailbox 15)).wf = true := by decide
theorem test_wf_error_consumer :
    (Instr.memoryParityError (.tileElem 0 1 256 0) 0 false).wf = false ∧
      (Instr.memoryParityError (.tileElem 0 1 0 512) 0 false).wf = false ∧
      (Instr.memoryParityError (.updateUnit 24) 0 false).wf = false ∧
      (Instr.memoryParityError (.core 8) 0 false).wf = false ∧
      (Instr.memoryParityError (.dirtyLine 80) 0 false).wf = false := by decide
theorem test_wf_signal : (Instr.signalArrival (.engineOp 72 1)).wf = false := by decide
/-- Lane 2 of P13 lies in F6, at positions 7 and 10 (19 R547's example). -/
theorem test_lane_fibres : laneFibres 13 2 = (6, 7, 10) := by decide
theorem test_wf_link : (Instr.hostLinkFailure 2).wf = false := by decide
theorem test_wf_rail : (Instr.railWindowTrip 8 0).wf = false := by decide
theorem test_wf_temps : (Instr.tempSample [1, 2]).wf = false := by decide
theorem test_wf_record : (Instr.logRecord ⟨0, 0, 0, 0, 0, []⟩).wf = false ∧ (Instr.logRecord ⟨12, 0, 0, 0, 0, []⟩).wf = false := by
  decide
theorem test_wf_alarm : (Instr.alarm ⟨1, 0, 0, 0, 0, []⟩ []).wf = false := by decide
theorem test_wf_ring : (Instr.logRingWrite 12).wf = false := by decide
theorem test_wf_ring_stop : (Instr.ringParityFailure ⟨0, 104⟩).wf = false ∧ (Instr.ringParityFailure ⟨0, 103⟩).wf = true := by
  decide
theorem test_wf_group : (Instr.groupControl 0 0 0 0 [5] 1).wf = false ∧ (Instr.groupControl 0 0 0 0 [5] 0).wf = true := by
  decide
theorem test_wf_width : (Instr.registerWrite 0 2 0).wf = false := by decide
theorem test_wf_eth : (Instr.ethFrame 13 ⟨true, false, 0, 0, 0, []⟩).wf = false := by decide

/-! ### The block -/

theorem wit_step_empty : ready.pending = [] ∧ clockRuns (withHub (fun h => { h with safety := { h.safety with refFail := true } }) ready).hub
    ready.work 16 = false := by decide +kernel
theorem wit_command_queue : ∃ t, exec (.nop 0 0) { ready with pending := [.wake] } = .next t ∧ t.pending = [.wake] := ⟨_, rfl, rfl⟩
theorem wit_work_command : workCommand (.nop 0 0) = true ∧ ∃ t, exec (.nop 0 0) ready = .next t := ⟨rfl, _, rfl⟩

/-! ### Rings -/

/-- A ring of 64 slots at 0x10000, not read yet. -/
def ringStream : Stream := { resetStream with enable := true, log2 := 6, base := 0x10000 }

def sealedDesc : Desc := ⟨0x0E01, List.replicate 56 0, 0⟩

def sealedRing : State := withMem 0x10000 (sealDesc 0x0E01 [] 0) (withStream ringStream ready)

theorem wit_doorbell_absent : present readyHub 72 = false := by decide
theorem wit_doorbell_off : present ready.hub 0 = true ∧ (ready.work.stream 0 0).enable = false := by decide +kernel
theorem wit_doorbell :
    (sealedRing.work.engine 0).xl.enable = false ∧ 0 < sealedRing.work.engines.length ∧
      (sealedRing.work.engine 0).streams[0]? = some ringStream ∧ (sealedRing.work.engine 0).stopped = false ∧
      working sealedRing.hub (sealedRing.work.setEngine 0 (fun en => { en with selfParked := false })) 0 = true ∧
      okAnd (engineRead sealedRing.hub sealedRing.work 0 (slotAddr 0x10000 6 0) 64)
        (fun b => judgeSlot 0 b == .sealed sealedDesc) = true := by decide +kernel
theorem wit_reread_engine :
    let s := withStream { ringStream with rereads := 1 } sealedRing
    (s.work.engine 0).streams[0]? = some { ringStream with rereads := 1 } ∧ working s.hub s.work 0 = true ∧
      okAnd (engineRead s.hub s.work 0 (slotAddr 0x10000 6 0) 64) (fun b => judgeSlot 0 b == .sealed sealedDesc) = true := by
  decide +kernel
theorem wit_reread_engine_unsealed :
    let s := withStream { ringStream with rereads := 62 } ready
    (s.work.engine 0).streams[0]? = some { ringStream with rereads := 62 } ∧ working s.hub s.work 0 = true ∧
      okAnd (engineRead s.hub s.work 0 (slotAddr 0x10000 6 5) 64) (fun b => judgeSlot 5 b == .unsealed) = true := by
  decide +kernel

/-- Collective queue 0 enabled over the same ring, between two reads. -/
def collRing (n : Nat) : State :=
  withWork (fun w => w.setCollQ 0 (fun q => { q with enabled := true, log2 := 6, base := 0x10000, rereads := n })) sealedRing

theorem wit_reread_collective :
    collWorks (collRing 1).hub = true ∧ (collQ (collRing 1).work 0).enabled = true ∧ (collQ (collRing 1).work 0).rereads = 1 ∧
      (collQ (collRing 1).work 0).stopped = false ∧ (collQ (collRing 1).work 0).desc = none ∧
      (collQ (collRing 1).work 0).cur = none ∧ (collQ (collRing 1).work 0).unsealed = false ∧
      okAnd (physRead (collRing 1).hub (collRing 1).work (slotAddr 0x10000 6 0) 64)
        (fun b => judgeSlot 0 b == .sealed sealedDesc) = true ∧
      (collRing 1).work.colls.heldGroups.contains (fld sealedDesc.payload 0x20 2) = false := by decide +kernel
theorem wit_reread_collective_unsealed :
    let s := withWork (fun w => w.setCollQ 0 (fun q => { q with nextSeq := 5 })) (collRing 62)
    (collQ s.work 0).rereads = 62 ∧
      okAnd (physRead s.hub s.work (slotAddr 0x10000 6 5) 64) (fun b => judgeSlot 5 b == .unsealed) = true := by decide +kernel

/-- Mailbox 0 open and privileged over the ring at 0x10000, with a free completion ring at 0x20000 (every slot sealed one
lap behind). -/
def boxOf (f : Mailbox → Mailbox) (s : State) : State :=
  withHub (fun h => h.setMailbox 0 (fun m =>
    f { m with isOpen := true, priv := true, cmdBase := 0x10000, cmdLog2 := 6, cplBase := 0x20000, cplLog2 := 6,
               doneSeq := 0xFFFFFFFF })) s

def boxRing (n : Nat) : State := boxOf (fun m => { m with rereads := n }) sealedRing

theorem wit_reread_mailbox :
    0 < ((boxRing 1).hub.mailbox 0).rereads ∧ mayTake (boxRing 1).hub 0 = true ∧ cplFree (boxRing 1).hub (boxRing 1).work 0 = true ∧
      judgeSlot 0 (physBytes (boxRing 1).work (slotAddr 0x10000 6 0) 64) = .sealed sealedDesc ∧
      0 < (boxRing 1).hub.fw.mailboxes.length := by decide +kernel

/-! ### Descriptors -/

/-- Stream 0 holds a descriptor of a type with a payload. -/
def holds (kind : Nat) (payload : List Byte) (s : State) : State :=
  withStream { ringStream with desc := some ⟨kind, padTo 56 payload, 0⟩ } s

def runPayload (arg : Nat) : List Byte := leBytes 8 0x40000 ++ leBytes 8 0x30000 ++ leBytes 8 arg
def header (len entry bound : Nat) : List Byte :=
  leBytes 4 0x5A32 ++ leBytes 2 1 ++ leBytes 2 0 ++ leBytes 8 len ++ leBytes 8 entry ++ leBytes 8 bound
def runState (arg : Nat) (hd : List Byte) : State := withMem 0x40000 hd (holds 0x0E01 (runPayload arg) ready)

/-- What the three outcomes of RUN ask of a state. -/
def runMeets (s : State) (d : Desc) (f : List Byte → Bool) : Bool :=
  heldDesc s.hub s.work 0 0 (fun k => k == 0x0E01) == some d && complOk s.hub (fld d.payload 8 8) &&
    !(s.work.engine 0).stopped && fld d.payload 0 8 % 64 == 0 && inOneRegion s.hub (fld d.payload 0 8) 64 &&
    okAnd (engineRead s.hub (keepPage s.hub (opened s 0 0 d) 0 (fld d.payload 0 8)) 0 (fld d.payload 0 8) 64) f

theorem wit_run_bad_header :
    runMeets (runState 0 (header 0x20 0x20 0)) ⟨0x0E01, padTo 56 (runPayload 0), 0⟩ headerBad = true := by decide +kernel
theorem wit_run_bad_args :
    runMeets (runState 8 (header 0x20 0x10 7)) ⟨0x0E01, padTo 56 (runPayload 8), 0⟩ (fun b =>
      !headerBad b && inOneRegion readyHub 0x40000 (64 + fld b 8 8) && argsBad b (padTo 56 (runPayload 8))) = true := by
  decide +kernel
theorem wit_run :
    runMeets (runState 7 (header 0x20 0x10 7)) ⟨0x0E01, padTo 56 (runPayload 7), 0⟩ (fun b =>
      !headerBad b && inOneRegion readyHub 0x40000 (64 + fld b 8 8) && !argsBad b (padTo 56 (runPayload 7))) = true := by
  decide +kernel
/-- 07 R175: D27 is the first argument, and the entry point is the first PC. -/
theorem test_run_starts :
    gives (exec (.run 0 0) (runState 7 (header 0x20 0x10 7))) (fun t =>
      (t.work.stream 0 0).pc == 0x10 && (t.work.stream 0 0).d.getD 27 0 == 7 && (t.work.stream 0 0).running) = true := by
  decide +kernel

/-- Seed 5, unit 4,095, counter 9 (07 R176). -/
def genPayload : List Byte := leBytes 8 5 ++ leBytes 8 0 ++ leBytes 8 4095 ++ leBytes 8 9
def genState : State := holds 0x0E02 genPayload ready
def genDesc : Desc := ⟨0x0E02, padTo 56 genPayload, 0⟩

theorem wit_set_gen :
    Held genState 0 0 0x0E02 genDesc ∧ ComplOk genState genDesc ∧ (genState.work.engine 0).genHold = none ∧
      rangeSet genDesc.payload 0x12 6 = false ∧ rangeSet genDesc.payload 0x20 24 = false ∧
      fld genDesc.payload 0x10 2 < 4096 := by
  unfold Held ComplOk; decide +kernel
theorem wit_set_gen_apply :
    let s := withEngine (fun en => { en with genHold := some 0 }) genState
    (s.work.engine 0).genHold = some 0 ∧ drawsOutstanding (s.work.engine 0) = false ∧ working s.hub s.work 0 = true ∧
      (s.work.stream 0 0).desc = some genDesc := by decide +kernel

theorem wit_descriptor_end :
    (0x0203 : Code) ≠ 0 ∧ (ready.work.stream 0 0).complAddr = 0 ∧
      (let w := ready.work.setStream 0 0 (fun st => { st with complAddr := 0x30000 })
       (w.stream 0 0).complAddr ≠ 0 ∧ okB (engineStore readyHub w 0 false 0x30000 (completionBytes 0 0 3 0x0203)) = true) := by
  decide +kernel
theorem wit_unknown_descriptor :
    heldDesc (holds 0x0E7F [] ready).hub (holds 0x0E7F [] ready).work 0 0 (fun k => !knownDesc k) =
      some ⟨0x0E7F, List.replicate 56 0, 0⟩ := by decide +kernel

/-! ### Context -/

/-- CTX_SAVE to 0x100000. -/
def ctxPayload : List Byte := leBytes 8 0x100000
def ctxDesc (kind : Nat) : Desc := ⟨kind, padTo 56 ctxPayload, 0⟩

theorem wit_ctx_save :
    let s := holds 0x0E03 ctxPayload ready
    let d := ctxDesc 0x0E03
    heldDesc s.hub s.work 0 0 (fun k => k == 0x0E03) = some d ∧ complOk s.hub (fld d.payload 8 8) = true ∧
      (s.work.engine 0).stopped = false ∧ rangeSet d.payload 0x10 40 = false ∧
      ctxAddr s.hub (fld d.payload 0 8) = some 0x100000 ∧ ctxAddr s.hub 0x100001 = none ∧
      contextConflict (s.work.engine 0) = false := by
  decide +kernel
/-- Whether a held tile refuses a CTX_SAVE is free (log 16). -/
theorem wit_ctx_conflict : Config.contextNeedsFreeTiles = true →
    contextConflict { resetEngine 0 with tiles := [{ resetTile with holder := .drain }, resetTile] } = true := by
  intro h
  have hd : ({ resetEngine 0 with tiles := [{ resetTile with holder := .drain }, resetTile] } : Engine).tiles.any
      (fun t => t.holder != .none) = true := by decide +kernel
  simp only [contextConflict, hd, h, Bool.and_self]
theorem wit_resume :
    let s := holds 0x0E05 [] ready
    let d : Desc := ⟨0x0E05, List.replicate 56 0, 0⟩
    heldDesc s.hub s.work 0 0 (fun k => k == 0x0E05) = some d ∧ complOk s.hub (fld d.payload 8 8) = true ∧
      (s.work.engine 0).saving = none ∧ rangeSet d.payload 0 8 = false ∧ rangeSet d.payload 0x10 40 = false ∧
      (s.work.engine 0).stopped = false ∧
      ((withEngine (fun en => { en with stopped := true }) s).work.engine 0).stopped = true := by decide +kernel

/-! ### Instructions -/

/-- Stream 0 runs a program at 0x20000 whose first instruction is `w`; D1 is `d1`. -/
def atWordWith (d : List Word) (w : Nat) : State :=
  withMem 0x20040 (leBytes 16 w)
    (withStream
      { ringStream with
        desc := some ⟨0x0E01, List.replicate 56 0, 0⟩, running := true, progAddr := 0x20000, length := 0x1000
        d := (List.replicate 32 (0 : Word)).zipWith (fun _ y => y) (d ++ List.replicate 32 0) } ready)
def atWord (w : Nat) : State := atWordWith [] w

/-- The sequencer finds the word and may issue it. -/
def found (s : State) (op w : Nat) : Bool := fetch s.hub s.work 0 0 (opcodeIs op) == .go w

theorem found_finds {s : State} {op w : Nat} (h : found s op w = true) : Finds s 0 0 (opcodeIs op) w := by
  simpa [found, Finds] using h

theorem wit_nop : found (atWord 0) 0 0 = true := by decide +kernel
/-- SETD D5, 7 (07 R188). -/
def setdWord : Nat := 0x02 + 5 * 2 ^ 16 + 7 * 2 ^ 64
theorem wit_setd : found (atWord setdWord) 0x02 setdWord = true := by decide +kernel
theorem test_setd : gives (exec (.setd 0 0) (atWord setdWord)) (fun t =>
    (t.work.stream 0 0).reg 5 == 7 && (t.work.stream 0 0).pc == 16 && (t.work.stream 0 0).isn == 1) = true := by decide +kernel
/-- ADDD D5, D1 − 1. -/
def adddWord : Nat := 0x03 + 5 * 2 ^ 16 + 1 * 2 ^ 21 + (2 ^ 64 - 1) * 2 ^ 64
theorem wit_addd : found (atWord adddWord) 0x03 adddWord = true := by decide +kernel
theorem test_addd : gives (exec (.addd 0 0) (atWordWith [0, 3] adddWord)) (fun t =>
    (t.work.stream 0 0).reg 5 == 2) = true := by decide +kernel
/-- BRANCH to the instruction 32 bytes back unless D1 = D2. -/
def branchWord : Nat := 0x04 + 1 * 2 ^ 16 + 2 * 2 ^ 21 + 1 * 2 ^ 26 + (2 ^ 64 - 32) * 2 ^ 64
theorem wit_branch : found (atWord branchWord) 0x04 branchWord = true := by decide +kernel
theorem test_branch : gives (exec (.branch 0 0) (atWordWith [0, 3, 4] branchWord)) (fun t =>
    (t.work.stream 0 0).pc == 0xFFFFFFFFFFFFFFE0) = true := by decide +kernel
theorem wit_end : found (atWord 0x01) 0x01 0x01 = true := by decide +kernel
/-- TILE_WAIT for both tiles. -/
def tileWaitWord : Nat := 0x05 + 3 * 2 ^ 16
theorem wit_tile_wait : found (atWord tileWaitWord) 0x05 tileWaitWord = true := by decide +kernel

/-- An operation of stream 0 with identity `id`. -/
def opOf (id : Nat) (ph : Phase) (k : OpKind) : Op :=
  { id := id, stream := 0, isn := 1, pc := 0, opcode := 0, release := false, phase := ph, trapEnable := true,
    trapRecord := false, word := 0, planes := 0, conv := none, kind := k }
def withOps (ops : List Op) (s : State) : State := withEngine (fun en => { en with ops := ops, nextId := 9 }) s

def waitOp : Op := opOf 1 .issued (.wait ⟨0, 5, true, 100, 0⟩)

theorem wit_fence :
    found (atWord 0x53) 0x53 0x53 = true ∧ found (withOps [waitOp] (atWord 0x53)) 0x53 0x53 = true ∧
      ((atWord 0x53).work.engine 0).ops.any (fun o => o.stream == 0) = false ∧
      ((withOps [waitOp] (atWord 0x53)).work.engine 0).ops.any (fun o => o.stream == 0) = true ∧
      ((withOps [waitOp] (atWord 0x53)).work.engine 0).ops.all (fun o => decide (o.id < 9) && o.kind != .fence) = true ∧
      0 < (atWord 0x53).work.engines.length ∧ 0 < ((atWord 0x53).work.engine 0).streams.length := by decide +kernel
theorem wit_end_complete :
    let s := withWork (fun w => w.setStream 0 0 (fun st => { st with endIssued := true })) (atWord 1)
    working s.hub s.work 0 = true ∧ (s.work.stream 0 0).running = true ∧ (s.work.stream 0 0).endIssued = true ∧
      (s.work.stream 0 0).faulting = none ∧ (s.work.engine 0).stopped = false ∧
      (s.work.engine 0).ops.any (fun o => o.stream == 0) = false := by decide +kernel
theorem wit_past_length :
    let s := withWork (fun w => w.setStream 0 0 (fun st => { st with pc := 0x1000 })) (atWord 0)
    streamReady s.hub s.work 0 0 = true ∧ (s.work.stream 0 0).length ≤ (s.work.stream 0 0).pc.toNat := by decide +kernel
theorem wit_unknown_opcode :
    streamReady (atWord 0xFE).hub (atWord 0xFE).work 0 0 = true ∧
      okAnd (engineNat (atWord 0xFE).hub (atWord 0xFE).work 0 (fetchAddr ((atWord 0xFE).work.stream 0 0)) 16)
        (fun w => w == 0xFE && !knownOpcode (bitsOf w 0 8)) = true := by decide +kernel

/-! ### Units -/

def sram0 : Nat := 0x600000000000
def atlas (a : Nat) : Nat := 0x1FFFF * 2 ^ 47 + a

/-- D2, D3: a block of rows 64 bytes apart in the SRAM of engine 0; D4, D5: another, one in far memory; D6: one row of 64
bytes; D7: one row of 4 elements. -/
def dRegs : List Word :=
  [0, 0, BitVec.ofNat 64 sram0, 64, BitVec.ofNat 64 (sram0 + 0x1000), 64, BitVec.ofNat 64 (64 + 2 ^ 32),
   BitVec.ofNat 64 (1 + 4 * 2 ^ 32), BitVec.ofNat 64 (atlas 0x50000), 64]

def unitState (word : Nat) : State := atWordWith dRegs word

/-- A set of 2 rows of 4 INT4 weights, all 1. -/
def set24 : WeightSet := ⟨.int4, 1, sram0, 64, 2, 4, 0, 0, [[1, 1, 1, 1], [1, 1, 1, 1]], [], [1, 1]⟩
def withSet (s : State) : State := withEngine (fun en => { en with arr := { en.arr with active := some set24 } }) s
/-- Tile 0 held by a drain. -/
def heldTile (s : State) : State := withEngine (fun en => en.setTile 0 (fun t => { t with holder := .drain, count := 1 })) s

/-- WLOAD of 2 rows of 4 INT4 elements at D2, D3. -/
def wloadWord : Nat := 0x10 + 8 * 2 ^ 16 + 1 * 2 ^ 21 + 1 * 2 ^ 23 + 2 * 2 ^ 27 + 4 * 2 ^ 37
theorem wit_wload :
    found (unitState wloadWord) 0x10 wloadWord = true ∧
      okB (checkWload (unitState wloadWord).hub (taken (unitState wloadWord) 0 0) 0 0 wloadWord) = true := by decide +kernel
/-- ARRAY of 9 tokens of INT4 at D2, D3 into tile 0. -/
def arrayWord : Nat := 0x11 + 8 * 2 ^ 16 + 1 * 2 ^ 21 + 9 * 2 ^ 30
theorem wit_array :
    found (withSet (unitState arrayWord)) 0x11 arrayWord = true ∧
      okAnd (checkArray (taken (withSet (unitState arrayWord)) 0 0) 0 0 arrayWord) (fun x =>
        !tileConflict (((taken (withSet (unitState arrayWord)) 0 0).engine 0).tile x.1.tile) true 0) = true ∧
      found (heldTile (withSet (unitState arrayWord))) 0x11 arrayWord = true ∧
      okAnd (checkArray (taken (heldTile (withSet (unitState arrayWord))) 0 0) 0 0 arrayWord) (fun x =>
        tileConflict (((taken (heldTile (withSet (unitState arrayWord))) 0 0).engine 0).tile x.1.tile) true 0) = true := by
  decide +kernel
theorem wit_issue : 0 < ready.work.engines.length ∧ 0 < (ready.work.engine 0).streams.length := by decide +kernel

/-- Bulk transfers of one row of 64 bytes between D8 and D2. -/
def bulkWord (op : Nat) : Nat := op + 8 * 2 ^ 16 + 0 * 2 ^ 21 + 1 * 2 ^ 26 + 6 * 2 ^ 30
theorem wit_bulk :
    found (unitState (bulkWord 0x50)) 0x50 (bulkWord 0x50) = true ∧ found (unitState (bulkWord 0x51)) 0x51 (bulkWord 0x51) = true ∧
      okAnd (checkBulk readyHub (taken (unitState (bulkWord 0x50)) 0 0) 0 0 (bulkWord 0x50) true) (fun p =>
        p.1.rowBytes == 64 && p.1.rows == 1 && p.2 == none) = true ∧
      okB (checkBulk readyHub (taken (unitState (bulkWord 0x51)) 0 0) 0 0 (bulkWord 0x51) false) = true := by decide +kernel
/-- ATOMIC add of D5 at D8, the old value to D1; and at the misaligned D3 + 1. -/
def atomicWord (r : Nat) : Nat := 0x52 + 1 * 2 ^ 16 + r * 2 ^ 21 + 5 * 2 ^ 26 + 0 * 2 ^ 31
theorem wit_atomic :
    found (unitState (atomicWord 8)) 0x52 (atomicWord 8) = true ∧
      regN ((taken (unitState (atomicWord 8)) 0 0).stream 0 0) (atomicWord 8) 21 % 8 = 0 ∧
      found (atWordWith [0, 7] (atomicWord 1)) 0x52 (atomicWord 1) = true ∧
      regN ((taken (atWordWith [0, 7] (atomicWord 1)) 0 0).stream 0 0) (atomicWord 1) 21 % 8 ≠ 0 := by decide +kernel

/-! ### Array operations -/

def wloadP : WloadP := ⟨.int4, 1, sram0, 64, 2, 4, 0, 0⟩
def arrayP (wset : Bool) : ArrayP := ⟨.int4, sram0, 64, 0, 9, 0, 0, wset⟩
def nineTokens : List (List Nat × List Nat) := List.replicate 9 ([1, 2], [])

/-- The load with one of its two rows in the plane, its rows and its descriptors in the SRAM of engine 0. -/
def loadOp (ph : Phase) (rd : Nat) : Op :=
  opOf 1 ph (.wload { wloadP with rdAddr := rd } (some { emptySet { wloadP with rdAddr := rd } with rows := [[1, 1, 1, 1]], descs := [1] }))

theorem wit_wload_start :
    let o := loadOp .issued 0
    let s := withOps [o] ready
    frontLoad (s.work.engine 0) = some o ∧ working s.hub s.work 0 = true ∧ (s.work.engine 0).stopped = false ∧
      (s.work.engine 0).arr.shadow = none ∧ mayStart (s.work.engine 0) o = true ∧
      (match o.kind with
       | .wload _ (some s0) => okAnd (loadRows s.hub s.work 0 s0 2) (fun x => x.rows.length == 2 && x.descs.length == 2)
       | _ => false) = true := by decide +kernel
/-- The descriptor of the second row lies outside the memory that exists (04 R123). -/
theorem wit_wload_fault :
    let s := withOps [loadOp .issued 0x700000000000] ready
    (match (loadOp .issued 0x700000000000).kind with
     | .wload _ (some s0) => errIs (loadRows s.hub s.work 0 s0 2) 0x0401
     | _ => false) = true := by decide +kernel
theorem wit_wload_complete :
    let o := loadOp .started 0
    let s := withOps [o] ready
    frontLoad (s.work.engine 0) = some o ∧ working s.hub s.work 0 = true ∧ (s.work.engine 0).stopped = false ∧
      o.phase = .started := by decide +kernel
theorem wit_array_start :
    let o := opOf 1 .issued (.array (arrayP false) none none [] 0)
    let s := withOps [o] (withSet ready)
    working s.hub s.work 0 = true ∧ frontArray (s.work.engine 0) = some o ∧ (s.work.engine 0).stopped = false ∧
      mayStart (s.work.engine 0) o = true ∧ (swapIn (s.work.engine 0).arr false).active = some set24 ∧
      runningArray (s.work.engine 0) = none ∧ okB (readTokens s.hub s.work 0 (arrayP false) set24 0 9) = true := by decide +kernel
theorem wit_array_start_wset :
    let o := opOf 1 .issued (.array (arrayP true) (some 0) none [] 0)
    let s := withEngine (fun en => { en with arr := { en.arr with shadow := some set24 } }) (withOps [o] ready)
    frontArray (s.work.engine 0) = some o ∧ (swapIn (s.work.engine 0).arr true).active = some set24 ∧
      runningArray (s.work.engine 0) = none ∧ okB (readTokens s.hub s.work 0 (arrayP true) set24 0 9) = true := by decide +kernel
/-- An operation behind one that runs; and behind one whose rest cannot be read. -/
theorem wit_array_start_behind :
    let x (p : ArrayP) := opOf 1 .started (.array p none (some set24) [([1, 2], [])] 0)
    let o := opOf 2 .issued (.array (arrayP false) none none [] 0)
    let s (p : ArrayP) := withOps [x p, o] (withSet ready)
    frontArray ((s (arrayP false)).work.engine 0) = some o ∧ mayStart ((s (arrayP false)).work.engine 0) o = true ∧
      (lastPlaneIn readyHub (s (arrayP false)).work 0).2 = true ∧
      (lastPlaneIn readyHub (s { arrayP false with aAddr := 0x700000000000 }).work 0).2 = false := by decide +kernel
theorem wit_array_complete :
    let o := opOf 1 .started (.array (arrayP false) none (some set24) nineTokens 0)
    let s := withOps [o] (withSet ready)
    working s.hub s.work 0 = true ∧ runningArray (s.work.engine 0) = some o ∧
      (s.work.engine 0).ops.find? isArray = some o ∧ (s.work.engine 0).op 1 = some o ∧
      (s.work.engine 0).stopped = false ∧ (s.work.engine 0).saving = none ∧
      okAnd (fillFeeders s.hub s.work 0 (arrayP false) set24 0 nineTokens 256) (fun more =>
        more == nineTokens && (tokenEvents (arrayP false) set24 0 0 more).isEmpty) = true := by decide +kernel
/-- A NaN activation halts an operation of FP16. -/
theorem wit_array_halt :
    let p : ArrayP := { arrayP false with aFmt := .fp16, m := 1 }
    let o := opOf 1 .started (.array p none (some set24) [([0x7E00, 0], [])] 0)
    trapHalts o (tokenEvents p set24 0 0 [([0x7E00, 0], [])]) = true := by decide +kernel
/-- Every token adds 1 × 1 + 2 × 1 = 3 in each of its 4 columns (04 R100), and nothing beside them. -/
theorem test_array_adds :
    let o := opOf 1 .started (.array (arrayP false) none (some set24) nineTokens 0)
    gives (exec (.arrayComplete 0) (withOps [o] (withSet ready))) (fun t =>
      tileGet ((t.work.engine 0).tile 0) 8 3 == toA48 (fp32Val 0x40400000) &&
        tileGet ((t.work.engine 0).tile 0) 8 4 == 0 && tileGet ((t.work.engine 0).tile 0) 9 3 == 0) = true := by decide +kernel
theorem wit_results : (arrayP false).tile < (ready.work.engine 0).tiles.length ∧ set24.nCols ≤ 512 ∧
    nineTokens.length = (arrayP false).m ∧ 3 < set24.nCols := by decide +kernel

/-! ### Inset path, tile port, element unit -/

/-- INSET of one token of 2 INT4 activations at D2 by 2 rows of 4 INT4 weights at D4. -/
def insetWord : Nat :=
  0x20 + 8 * 2 ^ 16 + 8 * 2 ^ 21 + 1 * 2 ^ 26 + 2 * 2 ^ 30 + 4 * 2 ^ 44 + 1 * 2 ^ 64 + 2 * 2 ^ 68
def insetP : InsetP := ⟨.int4, .int4, 1, 2, 4, 0, 0, 0, sram0, 64, sram0 + 0x1000, 64, 0, 0, 0, 0⟩
theorem wit_inset :
    found (unitState insetWord) 0x20 insetWord = true ∧
      okAnd (checkInset readyHub (taken (unitState insetWord) 0 0) 0 0 insetWord) (fun p =>
        p == insetP && !tileConflict (((taken (unitState insetWord) 0 0).engine 0).tile p.tile) false 0) = true := by decide +kernel
theorem wit_inset_start :
    let o := opOf 1 .issued (.inset insetP)
    let s := withOps [o] ready
    (s.work.engine 0).ops.find? isInset = some o ∧ working s.hub s.work 0 = true ∧ mayStart (s.work.engine 0) o = true := by
  decide +kernel
theorem wit_inset_complete :
    let o := opOf 1 .started (.inset insetP)
    let s := withOps [o] ready
    (s.work.engine 0).ops.find? isInset = some o ∧ insetP.empty = false ∧ { insetP with m := 0 }.empty = true ∧
      okAnd (readInset s.hub s.work 0 insetP) (fun x =>
        (tokensNans insetP.aFmt x.1 (fun _ _ => 0) insetP.row0 x.2).isEmpty) = true ∧ 0 < s.work.engines.length := by decide +kernel

/-- PRELOAD of +0 into rows 3 to 5, columns 0 to 7 of tile 1. -/
def preloadWord : Nat := 0x30 + 1 * 2 ^ 16 + 3 * 2 ^ 17 + 3 * 2 ^ 25 + 8 * 2 ^ 34
def preloadP : PreloadP := ⟨1, 3, 3, 8, 0, .fp32, 0, 0, 0⟩
def preloadOp : Op := opOf 1 .issued (.preload preloadP)
theorem wit_preload :
    preloadP.empty = false ∧ found (unitState preloadWord) 0x30 preloadWord = true ∧
      okAnd (checkPreload (taken (unitState preloadWord) 0 0) 0 0 preloadWord) (fun p =>
        p == preloadP && !tileConflict (((taken (unitState preloadWord) 0 0).engine 0).tile p.tile) false 0) = true := by
  decide +kernel
theorem wit_preload_complete :
    frontTileOp readyHub (withOps [preloadOp] ready).work 0 = some preloadOp ∧
      (runPreload readyHub (withOps [preloadOp] ready).work 0 preloadOp preloadP).2 = none ∧
      preloadP.srcKind = 0 ∧ preloadP.srcFmt = .fp32 ∧ preloadP.cols ≤ 512 ∧
      ((withOps [preloadOp] ready).work.engine 0).op preloadOp.id = some preloadOp := by decide +kernel

/-- DRAIN of row 0, columns 0 to 3 of tile 0 as FP32 to D2, D3, with CLEAR = 1; and the same handed over. -/
def drainWord (handoff : Nat) : Nat := 0x31 + 1 * 2 ^ 25 + 4 * 2 ^ 34 + 1 * 2 ^ 44 + handoff * 2 ^ 45 + (1 - handoff) * 2 ^ 80
def euP (handoff : Bool) : EuP :=
  ⟨0x10, 0, 1, 4, handoff, ⟨0, .fp32, sram0, 64, 0⟩, ⟨0, .fp32, 0, 0, 0⟩, ⟨0, .fp32, 0, 0, 0⟩,
    ⟨.fp32, .rne, 8, false, false⟩, sram0 + 0x1000, 64, 0, 0⟩
/-- An element-unit operation of 1 × 4 elements that waits for its drain. -/
def waitingEu : Op := opOf 1 .issued (.eu (euP true) none [] false none)
def drainState (handoff : Nat) (ops : List Op) : State := withOps ops (unitState (drainWord handoff))
theorem wit_drain :
    found (drainState 0 []) 0x31 (drainWord 0) = true ∧
      okAnd (checkDrain readyHub (taken (drainState 0 []) 0 0) 0 0 (drainWord 0)) (fun x =>
        !x.1.empty && !x.1.handoff && !tileConflict (((taken (drainState 0 []) 0 0).engine 0).tile x.1.tile) false 0) = true := by
  decide +kernel
theorem wit_drain_handoff :
    found (drainState 1 [waitingEu]) 0x31 (drainWord 1) = true ∧
      okAnd (checkDrain readyHub (taken (drainState 1 [waitingEu]) 0 0) 0 0 (drainWord 1)) (fun x =>
        x.1.handoff && bindTarget ((taken (drainState 1 [waitingEu]) 0 0).engine 0) 0 x.1 == some 1) = true ∧
      found (drainState 1 []) 0x31 (drainWord 1) = true ∧
      okAnd (checkDrain readyHub (taken (drainState 1 []) 0 0) 0 0 (drainWord 1)) (fun x =>
        x.1.handoff && (bindTarget ((taken (drainState 1 []) 0 0).engine 0) 0 x.1).isNone) = true := by decide +kernel
def drainP : DrainP := ⟨0, 0, 1, 4, true, false, ⟨.fp32, .rne, 8, false, false⟩, sram0, 64, 0, 0, 0, 0⟩
def drainOp : Op := { opOf 1 .issued (.drain drainP none) with conv := some ⟨0, none, none, resetGen 0, false⟩ }
theorem wit_drain_complete :
    drainP.empty = false ∧ frontTileOp readyHub (withOps [drainOp] ready).work 0 = some drainOp ∧
      (runDrain readyHub (withOps [drainOp] ready).work 0 drainOp drainP none 1 1).2 = none ∧
      ((withOps [drainOp] ready).work.engine 0).op drainOp.id = some drainOp ∧
      drainP.tile < (ready.work.engine 0).tiles.length ∧ drainP.cols ≤ 512 ∧
      { drainOp with trapEnable := false }.trapEnable = false := by decide +kernel

/-- EU operation `op` on 1 × 4 FP32 elements at D2 to D4 (shape D7 swapped: 1 row, 4 columns). -/
def euWord (op : Nat) : Nat := 0x40 + op * 2 ^ 16 + 7 * 2 ^ 45 + 1 * 2 ^ 80 + (if op = 0x28 then 0 else 2) * 2 ^ 92 +
  (if op = 0x28 ∨ op = 0x29 then 4 else 0) * 2 ^ 50
def euMeets (op : Nat) (f : Nat → Bool) : Bool :=
  fetch readyHub (unitState (euWord op)).work 0 0 (euOpIs f) == .go (euWord op) &&
    okB (checkEu readyHub (taken (unitState (euWord op)) 0 0) 0 0 (euWord op))
theorem wit_eu :
    euMeets 0x10 (fun op => op != 0x28 && op != 0x29) = true ∧ euMeets 0x28 (fun op => op == 0x28) = true ∧
      euMeets 0x29 (fun op => op == 0x29) = true := by decide +kernel
def euOp : Op := { opOf 1 .issued (.eu (euP false) none [] false none) with conv := some ⟨0, none, none, resetGen 0, false⟩ }
theorem wit_eu_complete :
    frontEu readyHub (withOps [euOp] ready).work 0 = some euOp ∧ ((withOps [euOp] ready).work.engine 0).op euOp.id = some euOp ∧
      (runEu readyHub ((withOps [euOp] ready).work.setEngine 0 (fun en => { en with euWaits := en.euWaits + 3 })) 0 euOp
        (euP false) [] 1 0).2 = none ∧
      (runEu readyHub (withOps [euOp] ready).work 0 euOp (euP false) [] 1 0).2 = none := by decide +kernel

/-! ### Legends -/

def tableState (ctrl : List Byte) : State :=
  withMem (0x100000 + 256 + 0x80) ctrl (withWork (fun w => { w with tables := { w.tables with ttLog2 := 4, ttBase := 0x100000 } }) ready)

theorem wit_use_close_outside : ready.work.tables.ttLog2 = 0 := by decide +kernel
theorem wit_use_close :
    okAnd (moduleRead readyHub (tableState []).work (entryAddr 0x100000 1) 256) (fun b =>
        !scaleCtrlBad (scaleCtrlOf (fld b 0x80 8)) && !(closeEntry b).2 &&
          okB (rawStore readyHub (tableState []).work (entryAddr 0x100000 1) (setFld (closeEntry b).1 0xB8 8 0))) = true ∧
      okAnd (moduleRead readyHub (tableState [0, 0, 0xFC]).work (entryAddr 0x100000 1) 256) (fun b =>
        scaleCtrlBad (scaleCtrlOf (fld b 0x80 8))) = true ∧
      1 < 2 ^ (tableState []).work.tables.ttLog2 ∧
      okAnd (moduleAddr readyHub (tableState []).work true (entryAddr 0x100000 1)) (fun pa =>
        !pieceHeld readyHub (tableState []).work pa &&
          pieceHeld readyHub { (tableState []).work with
            copier := { (tableState []).work.copier with protectedSet := [pieceOf pa] } } pa) = true := by decide +kernel
/-- 08 R226: with KSTEP = 1 a use that saturated past its limit of 0 is corrected. -/
theorem wit_use_close_corrects :
    okAnd (moduleRead readyHub (tableState ([0, 2] ++ List.replicate 22 0 ++ [1])).work (entryAddr 0x100000 1) 256) (fun b =>
      !scaleCtrlBad (scaleCtrlOf (fld b 0x80 8)) && (closeEntry b).2) = true := by decide +kernel

/-! ### Transfers and synchronisation -/

/-- A plain transfer of 64 bytes between far address 0x50000 of this module and SRAM. -/
def bulkP (load : Bool) : BulkP := ⟨load, atlas 0x50000, 0, sram0, 0, 64, 1, false, false, none, false, [], [], none⟩
def bulkOp (p : BulkP) : Op := opOf 1 .issued (.bulk p)
theorem wit_bulk_complete :
    let s := withOps [bulkOp (bulkP true)] ready
    (s.work.engine 0).op 1 = some (bulkOp (bulkP true)) ∧ working s.hub s.work 0 = true ∧
      mayTransfer (s.work.engine 0) (bulkOp (bulkP true)) = true ∧
      (bulkSpans (bulkP true)).all (fun x => !isRemote s.hub x.1) = true ∧ (bulkP true).rowBytes ≠ 0 ∧
      loadFault s.hub s.work 0 (bulkP true) (bulkSpans (bulkP true)) = none ∧
      storeFault s.hub s.work 0 (bulkP false)
        ((bulkSpans (bulkP false)).map (fun x => (x.1, memRead s.work.mem x.2.1 x.2.2))) = none := by decide +kernel
theorem wit_bulk_empty :
    let o := bulkOp { bulkP false with rows := 0 }
    let s := withOps [o] ready
    (s.work.engine 0).op 1 = some o ∧ mayTransfer (s.work.engine 0) o = true ∧ { bulkP false with rows := 0 }.rows = 0 := by
  decide +kernel
/-- The same with its far block in module 7. -/
def remoteBulk (load : Bool) : BulkP := { bulkP load with far := 7 * 2 ^ 47 + 0x50000 }
theorem wit_bulk_remote :
    (routed ready).hub.ident.numberValid = true ∧
      (bulkSpans (remoteBulk true)).any (fun x => isRemote (routed ready).hub x.1) = true ∧
      (storeSpans (routed ready).work (bulkOp (remoteBulk false)) (remoteBulk false)).1.any (fun x =>
        isRemote (routed ready).hub x.1) = true ∧ (remoteBulk true).sent = false ∧ (remoteBulk true).waiting = [] := by
  decide +kernel
/-- One row of 64 bytes through a keep window: a lossless frame of FP16, and a lossy store of FP32. -/
def keptBulk (load : Bool) : BulkP := { bulkP load with keep := some (if load then ⟨1, 2, 0, 0⟩ else ⟨2, 0, 0, 0⟩) }
def keptOp : Op := { bulkOp (keptBulk false) with conv := some ⟨0, none, none, resetGen 0, true⟩ }
def frameState : State := withMem 0x50000 (losslessFrame .fp16 64 [List.replicate 64 7]) (withOps [bulkOp (keptBulk true)] ready)
theorem wit_keep_load :
    fmtOfCode 2 = some .fp16 ∧ isRemote readyHub (keptBulk true).far = false ∧
      okAnd (farRead readyHub frameState.work 0 (keptBulk true) (keptBulk true).far 64) (fun hd =>
        !headerRefused hd 64 1 &&
          (loadFault readyHub frameState.work 0 (keptBulk true) (frameSpans (keptBulk true) (some hd))).isNone) = true := by
  decide +kernel
theorem wit_keep_store :
    fmtOfCode 0 = some .fp32 ∧
      (storeSpans ready.work keptOp (keptBulk false)).1.all (fun x => !isRemote readyHub x.1) = true ∧
      storeFault readyHub ready.work 0 (keptBulk false) (storeSpans ready.work keptOp (keptBulk false)).1 = none ∧
      (storeSpans ready.work keptOp (keptBulk false)).2.any (fun c => okB (mergeOp readyHub ready.work 0 0 c)) = true := by
  decide +kernel
/-- 07 R194: bytes of far memory come to SRAM, and bytes of SRAM go there. -/
theorem test_bulk_moves :
    gives (exec (.bulkLoadComplete 0 1) (withMem 0x50000 [7, 8] (withOps [bulkOp (bulkP true)] ready)))
        (fun t => memRead t.work.mem sram0 2 == [7, 8]) = true ∧
      gives (exec (.bulkStoreComplete 0 1) (withMem sram0 [7, 8] (withOps [bulkOp (bulkP false)] ready)))
        (fun t => physBytes t.work 0x50000 2 == [7, 8]) = true := by decide +kernel

def atomicP : AtomicP := ⟨1, atlas 0x50000, 5, 0, 0, false, none⟩
theorem wit_atomic_complete :
    let o := opOf 1 .issued (.atomic atomicP)
    let s := withOps [o] ready
    (s.work.engine 0).op 1 = some o ∧ working s.hub s.work 0 = true ∧ mayTransfer (s.work.engine 0) o = true ∧
      targetOf s.hub atomicP.addr = .self 0x50000 ∧ okAnd (engineAddr s.hub s.work 0 true 0x50000) (fun x => x == 0x50000) = true ∧
      okB (physRead s.hub (keepPage s.hub s.work 0 0x50000) 0x50000 8) = true := by decide +kernel
theorem wit_atomic_remote :
    targetOf (routed ready).hub (7 * 2 ^ 47 + 0x50000) = .remote 7 0x50000 ∧
      (sendRequest (routed ready).hub (routed ready).work 0xFFFF 7 2 0x03 0x50000 24 (atomicPayload 1 8 5 0)
        (.atomicOp 0 1)).2 = 0 := by decide +kernel
theorem wit_atomic_width : (0 : Nat) < 4 ∧ (7 : Nat) < 2 ^ (8 * 4) := by decide

/-- SIGNAL to counter 3 of engine 1 of this module (its number in D9), INC `inc`. -/
def signalWord (inc : Nat) : Nat := 0x60 + 9 * 2 ^ 16 + 1 * 2 ^ 21 + 3 * 2 ^ 28 + inc * 2 ^ 64
theorem wit_signal :
    found (unitState (signalWord 0)) 0x60 (signalWord 0) = true ∧ bitsOf (signalWord 0) 64 32 = 0 ∧
      found (unitState (signalWord 2)) 0x60 (signalWord 2) = true ∧ bitsOf (signalWord 2) 64 32 ≠ 0 := by decide +kernel
def signalP (e : Nat) : SignalP := ⟨0x1FFFF, e, 3, 2, false, none⟩
theorem wit_signal_arrival :
    let o := opOf 1 .issued (.signal (signalP 1))
    let s := withOps [o] ready
    (s.work.engine 0).op 1 = some o ∧ working s.hub s.work 0 = true ∧ priorDone (s.work.engine 0) o = true ∧
      isSelf s.hub (signalP 1).module = true ∧ takesTokens s.hub s.work 1 = true ∧ takesTokens s.hub s.work 72 = false := by
  decide +kernel
theorem wit_signal_remote :
    isSelf (routed ready).hub 7 = false ∧ (routed ready).hub.ident.numberValid = true ∧
      (sendRequest (routed ready).hub (routed ready).work 0xFFFF 7 1 0x04 0 8 (signalPayload (signalP 1))
        (.signalOp 0 1)).2 = 0 := by decide +kernel
/-- 07 R198: the counter saturates, and TOKEN_SAT is set. -/
theorem test_signal_saturates :
    let o := opOf 1 .issued (.signal (signalP 0))
    gives (exec (.signalArrival (.engineOp 0 1))
        (withEngine (fun en => { en with tokens := en.tokens.set 3 0xFFFFFFFE }) (withOps [o] ready))) (fun t =>
      (t.work.engine 0).tokens.getD 3 0 == 0xFFFFFFFF && !(t.work.engine 0).tokenSat) = false ∧
    gives (exec (.signalArrival (.engineOp 0 1))
        (withEngine (fun en => { en with tokens := en.tokens.set 3 0xFFFFFFFE }) (withOps [o] ready))) (fun t =>
      (t.work.engine 0).tokens.getD 3 0 == 0xFFFFFFFF && (t.work.engine 0).tokenSat) = true := by decide +kernel

/-- A request packet of operation `op` from module 7. -/
def request (op addr : Nat) (payload : List Byte) : Packet :=
  ⟨0x1FFFF, 2, op, 7, payload.length, 0, 0, addr, 42, 0, 0, 0, true, payload⟩
def withInbox (p : Packet) (s : State) : State :=
  withWork (fun w => { w with fabric := { w.fabric with inbox := [p] } }) s

theorem wit_signal_packet :
    let p := request 0x04 0 [1, 3, 0, 0, 2, 0, 0, 0]
    inboxAt (withInbox p ready).work 0 (fun x => x.op == 0x04) = some p ∧ targetDown readyHub = false ∧
      targetDown complexDown.hub = true ∧ takesTokens readyHub ready.work 99 = false ∧
      takesTokens readyHub (withInbox p ready).work (fld p.payload 0 1) = true := by decide +kernel

/-- WAIT on counter 3 for a threshold, with CONSUME. -/
def waitWord (n : Nat) : Nat := 0x61 + 3 * 2 ^ 28 + 1 * 2 ^ 34 + n * 2 ^ 64
theorem wit_wait :
    found (unitState (waitWord 0)) 0x61 (waitWord 0) = true ∧ bitsOf (waitWord 0) 64 32 = 0 ∧
      found (unitState (waitWord 5)) 0x61 (waitWord 5) = true ∧ bitsOf (waitWord 5) 64 32 ≠ 0 := by decide +kernel
theorem wit_wait_met :
    metWait ((withEngine (fun en => { en with tokens := en.tokens.set 0 5 }) (withOps [waitOp] ready)).work.engine 0) =
      some (waitOp, ⟨0, 5, true, 100, 0⟩) := by decide +kernel

def reduceP (member members : Nat) : ReduceP :=
  ⟨member, members, [0, 1], sram0, sram0 + 0x1000, 4, 0, 77, 0, 100, none, 0⟩
def reduceOp (member members : Nat) : Op := opOf 1 .issued (.reduce (reduceP member members))
theorem wit_timeout :
    ((withOps [waitOp] ready).work.engine 0).op 1 = some waitOp ∧ (100 : Word) ≠ 0 ∧
      working readyHub (withOps [waitOp] ready).work 0 = true ∧
      ((withOps [reduceOp 1 2] ready).work.engine 0).op 1 = some (reduceOp 1 2) ∧
      working readyHub (withOps [reduceOp 1 2] ready).work 0 = true := by decide +kernel
theorem wit_reduce_root :
    let o := reduceOp 0 1
    let s := withOps [o] ready
    (s.work.engine 0).op 1 = some o ∧ working s.hub s.work 0 = true ∧ queueMayStart (s.work.engine 0) o = true ∧
      (reduceP 0 1).members ≤ 2 ^ nextLevel (reduceP 0 1) := by decide +kernel
/-- Member 1 in engine 1, and its parent, member 0, in engine 0, with `n` elements. -/
def pairState (n : Nat) : State :=
  withWork (fun w => w.setEngine 1 (fun en => { en with ops := [reduceOp 1 2] }))
    (withOps [opOf 1 .issued (.reduce { reduceP 0 2 with elems := n })] ready)
theorem wit_reduce_join :
    let s := pairState 4
    let p := reduceP 1 2
    (s.work.engine 1).op 1 = some (reduceOp 1 2) ∧ working s.hub s.work 1 = true ∧
      queueMayStart (s.work.engine 1) (reduceOp 1 2) = true ∧ 2 ^ nextLevel p < p.members ∧
      p.member % 2 ^ (nextLevel p + 1) ≠ 0 ∧
      (parentReduce s.hub s.work (p.table.getD (p.member - 2 ^ nextLevel p) 0) p.reduceId).any (fun x =>
        sameHeader x.par p && nextLevel x.par == nextLevel p) = true ∧
      (parentReduce (pairState 5).hub (pairState 5).work (p.table.getD (p.member - 2 ^ nextLevel p) 0) p.reduceId).any (fun x =>
        !sameHeader x.par p) = true := by decide +kernel
/-- A member that waits for its parent; and the parent itself. -/
theorem wit_reduce_waits :
    2 ^ nextLevel (reduceP 1 2) < (reduceP 1 2).members ∧
      parentReduce readyHub ready.work ((reduceP 1 2).table.getD ((reduceP 1 2).member - 2 ^ nextLevel (reduceP 1 2)) 0) 77 =
        none ∧
      (reduceP 0 2).member % 2 ^ (nextLevel (reduceP 0 2) + 1) = 0 := by decide +kernel

/-! ### Memory errors, resets and registers -/

theorem wit_parity :
    let ol := opOf 1 .started (.wload wloadP (some set24))
    let oa := opOf 1 .started (.array (arrayP false) none (some set24) nineTokens 0)
    ((withOps [ol] ready).work.engine 0).op 1 = some ol ∧ working readyHub (withOps [ol] ready).work 0 = true ∧
      ((withOps [oa] ready).work.engine 0).op 1 = some oa ∧ working readyHub (withOps [oa] ready).work 0 = true ∧
      8 < (arrayP false).m ∧ 3 < set24.nCols ∧ readyHub.ident.powered = true ∧ activeTxn ready.work.coh 0 = none := by decide +kernel
theorem wit_parity_stream :
    let s := withStream ringStream ready
    working s.hub s.work 0 = true ∧ (s.work.stream 0 0).desc = none ∧ (s.work.stream 0 0).enable = true ∧
      (s.work.stream 0 0).fault = false ∧ (s.work.stream 0 0).unsealed = false := by decide +kernel
theorem wit_park_and_reset :
    working readyHub ready.work 71 = true ∧ engineIdle (ready.work.engine 71) = true ∧ (1 : Word).toNat % 2 = 1 ∧
      (ready.work.engine 71).resetting = false ∧ readyHub.ident.powered = true ∧ readyHub.ident.complexReady = true ∧
      (ready.work.engine 71).saving = none := by decide +kernel
theorem wit_qcfg :
    (ready.work.engine 0).streams[0]? = some resetStream ∧ resetStream.enable = false ∧
      ((withStream ringStream ready).work.engine 0).streams[0]? = some ringStream ∧ ringStream.enable = true := by decide +kernel
/-- 07 R211: a ring of 2^4 slots is enabled, one of 2^3 is not. -/
theorem test_qcfg :
    gives (exec (.qcfgWrite 0 0 0x10024) ready) (fun t => (t.work.stream 0 0).enable) = true ∧
      gives (exec (.qcfgWrite 0 0 0x10023) ready) (fun t => (t.work.stream 0 0).enable) = false := by decide +kernel
theorem wit_fault_clear :
    let s := withStream { ringStream with fault := true } ready
    (s.work.stream 0 0).fault = true ∧ (0x10 : Word).toNat / 16 % 2 = 1 ∧
      working s.hub (s.work.setStream 0 0 (fun st => { st with fault := false })) 0 = true ∧
      working complexDown.hub (s.work.setStream 0 0 (fun st => { st with fault := false })) 0 = false := by decide +kernel
theorem wit_xlate_pending :
    ((withEngine (fun en => { en with xl := { en.xl with pending := true } }) ready).work.engine 0).xl.pending = true := by
  decide +kernel
theorem wit_register_refused : readRegister readyHub ready.work 0x2000048 = none ∨ (8 : Nat) ≠ 8 ∨ 0x2000044 % 8 ≠ 0 := by
  decide +kernel
theorem wit_register_write :
    (readRegister readyHub ready.work 0x000).isSome = true ∧
      (readRegister readyHub ready.work 0x5000000).isSome = true ∧
      (readRegister readyHub ready.work 0x5000010).isSome = true := by decide +kernel
theorem wit_read_reg :
    i2cAnswers readyHub = true ∧ (readRegister readyHub ready.work 0x3000000).isSome = true ∧
      ¬((0x2000000 : Nat) < 0x1000 ∨ 0x3000000 ≤ (0x2000000 : Nat) ∧ (0x2000000 : Nat) < 0x3010000) := by decide +kernel

/-! ### Optimizer steps -/

/-- A step descriptor at 0x10000 of step 9, its record at 0x20000, without a vote group. -/
def stepWith (group rec count reserved : Nat) : List Byte :=
  leBytes 8 9 ++ leBytes 8 0x30000 ++ leBytes 4 count ++ leBytes 4 group ++ leBytes 8 0 ++ leBytes 8 rec ++
    leBytes 4 0 ++ leBytes 4 (if group = noVote then 0 else 1000) ++ leBytes 8 0 ++ leBytes 8 reserved
def stepBytes (count reserved : Nat) : List Byte := stepWith noVote 0x20000 count reserved
/-- Entry 1 of the tensor table at 0x100000 counts a NaN; the check list at 0x30000 names it. -/
def goState (count reserved : Nat) : State :=
  withMem 0x30000 [1] (withMem (0x100100 + 0x18) [1] (withMem 0x10000 (stepBytes count reserved)
    (withWork (fun w =>
      { w with
        upd := { w.upd with stepDesc := 0x10000 }
        tables := { w.tables with ttLog2 := 4, ttBase := 0x100000 } }) ready)))

/-- What GO asks of a state, and what its pre-check answers. -/
def goMeets (s : State) (f : Except (Code × Nat) Checked → Bool) : Bool :=
  updReady s.hub && s.work.upd.phase == 0 && s.work.copier.phase != 1 && !s.work.copier.restoreBad &&
    !s.work.copier.verifyFail && inLpddr s.hub s.work.upd.stepDesc 64 &&
    okAnd (moduleRead s.hub s.work s.work.upd.stepDesc 64) (fun b =>
      (stepDescOf b).recAddr % 128 == 0 && inLpddr s.hub (stepDescOf b).recAddr 128 && (stepDescOf b).voteGroup == noVote &&
        okAnd (moduleStore s.hub (enterPhase s.hub (s.work.setUpd (fun u => { u with accepted := (stepDescOf b).step })) 1)
            (recordSlot (stepDescOf b) + 0x38) (leBytes 8 0)) (fun w2 =>
          okAnd (currentBank s.hub w2 (stepDescOf b).recAddr) (fun bank => f (preCheck s.hub w2 (stepDescOf b) bank false))))

theorem wit_go :
    (1 : Word).toNat % 4 = 1 ∧ goMeets (goState 0 0) (fun x => okAnd x (fun n => n.1 == 0)) = true ∧
      goMeets (goState 1 0) (fun x => okAnd x (fun n => n.1 == 1)) = true ∧
      goMeets (goState 0 1) (fun x => errIs x 0x0203) = true := by decide +kernel
theorem wit_go_refused :
    updReady ready.hub = true ∧ (3 : Word).toNat % 4 = 3 ∧
      ({ ready.work with copier := { ready.work.copier with phase := 1 } }).copier.phase = 1 := by decide +kernel
/-- A step whose descriptor cannot be read, one whose record is misaligned, and one of vote group 5, whose one member is this
module, and of the group 4,096, which is none. -/
theorem wit_go_descriptor :
    errIs (moduleRead readyHub { ready.work with tables := ⟨0, 0, true, 0x400000⟩ } 0x10000 64) 0x0406 = true ∧
      (stepDescOf (stepWith noVote 0x20001 0 0)).recAddr % 128 ≠ 0 ∧
      okAnd (voteGroupOf readyHub (groupState ready).work (stepDescOf (stepWith 5 0x20000 0 0))) (fun x => x == (0, 0x1FFFF)) =
        true ∧
      okAnd (preCheck readyHub (groupState ready).work (stepDescOf (stepWith 5 0x20000 0 0)) 0 true) (fun x => x.1 == 0) = true ∧
      errIs (preCheck readyHub (groupState ready).work (stepDescOf (stepWith 5 0x20000 0 1)) 0 true) 0x0203 = true ∧
      ready.work.upd.early.find? (fun x => x.1 == (9 : Word)) = none ∧
      errIs (voteGroupOf readyHub ready.work (stepDescOf (stepWith 4096 0x20000 0 0))) 0x0203 = true := by decide +kernel
/-- 09 R266: a dirty entry ends the step with OUTCOME 2, and the record's slot 1 (of step 9) names the step. -/
theorem test_go_dirty :
    gives (exec (.go 1) (goState 1 0)) (fun t =>
      t.work.upd.lastOutcome == 2 && t.work.upd.phase == 0 && t.work.upd.lastStep == 9 &&
        physBytes t.work 0x20040 8 == leBytes 8 9) = true := by decide +kernel

def runOf (index : Nat) (clean : Bool) : UpdRun :=
  ⟨⟨9, 0, 0, 5, 0, 0, 0x20000, 0, 0, 1000, 0, 0⟩, 0, [], clean, 0, index, 0x1FFFF⟩
def boxOf3 : VoteBox := ⟨5, 9, [0x1FFFF, 7, 8], [2]⟩
def voteState (index phase : Nat) (box : VoteBox) : State :=
  withWork (fun w => { w with upd := { w.upd with run := some (runOf index true), phase := phase, boxes := [box] } }) ready

theorem wit_vote_wait :
    (voteState 0 2 boxOf3).work.upd.run = some (runOf 0 true) ∧ (voteState 0 2 boxOf3).work.upd.phase = 2 ∧
      updReady readyHub = true ∧ (2 : Word).toNat % 4 = 2 ∧ readyHub.ident.powered = true ∧ targetDown readyHub = false ∧
      bitOf ready.work.logs.traceEnable 4 = false := by decide +kernel
theorem wit_clean_flag :
    (voteState 0 2 boxOf3).work.upd.decided.contains (5, (9 : Word)) = false ∧
      ((5, (9 : Word)) :: (voteState 0 2 boxOf3).work.upd.decided).contains (5, (9 : Word)) = true ∧
      (voteState 0 2 boxOf3).work.upd.boxes.find? (fun x => x.group == 5 && x.step == 9) = some boxOf3 ∧
      (addOnce boxOf3.flags 1).length < boxOf3.members.length ∧
      ({ boxOf3 with flags := [0, 2] }).members.length ≤ (addOnce { boxOf3 with flags := [0, 2] }.flags 1).length ∧
      (openBox readyHub ready.work 5 9).isNone = true ∧ (openBox readyHub (groupState ready).work 5 9).isSome = true := by
  decide +kernel
theorem wit_units_done :
    (voteState 1 3 boxOf3).work.upd.phase = 3 ∧ updReady readyHub = true ∧
      (runPass readyHub (voteState 1 3 boxOf3).work (ctxOf (runOf 1 true) .whole none) []).fault = none := by decide +kernel
/-- A group of one element whose SLOAD reads an address that does not exist. -/
theorem wit_units_fault :
    let slot : USlot := ⟨0x700000000000, 0, 1, 1, 0, 0⟩
    let g : UGroup := ⟨0, 1, 0xFFFF, 1, [], 0, 0, [], [], List.replicate 6 slot, 0, 0⟩
    (runPass readyHub ready.work (ctxOf (runOf 1 true) .whole none) [(g, [0x10], [])]).fault.isSome = true := by decide +kernel
/-- 09 R266: once the units are done, the step commits with OUTCOME 1. -/
theorem test_step_commits :
    gives (exec .updateUnitsDone (voteState 1 3 boxOf3)) (fun t =>
      t.work.upd.lastOutcome == 1 && physBytes t.work 0x20078 8 == leBytes 8 1) = true := by decide +kernel

/-! ### Coherence -/

def lineA : Nat := lineOf 0x50000
def bytes128 : List Byte := List.replicate 128 7
/-- Agent 9 holds the line at 0x50000 in a state. -/
def cached (st : LineState) : State :=
  withWork (fun w => { w with coh := { w.coh with lines := [⟨9, lineA, st, bytes128, false, false⟩] } }) ready
def inTxn (t : Txn) (s : State) : State := withWork (fun w => w.setHome (lineHome lineA) (fun hm => { hm with txns := [t] })) s
def txnOf (k : TxnKind) (answered : List Nat) : Txn := ⟨k, 3, lineA, 0x50000, .store [1, 2], answered, none, false⟩

theorem wit_request :
    homeUp readyHub lineA = true ∧ inLpddr readyHub 0x50000 1 = true ∧ ownWriteBack ready.work.coh 3 lineA = false ∧
      hasTxn ready.work.coh 3 lineA = false ∧ stateOf ready.work.coh 3 lineA = none ∧
      placeOf readyHub 0x50000 = .lpddr 0x50000 ∧ placeOf readyHub 0x700000000000 = .unmapped ∧ homesWork readyHub = true ∧
      opLegal 3 (.store [1, 2]) = true ∧ opLegal 9 (.loadReserved 4) = false ∧ (0x5007F % 128 + 2 > 128) ∧
      mustHold readyHub ready.work lineA = false ∧ holdsRequest ready.work 3 lineA = false ∧
      closeTarget readyHub ready.work 0x50000 [1, 2] = none ∧ homeUp complexDown.hub lineA = false ∧ stateOf (cached .m).work.coh 9 lineA = some .m ∧
      ownWriteBack (cached .m).work.coh 9 lineA = false ∧ stateOf (cached .s).work.coh 9 lineA = some .s ∧
      mustHold readyHub (withWork (fun w => { w with copier := { w.copier with protectedSet := [pieceOf 0x50000] } }) ready).work
        lineA = true := by
  decide +kernel
theorem wit_trackers :
    resetHome.txns.length < 512 ∧ resetHome.reserved = none ∧
      512 ≤ ({ resetHome with txns := List.replicate 512 (txnOf .upgrade []) }).txns.length ∧
      ({ resetHome with txns := List.replicate 511 (txnOf .upgrade []), reserved := some 4 }).txns.length = 511 := by
  decide +kernel
/-- 11 R335: the tracker reserved for one request is not taken by another. -/
theorem test_reserved_tracker :
    (takeTracker { resetHome with txns := List.replicate 511 (txnOf .upgrade []), reserved := some 4 } 5
        (txnOf .readShared [])).txns.length = 511 ∧
      (takeTracker { resetHome with txns := List.replicate 511 (txnOf .upgrade []), reserved := some 4 } 4
        (txnOf .readShared [])).txns.length = 512 := by decide +kernel

/-- A line that agent 9 holds is asked for by agent 3. -/
def snooped (st : LineState) (k : TxnKind) : State := inTxn (txnOf k []) (cached st)
theorem wit_snoop :
    activeTxn (snooped .m .readShared).work.coh lineA = some (txnOf .readShared []) ∧
      (snooped .m .readUnique).work.coh.lines.find? (fun x => x.agent == 9 && x.line == lineA) =
        some ⟨9, lineA, .m, bytes128, false, false⟩ ∧
      dirty ⟨9, lineA, .m, bytes128, false, false⟩ = true ∧ dirty ⟨9, lineA, .s, bytes128, false, false⟩ = false ∧
      activeTxn (snooped .s .readUnique).work.coh lineA = some (txnOf .readUnique []) ∧
      (snooped .m .readUnique).work.coh.lines.find? (fun x => x.agent == 10 && x.line == lineA) = none ∧
      (snooped .m .readUnique).work.coh.victims = [] ∧ readyHub.ident.cfg.coherenceMode = false := by decide +kernel
theorem wit_lap_complete :
    let s := inTxn (txnOf .readUnique [9]) (cached .s)
    let r := inTxn (txnOf .readShared [9]) (cached .s)
    activeTxn s.work.coh lineA = some (txnOf .readUnique [9]) ∧ lapDone s.work.coh (txnOf .readUnique [9]) = true ∧
      grantFault s.work (txnOf .readUnique [9]) 0 = none ∧
      (grantFault (inTxn (txnOf .readUnique []) ready).work (txnOf .readUnique []) 3).isSome = true ∧ activeTxn r.work.coh lineA = some (txnOf .readShared [9]) ∧
      lapDone r.work.coh (txnOf .readShared [9]) = true ∧ grantFault r.work (txnOf .readShared [9]) 0 = none ∧
      closeTarget readyHub s.work 0x50000 (lineOpEffect (lineData s.work lineA) false 0x50000 (.store [1, 2])).1 = none ∧
      (holders r.work.coh lineA).any (fun l => l.agent == 3) = false := by decide +kernel
/-- 11 R338: a dirty copy's data reaches the writer, merged with its bytes. -/
theorem test_snoop_supplies :
    gives (exec (.snoop 9 0x50000) (snooped .m .readUnique)) (fun t =>
      gives (exec (.snoopLapComplete ⟨0x50000, 0⟩) t) (fun u =>
        (u.work.coh.lines.find? (fun x => x.agent == 3)).any (fun l =>
          l.st == .m && l.data.take 3 == [1, 2, 7]) && (u.work.coh.lines.find? (fun x => x.agent == 9)).isNone)) = true := by
  decide +kernel
theorem wit_uncached :
    lineBusy ready.work.coh lineA = false ∧ okB (physRead readyHub ready.work 0x50000 8) = true ∧
      spanFree readyHub ready.work 0x50000 200 true = true ∧ okB (physStore readyHub ready.work 0x50000 [1, 2]) = true ∧
      lineBusy (snooped .s .readUnique).work.coh lineA = true ∧ placeOf readyHub sram0 = .sram sram0 ∧
      errIs (physStore readyHub
        (ready.work.setHome (lineHome lineA) (fun hm => { hm with quarantine := [lineA] })) 0x50000 [1, 2]) 0x0404 = true ∧
      atomicOk 0x50000 1 8 = true ∧ atomicOk 0x50002 1 4 = false ∧ (0x50000 % 128 + 2 ≤ 128) ∧
      lineFault ready.work lineA = none := by decide +kernel
/-- 11 R344: an addition of 4 bytes wraps at 32 bits. -/
theorem test_atomic_wraps :
    gives (exec (.atomicAtHome 0x50000 0 4 2 0) (withMem 0x50000 [0xFF, 0xFF, 0xFF, 0xFF, 9] ready)) (fun t =>
      physBytes t.work 0x50000 5 == [1, 0, 0, 0, 9] && t.work.replies.coreData == [0xFF, 0xFF, 0xFF, 0xFF]) = true := by
  decide +kernel

def victimA (crossed : Bool) : Victim := ⟨9, lineA, 9 * 4096, bytes128, false, crossed, false⟩
def withVictim (crossed : Bool) : State :=
  withWork (fun w => { w with coh := { w.coh with victims := [victimA crossed], crossedTags := if crossed then [9 * 4096] else [] } })
    ready
theorem wit_write_back :
    (cached .o).work.coh.lines.find? (fun x => x.agent == 9 && x.line == lineA) = some ⟨9, lineA, .o, bytes128, false, false⟩ ∧
      (cached .o).work.coh.victims = [] ∧ dirty ⟨9, lineA, .o, bytes128, false, false⟩ = true ∧
      (withVictim true).work.coh.victims.find? (fun x => x.agent == 9 && x.line == lineA && !x.done) = some (victimA true) ∧
      (victimA true).crossed = true ∧ (withVictim true).work.coh.crossedTags.contains (victimA true).tag = true ∧
      (withVictim false).work.coh.victims.find? (fun x => x.agent == 9 && x.line == lineA && !x.done) = some (victimA false) ∧
      lineBusy (withVictim false).work.coh lineA = false ∧ lineBusy (snooped .s .readUnique).work.coh lineA = true ∧
      trackerFree (ready.work.coh.home (lineHome lineA)) (requestKey 9 lineA) = true ∧
      trackerFree { resetHome with txns := List.replicate 512 (txnOf .upgrade []) } (requestKey 9 lineA) = false := by decide +kernel
theorem wit_evict_clean : stateOf (cached .e).work.coh 9 lineA = some .e ∧ homeUp readyHub lineA = true := by decide +kernel
/-- 11 R341: a write-back that crossed a snoop is discarded; any other is written. -/
theorem test_crossing :
    gives (exec (.writeBack 9 0x50000) (withVictim true)) (fun t => physBytes t.work 0x50000 1 == [0]) = true ∧
      gives (exec (.writeBack 9 0x50000) (withVictim false)) (fun t => physBytes t.work 0x50000 1 == [7]) = true := by
  decide +kernel
theorem wit_ring_parity :
    readyHub.ident.powered = true ∧ ready.work.coh.resent.contains 5 = false ∧ complexRuns readyHub = true ∧
      (withWork (fun w => { w with coh := { w.coh with resent := [5] } }) ready).work.coh.resent.contains 5 = true := by
  decide +kernel

/-! ### The fabric -/

/-- An atomic of 8 bytes adding 5 at 0x50000. -/
def atomicPacket : Packet := request 0x03 0x50000 (leBytes 8 (0 + 256 * 8) ++ leBytes 8 5 ++ leBytes 8 0)
def readPacket (n : Nat) : Packet := { request 0x01 0x50000 [] with length := n }

theorem wit_remote :
    nextAccess readyHub (withInbox (readPacket 8) ready).work 0 0x01 = some (readPacket 8) ∧
      okB (readHere readyHub (withInbox (readPacket 8) ready).work 0x50000 8) = true ∧
      nextAccess readyHub (withInbox (request 0x02 0x50000 [1, 2]) ready).work 0 0x02 = some (request 0x02 0x50000 [1, 2]) ∧
      okB (writeHere readyHub (withInbox (request 0x02 0x50000 [1, 2]) ready).work 0x50000 [1, 2]) = true ∧
      nextAccess readyHub (withInbox atomicPacket ready).work 0 0x03 = some atomicPacket ∧ atomicPacketOk atomicPacket = true ∧
      okAnd (moduleAddr readyHub (withInbox atomicPacket ready).work true 0x50000) (fun a =>
        okB (atomicAt readyHub (withInbox atomicPacket ready).work a 0 8 5 0)) = true ∧
      okAnd (writeHere readyHub (withInbox (request 0x02 0x50000 [1, 2]) ready).work 0x50000 [1, 2]) (fun x =>
        (newlyHeld (withInbox (request 0x02 0x50000 [1, 2]) ready).work x.2).isEmpty) = true := by decide +kernel
/-- A write on a piece that a snapshot protects; and accesses of a line in quarantine, or of no memory. -/
def pieceState (s : State) : State :=
  withWork (fun w => { w with copier := { w.copier with protectedSet := [pieceOf 0x50000] } }) s
def quarantined : State := withWork (fun w => w.setHome (lineHome lineA) (fun hm => { hm with quarantine := [lineA] })) ready
theorem wit_remote_stops :
    okAnd (writeHere readyHub (pieceState ready).work 0x50000 [1, 2]) (fun x =>
        !(newlyHeld (pieceState ready).work x.2).isEmpty) = true ∧
      errIs (readHere readyHub quarantined.work 0x50000 8) 0x0404 = true ∧
      errIs (writeHere readyHub quarantined.work 0x50000 [1, 2]) 0x0404 = true ∧
      errIs (atomicAt readyHub quarantined.work 0x50000 0 8 5 0) 0x0404 = true ∧
      (match moduleAddr readyHub ready.work true 0x700000000000 with | .error c => c == 0x0401 | .ok _ => false) = true ∧
      nextAccess readyHub (withInbox (readPacket 8) ready).work 1 0x01 = none := by decide +kernel
theorem wit_remote_register :
    let p := request 0x02 0x7F000000000C [1, 2, 3, 4, 5, 6, 7, 8]
    nextAccess readyHub (withInbox p ready).work 0 0x02 = some p ∧
      (match regionOf readyHub p.addr with | .regs o => o % 8 != 0 | _ => false) = true := by decide +kernel
theorem wit_remote_refused :
    targetDown complexDown.hub = true ∧ nextAccess complexDown.hub (withInbox (readPacket 8) complexDown).work 0 0x01 = some (readPacket 8) ∧
      nextAccess complexDown.hub (withInbox atomicPacket complexDown).work 0 0x03 = some atomicPacket ∧
      nextAccess complexDown.hub (withInbox (request 0x02 0x50000 [1]) complexDown).work 0 0x02 = some (request 0x02 0x50000 [1]) ∧
      nextAccess readyHub (withInbox (readPacket 4097) ready).work 0 0x01 = some (readPacket 4097) ∧
      nextAccess readyHub (withInbox (request 0x03 0x50001 []) ready).work 0 0x03 = some (request 0x03 0x50001 []) ∧
      atomicPacketOk (request 0x03 0x50001 []) = false := by decide +kernel

def alarmBytes : List Byte := List.replicate 0x3A 0 ++ leBytes 2 0x0A00 ++ List.replicate 4 0
theorem wit_control_packet :
    inboxAt (withInbox (request 0x20 0 []) ready).work 0 (fun x => x.op == 0x20) = some (request 0x20 0 []) ∧
      inboxAt (withInbox (request 0x20 0 alarmBytes) ready).work 0 (fun x => x.op == 0x20) = some (request 0x20 0 alarmBytes) ∧
      isAlarm alarmBytes = true ∧ fabricWorks readyHub = true ∧
      behindPart (withInbox (request 0x20 0 []) ready).work 0 (request 0x20 0 []) = false ∧
      [flagPayload 5 1 9 true, outcomePayload 5 9 1, groupPayload 5 2 12 0x300000 1 0 0 [7], abortPayload 5 9].map
        (fun x => (fld x 0 1, isAlarm x)) = [(1, false), (2, false), (3, false), (4, false)] ∧
      fwRuns { readyHub with ident := { readyHub.ident with fwAlive := List.replicate 6 false } } 2 = false ∧
      readyHub.fw.heldControl.length < 64 := by decide +kernel
theorem wit_response :
    let s := withWork (fun w => w.setFabric (fun f => { f with requests := [(42, .atomicOp 0 1)] })) (withInbox (request 0x83 0 []) ready)
    inboxAt s.work 0 (fun x => decide (0x80 ≤ x.op)) = some (request 0x83 0 []) ∧
      s.work.fabric.requests.find? (fun r => r.1 == 42) = some (42, .atomicOp 0 1) ∧
      (withWork (fun w => w.setFabric (fun f => { f with requests := [(42, .signalOp 0 1)] })) s).work.fabric.requests.find?
        (fun r => r.1 == 42) = some (42, .signalOp 0 1) ∧
      (withWork (fun w => w.setFabric (fun f => { f with requests := [(42, .core)] })) s).work.fabric.requests.find?
        (fun r => r.1 == 42) = some (42, .core) := by decide +kernel

def frameOf (p : Packet) : EthFrame := ⟨true, false, 0, 50592, 200, packetBytes p⟩
theorem wit_arrivals :
    (portOf (portsUp ready).work 3).st = .up ∧ (portOf (portsUp ready).work 14).st = .ethUp ∧
      readyHub.ident.cfg.testMode = false ∧ packetBad { readPacket 8 with crcOk := false } = true ∧
      packetBad (readPacket 8) = false ∧ isSelf readyHub (readPacket 8).dest = true ∧ isManagement (readPacket 8) = false ∧
      isSelf readyHub 12 = false ∧ packetBad { readPacket 8 with dest := 12 } = false ∧ frameOk (frameOf (readPacket 8)) = true ∧
      packetOf (frameOf (readPacket 8)).payload = some (readPacket 8) ∧ packetOf [1, 2, 3] = none ∧
      isManagement { readPacket 8 with op := ackOp } = true ∧
      frameOk { frameOf (readPacket 8) with tags := 2 } = false := by decide +kernel
/-- 12 R369: a packet of this module whose CRC fails is discarded; the same one whole reaches the inbox. -/
theorem test_forward :
    gives (exec (.packetForward 3 ((packetBytes (readPacket 8)).set 20 1)) (portsUp ready)) (fun t =>
        t.work.fabric.inbox.isEmpty) = true ∧
      gives (exec (.packetForward 3 (packetBytes (readPacket 8))) (portsUp ready)) (fun t => t.work.fabric.inbox == [readPacket 8]) = true := by
  decide +kernel

def seqPacket (n : Nat) : Packet := { readPacket 8 with psn := BitVec.ofNat 32 n }
def behind (xs : List Packet) (n : Nat) : Work :=
  ready.work.setReceiver ⟨7, 2, BitVec.ofNat 32 n, xs, [], []⟩
theorem wit_receiver :
    (seqPacket 5).psn = (receiverOf (behind [] 5) 7 2).expected ∧ (receiverOf (behind [] 5) 7 2).ahead = [] ∧
      (receiverOf (behind [seqPacket 6] 5) 7 2).ahead = [seqPacket 6] ∧ (seqPacket 6).psn = (seqPacket 5).psn + 1 ∧
      ((seqPacket 6).psn - (receiverOf (behind [] 5) 7 2).expected).toNat = 1 ∧
      ((seqPacket 261).psn - (receiverOf (behind [] 5) 7 2).expected).toNat = 256 ∧
      ((seqPacket 262).psn - (receiverOf (behind [] 5) 7 2).expected).toNat = 257 ∧
      2 ^ 31 ≤ ((seqPacket 4).psn - (receiverOf (behind [] 5) 7 2).expected).toNat := by decide +kernel

def heldOf (n : Nat) : HeldPacket := ⟨{ seqPacket 5 with dest := 7, path := 3 }, n, 0xFFFF⟩
def senderState (n : Nat) : State :=
  portsUp (withWork (fun w =>
    (w.setFabric (fun f => { f with routes0 := [(7, 8)] })).setSender
      ⟨7, 2, 6, [heldOf n], 3, [3], [(3, 1)], false⟩) ready)
theorem wit_transport :
    fabricWorks readyHub = true ∧
      (senderOf (senderState 6).work 7 2).held.find? (fun y => y.packet.psn == 5) = some (heldOf 6) ∧
      (heldOf 6).packet.op < 0x80 ∧ (heldOf 6).resends < 7 ∧
      (senderOf (senderState 7).work 7 2).held.find? (fun y => y.packet.psn == 5) = some (heldOf 7) ∧ 7 ≤ (heldOf 7).resends ∧
      (senderOf (senderState 6).work 7 2).left.contains 3 = true ∧ (permitted (senderState 6).work 7).contains 3 = true ∧
      portIsUp (senderState 6).work 3 = true ∧ ethReachable (senderState 6).work 3 7 = true ∧
      resendRefused (senderState 6).work (countTimeout (senderOf (senderState 6).work 7 2) 3) (heldOf 6) = false ∧
      (senderOf ready.work 7 2).held.find? (fun y => y.packet.psn == 5) = none := by decide +kernel
/-- The next port is the Ethernet port 14, which has no entry for module 7 (12 R366). -/
theorem wit_resend_refused :
    let s := withWork (fun w => (w.setFabric (fun f => { f with routes1 := [(7, 0x4000)] })).setSender
      ⟨7, 2, 6, [heldOf 6], 3, [], [], false⟩) (portsUp ready)
    resendRefused s.work (countTimeout (senderOf s.work 7 2) 3) (heldOf 6) = true := by decide +kernel
/-- 12 R372: the eighth time-out makes the destination unreachable. -/
theorem test_give_up :
    gives (exec (.retransmitTimeout 7 2 5) (senderState 7)) (fun t => (senderOf t.work 7 2).unreachable) = true ∧
      gives (exec (.retransmitTimeout 7 2 5) (senderState 6)) (fun t => (senderOf t.work 7 2).unreachable) = false := by
  decide +kernel

def retraining (n : Nat) : State := withWork (fun w => w.setPort 3 (fun p => { p with st := .retraining, attempts := n })) ready
theorem wit_links :
    (portOf (portsUp ready).work 3).failed.contains 9 = false ∧
      (portOf (withWork (fun w => w.setPort 3 (fun p => { p with failed := [9] })) (portsUp ready)).work 3).failed.contains 9 =
        true ∧
      (portOf (retraining 1).work 3).st = .retraining ∧ (portOf (retraining 1).work 3).attempts < 2 ∧
      2 ≤ (portOf (retraining 2).work 3).attempts ∧ (retraining 1).work.fabric.referenceLost = false ∧
      portIsUp (portsUp ready).work 3 = true ∧ (portOf (portsUp ready).work 14).st ≠ .up := by decide +kernel
theorem wit_fabric_reference :
    readyHub.ident.powered = true ∧ ready.work.fabric.referenceLost = false ∧
      (withWork (fun w => w.setFabric (fun f => { f with referenceLost := true })) ready).work.fabric.referenceLost = true ∧
      readyHub.ident.powerState ≠ 2 ∧ readyHub.ident.bootDone = true ∧ readyHub.sec.stoppedBoot = false := by decide +kernel
/-- 12 R363: the second failure of a flit retrains the port. -/
theorem test_second_failure :
    gives (exec (.flitCrcFailure 3 9) (portsUp ready)) (fun t =>
      gives (exec (.flitCrcFailure 3 9) t) (fun u =>
        (portOf u.work 3).st == .retraining && (portOf u.work 3).replays == 1 && (portOf u.work 3).retrains == 1)) = true := by
  decide +kernel

/-! ### Collectives -/

/-- A collective of 4 FP32 elements of group 5 with sequence number `seq`. -/
def collPayload (seq : Nat) : List Byte :=
  leBytes 8 0x50000 ++ leBytes 8 0x60000 ++ leBytes 8 0x30000 ++ leBytes 8 4 ++ leBytes 4 5 ++ leBytes 4 seq ++ leBytes 8 0 ++
    leBytes 4 0x3FFF ++ leBytes 4 100
def collDesc (kind seq : Nat) : Desc := ⟨kind, padTo 56 (collPayload seq), 0⟩
def collState (kind seq : Nat) : State :=
  groupState (withWork (fun w => w.setCollQ 0 (fun q => { q with enabled := true, log2 := 6, base := 0x10000,
                                                                  desc := some (collDesc kind seq) })) ready)

theorem wit_cq_doorbell :
    (collQ ready.work 0).enabled = false ∧ (collQ (collRing 0).work 0).enabled = true ∧
      (collQ (collRing 0).work 0).rereads = 0 ∧ (collQ (collRing 0).work 0).desc = none ∧
      okAnd (physRead (collRing 0).hub (collRing 0).work (slotAddr 0x10000 6 0) 64)
        (fun b => judgeSlot 0 b == .sealed sealedDesc) = true := by decide +kernel
theorem wit_collective_start :
    [0x0C01, 0x0C02, 0x0C03, 0x0C04, 0x0C05, 0x0C06].all (fun kind =>
      (collQ (collState kind 9).work 0).desc == some (collDesc kind 9) &&
        okB (checkColl readyHub (collState kind 9).work (collDesc kind 9)) &&
        !okB (checkColl readyHub (collState kind 8).work (collDesc kind 8))) = true := by decide +kernel
theorem wit_collective_unknown :
    (collQ (collState 0x0C07 9).work 0).desc = some (collDesc 0x0C07 9) ∧ knownColl 0x0C07 = false ∧ collWorks readyHub = true ∧
      (collState 0x0C01 9).work.colls.heldGroups.contains (fld (collDesc 0x0C01 9).payload 0x20 2) = false ∧
      (withWork (fun w => { w with colls := { w.colls with heldGroups := [5] } }) (collState 0x0C01 9)).work.colls.heldGroups.contains
        (fld (collDesc 0x0C01 9).payload 0x20 2) = true := by decide +kernel
/-- 12 R385: a descriptor whose COLL_SEQ is not NEXT_SEQ completes with 0x0506. -/
theorem test_collective_seq :
    gives (exec (.barrier 0) (collState 0x0C06 8)) (fun t => physBytes t.work 0x30008 2 == leBytes 2 0x0506) = true := by
  decide +kernel

def runningColl (res : Option (Code × List Byte)) : Coll :=
  { collFrom (collDesc 0x0C01 9) with members := [0x1FFFF], data := List.replicate 16 0, result := res }
def endedColl (res : Option (Code × List Byte)) : State :=
  withWork (fun w => w.setCollQ 0 (fun q => { q with desc := none, cur := some (runningColl res) })) (collState 0x0C01 9)
theorem wit_collective_end :
    (collQ (endedColl (some (0, [1]))).work 0).cur = some (runningColl (some (0, [1]))) ∧
      (runningColl (some (0, [1]))).result = some (0, [1]) ∧ collSettled (endedColl (some (0, [1]))).work 0 = true ∧
      (runningColl (some (0x0505, []))).result = some (0x0505, []) ∧ (0x0505 : Code) ≠ 0 ∧ (runningColl none).tmoUs ≠ 0 ∧
      collOf (endedColl none).work 5 9 = some (0, runningColl none) := by decide +kernel
theorem wit_collective_abort :
    collOf (collState 0x0C01 9).work 5 9 = none ∧ notStarted readyHub (collState 0x0C01 9).work 5 9 = true ∧
      notStarted readyHub (collState 0x0C01 9).work 5 8 = false ∧ fwRuns readyHub 2 = true := by decide +kernel
theorem wit_collective_packet :
    inboxAt (withInbox (request 0x10 0 []) ready).work 0 (fun x => x.op == 0x10) = some (request 0x10 0 []) ∧
      inboxAt (withInbox (request 0x10 0 [1]) ready).work 0 (fun x => x.op == 0x10) = some (request 0x10 0 [1]) := by
  decide +kernel

/-! ### The copier -/

/-- A copier descriptor at 0x400000: both image slots in this module, two staging pieces. -/
def copierBytes (epoch : Nat) : List Byte :=
  leBytes 8 epoch ++ leBytes 8 (atlas 0x40000000) ++ leBytes 8 (atlas 0x80000000) ++ leBytes 8 (16 * 0x200000) ++
    leBytes 8 0x4000000 ++ leBytes 4 2 ++ leBytes 4 0 ++ leBytes 8 0
def copierState (epoch : Nat) : State :=
  withMem 0x400000 (copierBytes epoch) (withWork (fun w => w.setCopier (fun c => { c with descAddr := 0x400000 })) ready)
def copierDescA (epoch : Nat) : CopierDesc := copierDescOf (padTo 128 (copierBytes epoch))

theorem quiet_copier (epoch : Nat) : Quiet (copierState epoch).work.coh := quiet_reset

/-- An empty gazetteer at 0: only its own place is protected for it. -/
theorem gaz_empty (h : Hub) (w : Work) (hq : Quiet w.coh) (hb : w.fabric.gazBase = 0)
    (hm : ∀ c ∈ w.mem, 128 * 4096 ≤ c.1) : gazPieces h w = .ok (rangePieces 0 (128 * 4096)) := by
  have hz : (List.range 4096).flatMap (fun g =>
      let en := ((memRead w.mem 0 (128 * 4096)).drop (128 * g)).take 128
      if bitOf (fld en 0 4) 0 then
        rangePieces (fld en 0x10 8) (4 * fld en 4 4) ++
          (if bitOf (fld en 0x28 4) 0 then rangePieces (fld en 0x30 8) (4 * fld en 0x38 4) else [])
      else []) = [] := by
    rw [List.flatMap_eq_nil_iff]
    intro g hg
    have hg' : g < 4096 := by simpa using hg
    have he : ((memRead w.mem 0 (128 * 4096)).drop (128 * g)).take 128 = List.replicate 128 0 := by
      rw [memRead_zero _ _ _ (fun c hc => .inr (by have := hm c hc; omega)), List.drop_replicate, List.take_replicate,
        show min 128 (128 * 4096 - 128 * g) = 128 by omega]
    simp only [he]
    decide +kernel
  simp only [gazPieces, hb, physRead_quiet _ _ _ _ hq, hz, List.append_nil]

theorem gaz_copier : gazPieces readyHub (copierState 1).work = .ok (rangePieces 0 (128 * 4096)) :=
  gaz_empty _ _ (quiet_copier 1) (by decide +kernel) (by decide +kernel)

theorem wit_snapshot :
    copierReady readyHub = true ∧ bitsOf (1 : Word).toNat 0 3 = 1 ∧ bitOf (1 : Word).toNat 3 = false ∧
      (copierState 1).work.copier.phase = 0 ∧ (copierState 1).work.upd.phase = 0 ∧
      readCopierDesc readyHub ready.work = none ∧
      (readCopierDesc readyHub (copierState 0).work).map (fun x => x.2) = some (copierDescA 0) ∧
      snapshotDescBad readyHub (copierState 0).work.copier (copierDescA 0) = true ∧
      (readCopierDesc readyHub (copierState 1).work).map (fun x => x.2) = some (copierDescA 1) ∧
      snapshotDescBad readyHub (copierState 1).work.copier (copierDescA 1) = false := by decide +kernel

/-- What is protected without translation. -/
theorem protected_plain (h : Hub) (w : Work) (gz : List Nat) (a : Nat) (hx : w.tables.xlEnable = false)
    (hg : gazPieces h w = .ok gz) (ha : stepRecordAddr h w = .ok a) :
    protectedPieces h w =
      .ok (((tablePieces h w w.upd.groupBase (256 * w.upd.groupCount) ++
        tablePieces h w w.upd.contourBase (512 * w.upd.contourCount) ++
        tablePieces h w w.upd.surveyBase (32 * w.upd.surveyCount) ++
        (if w.tables.ttLog2 = 0 then [] else tablePieces h w w.tables.ttBase (256 * 2 ^ w.tables.ttLog2)) ++ gz ++
        tablePieces h w a 128).filter
          (fun p => decide (p < lpddrEnd h / pieceSize))).foldr insertPiece [], []) := by
  have hs : scanXlate h w = .ok ⟨[], []⟩ := by simp [scanXlate, hx]
  simp only [protectedPieces, hs, hg, hx, ha]
  simp

theorem wit_snapshot_protected :
    okAnd (protectedPieces readyHub (copierState 1).work) (fun x =>
      decide (x.1.length ≤ slotCapacity (copierDescA 1)) && !slotMeets readyHub (copierDescA 1) x.1) = true := by
  rw [protected_plain _ _ _ 0 rfl gaz_copier (by decide +kernel)]
  decide +kernel

/-- An epoch with piece 3 protected; its staging slots hold `staged`, and a store to the piece is held at its home. -/
def copierRun (staged : List (Nat × Nat)) : CopierRun := { freshRun (copierDescA 1) with pieces := [3], todo := [3], staged := staged }
def epochState (phase : Nat) (r : CopierRun) : State :=
  withWork (fun w =>
    (w.setCopier (fun c => { c with phase := phase, run := some r, protectedSet := if phase = 2 then [3] else [] })).setHome
      (lineHome (3 * 0x4000)) (fun hm => { hm with held := [.command (.writeAtHome 0x600000 [1])] })) ready

theorem wit_epoch_open :
    (epochState 1 (copierRun [])).work.copier.run = some (copierRun []) ∧ homesWork readyHub = true ∧
      readyHub.ident.complexReady = true ∧ slotPending (epochState 1 (copierRun [])).work = false ∧
      (captureEngines (epochState 1 (copierRun [])).work (copierRun [])).uncaptured = [] ∧
      ownershipUnderWay (epochState 1 (copierRun [])).work (captureEngines (epochState 1 (copierRun [])).work (copierRun [])) =
        false := by decide +kernel
theorem wit_piece :
    (epochState 2 (copierRun [])).work.copier.protectedSet.contains 3 = true ∧
      heldTouch readyHub (epochState 2 (copierRun [])).work 3 = true ∧ isStaged (copierRun []) 3 = false ∧
      freeSlot (copierRun []) = some 0 ∧ freeSlot (copierRun [(8, 0), (9, 1)]) = none ∧
      isStaged (copierRun [(8, 0), (9, 1)]) 3 = false ∧ isStaged (copierRun [(3, 0)]) 3 = true := by decide +kernel
theorem wit_piece_reads : pieceFault readyHub (epochState 2 (copierRun [])).work 3 = none := by
  have hq : Quiet (epochState 2 (copierRun [])).work.coh :=
    quiet_setHome _ _ _ quiet_reset (fun hm => ⟨rfl, rfl, rfl⟩)
  unfold pieceFault
  rw [List.findSome?_eq_none_iff]
  intro ln _
  rw [lineFault_quiet _ _ hq]
  simp
/-- The first line of piece 3 is quarantined; piece 8 is staged and no longer protected. -/
theorem wit_piece_more :
    (pieceFault readyHub ((epochState 2 (copierRun [])).work.setHome (lineHome (3 * 0x4000)) (fun hm =>
        { hm with quarantine := [3 * 0x4000] })) 3).isSome = true ∧
      (epochState 2 (copierRun [(8, 0)])).work.copier.protectedSet.contains 8 = false ∧
      (copierRun [(8, 0)]).staged.head?.map (fun x => x.1) = some 8 ∧
      isStaged (copierRun []) 3 = false ∧ (copierRun []).todo.head? = some 3 ∧ (epochState 4 (copierRun [])).work.copier.phase > 3 := by
  decide +kernel
/-- The gazetteer cannot be read; the slot of the image lies in the protected set. -/
theorem wit_snapshot_stops :
    errIs (protectedPieces readyHub ((copierState 1).work.setHome 0 (fun hm => { hm with quarantine := [0] }))) 0x0404 = true := by
  decide +kernel
theorem wit_commit :
    let r := { copierRun [] with todo := [], sent := 2 }
    (epochState 3 r).work.copier.run = some r ∧ (epochState 3 r).work.copier.phase = 3 ∧ r.slotFail = 0 ∧
      slotPending (epochState 3 r).work = false ∧ bitOf (8 : Word).toNat 3 = true ∧ bitsOf (8 : Word).toNat 0 3 = 0 := by
  decide +kernel
/-- 13 R409: an abort ends the epoch with 0x0903. -/
theorem test_copier_abort :
    gives (exec (.copierAbort 8) (epochState 3 (copierRun []))) (fun t =>
      t.work.copier.lastStatus == 0x0903 && t.work.copier.phase == 0) = true := by decide +kernel

theorem wit_restore_refill :
    let r := { copierRun [] with stage := 2, work := [(0, 0x800000000000)] }
    let f := { copierRun [] with work := [(0x200000, 0)], regions := [⟨0x200000, 1, [7]⟩], failedSources := [7] }
    bitsOf (2 : Word).toNat 0 3 = 2 ∧ bitOf (2 : Word).toNat 3 = false ∧ bitsOf (3 : Word).toNat 0 3 = 3 ∧
      copierBusy (epochState 4 r).work = true ∧ r.missing = [] ∧ (epochState 4 r).work.copier.phase = 4 ∧ r.failed = [] ∧
      inLpddr readyHub 0x800000000000 pieceSize = false ∧ { r with work := [] }.missing = [] ∧
      (epochState 5 f).work.copier.phase = 5 ∧ f.stage = 0 ∧
      (f.regions.getD 0 ⟨0, 0, []⟩).sources.filter (fun m => !f.failedSources.contains m) = [] := by decide +kernel

/-- The last piece of a restore has arrived, and its CRC is the image's, or is not; the last piece of a refill has arrived. -/
def restoring (c : Nat) : CopierRun := { copierRun [] with stage := 2, work := [(0, 0x600000)], crcs := [(0, c)] }
theorem restoring_crc (c : Nat) : ((restoring c).crcs.getD 0 (0, 0)).2 = c := rfl
theorem wit_restore_last (c : Nat) (hc : crc32 (memRead (restoring 0).buffer 0 pieceSize) = c) :
    crc32 (memRead (restoring c).buffer 0 pieceSize) = ((restoring c).crcs.getD 0 (0, 0)).2 ∧
      crc32 (memRead (restoring (c + 1)).buffer 0 pieceSize) ≠ ((restoring (c + 1)).crcs.getD 0 (0, 0)).2 := by
  rw [restoring_crc, restoring_crc]
  exact ⟨hc, fun h => Nat.succ_ne_self c (h.symm.trans hc)⟩
theorem wit_restore_more :
    inLpddr readyHub 0x600000 pieceSize = true ∧ (0x600000 : Nat) % pieceSize = 0 ∧
      okAnd (moduleAddr readyHub ready.work true 0x600000) (fun p => p == 0x600000) = true ∧
      errIs (verifyLoss readyHub (withWork (fun w => w.setCopier (fun c => { c with verifyAddr := 0x700000000000 })) ready).work)
        0x0401 = true := by decide +kernel

/-- The ledger holds a loss of 7 for step 3; the six bytes at 0x50000 hold `n`. -/
def ledgerState (n : Nat) : State :=
  withMem 0x50000 (leBytes 6 n) (withWork (fun w => w.setCopier (fun c =>
    { c with ledger := c.ledger.set 3 (3, 7), verifyStep := 3, verifyAddr := 0x50000 })) ready)
theorem wit_ledger :
    (ledgerState 7).work.copier.ledger.getD ((ledgerState 7).work.copier.verifyStep.toNat % 64) (BitVec.allOnes 64, 0) = (3, 7) ∧
      bitOf (16 : Word).toNat 4 = true ∧ bitOf (1 : Word).toNat 0 = true ∧
      okAnd (verifyLoss readyHub (ledgerState 7).work) (fun n => n == 7) = true ∧
      okAnd (verifyLoss readyHub (ledgerState 8).work) (fun n => n == 8) = true ∧
      ready.work.copier.ledger.getD (ready.work.copier.verifyStep.toNat % 64) (BitVec.allOnes 64, 0) = (BitVec.allOnes 64, 0) ∧
      BitVec.allOnes 64 ≠ ready.work.copier.verifyStep := by decide +kernel
/-- 13 R414. -/
theorem test_verify :
    gives (exec (.verifyGo 1) (ledgerState 7)) (fun t => t.work.copier.verifyResult == 1) = true ∧
      gives (exec (.verifyGo 1) ready) (fun t => t.work.copier.verifyResult == 3 && t.work.copier.lastStatus == 0x090A) = true := by
  decide +kernel

/-! ### A context is saved and restored -/

theorem length_flatMap_const {α : Type} (l : List α) (f : α → List Byte) (n : Nat) (h : ∀ x ∈ l, (f x).length = n) :
    (l.flatMap f).length = l.length * n := by
  induction l with
  | nil => simp
  | cons x l ih =>
    rw [List.flatMap_cons, List.length_append, h x (by simp), ih (fun y hy => h y (by simp [hy])), List.length_cons]
    ring

theorem length_padTo (n : Nat) (bs : List Byte) : (padTo n bs).length = n := by
  simp only [padTo, List.length_take, List.length_append, List.length_replicate]
  omega

theorem length_setRecord (x : Option WeightSet) : (setRecord x).length = 64 := by
  unfold setRecord
  split
  · exact List.length_replicate
  · exact length_padTo _ _

theorem length_resumeRecord (en : Engine) (r : Option (Nat × Nat)) : (resumeRecord en r).length = 64 := by
  unfold resumeRecord
  split
  · exact List.length_replicate
  · exact length_padTo _ _

theorem length_feedPtrs (x : Option (Fmt × List (List Nat))) : (feedPtrs x).length = 1024 := by
  unfold feedPtrs
  split
  · exact List.length_replicate
  · rw [length_flatMap_const _ _ 2 (fun i _ => by simp), List.length_range]

theorem length_feedBytes (x : Option (Fmt × List (List Nat))) : (feedBytes x).length = 131072 := by
  unfold feedBytes
  split
  · exact List.length_replicate
  · rw [length_flatMap_const _ _ 256 (fun i _ => ?_), List.length_range]
    rw [length_flatMap_const _ _ 4 (fun k _ => by split <;> simp), List.length_range]

theorem length_streamRecord (en : Engine) (q : Nat) (hd : (en.stream q).d.length = 32) : (streamRecord en q).length = 0x300 := by
  have : ((en.stream q).d.flatMap (fun x => leBytes 8 x.toNat)).length = 256 := by
    rw [length_flatMap_const _ _ 8 (fun x _ => by simp), hd]
  unfold streamRecord
  simp only [List.length_append, length_leBytes, List.length_replicate, this]

theorem length_tileBytes (t : Tile) : (tileBytes t).length = 0xC0000 := by
  rw [tileBytes, length_flatMap_const _ _ 6 (fun x _ => by simp)]
  simp

theorem length_genBytes (g : GenState) : (genBytes g).length = 0x4040 := by
  have : ((List.range 2048).flatMap (fun l => leBytes 8 (laneCounter g l).toNat)).length = 16384 := by
    rw [length_flatMap_const _ _ 8 (fun x _ => by simp)]
    simp
  simp only [genBytes, List.length_append, this]
  simp

/-- The area fills its 0x1B0000 bytes. -/
theorem length_ctxBytes (en : Engine) (e : Nat) (r : Option (Nat × Nat)) (hd : ∀ q < 4, (en.stream q).d.length = 32)
    (ht : en.tokens.length = 64) : (ctxBytes en e r).length = ctxSize := by
  have h1 : ((List.range 4).flatMap (streamRecord en)).length = 4 * 0x300 := by
    rw [length_flatMap_const _ _ 0x300 (fun q h => length_streamRecord en q (hd q (List.mem_range.mp h))), List.length_range]
  have h2 : (en.tokens.flatMap (fun x => leBytes 4 x.toNat)).length = 256 := by
    rw [length_flatMap_const _ _ 4 (fun x _ => by simp), ht]
  unfold ctxBytes
  simp only [List.length_append, length_leBytes, List.length_replicate, h1, h2, length_resumeRecord, length_feedPtrs,
    length_feedBytes, length_tileBytes, length_genBytes, length_setRecord, ctxSize]

theorem lineParts_within (n a : Nat) (bs : List Byte) : ∀ p ∈ linePartsFuel n a bs, a ≤ p.1 ∧ p.1 < a + bs.length := by
  induction n generalizing a bs with
  | zero => simp [linePartsFuel]
  | succ n ih =>
    cases bs with
    | nil => simp [linePartsFuel]
    | cons b bs =>
      intro p hp
      simp only [linePartsFuel, List.mem_cons] at hp
      rcases hp with rfl | hp
      · simp
      · have := ih _ _ p hp
        simp only [List.length_drop, List.length_cons] at this ⊢
        omega

/-- A write of an engine that does not translate goes through where nothing is cached and no line is quarantined. -/
theorem engineStore_quiet (h : Hub) (w : Work) (e a : Nat) (bs : List Byte) (hx : (w.engine e).xl.enable = false)
    (hr : ∀ x, a ≤ x → x < a + bs.length → regionOf h x = .lpddr) (hq : Quiet w.coh) (ht : w.tables.ttLog2 = 0) :
    ∃ w1, engineStore h w e false a bs = .ok w1 := by
  have hs : storeParts h w e a bs = .ok ((lineParts a bs).map (fun p => (p.1, p.2))) := by
    apply mapM_ok
    intro p hp
    have hb := lineParts_within _ _ _ p hp
    simp [engineAddr, hr p.1 hb.1 hb.2, Machine.translate, hx]
  have hf : ∀ p : Nat × List Byte, cacheWriteFault h w (agentOf e) p.1 p.2 = none := by
    intro p
    unfold cacheWriteFault
    split
    · rw [List.findSome?_eq_none_iff]
      intro x _
      rw [lineFault_quiet _ _ hq]
      split <;> rfl
    · rfl
  unfold engineStore
  rw [hs]
  have : ((lineParts a bs).map (fun p => (p.1, p.2))).findSome? (fun p =>
      (if false = true then writeFault h w p.1 p.2 else cacheWriteFault h w (agentOf e) p.1 p.2).map (fun c => (c, p.1))) = none := by
    rw [List.findSome?_eq_none_iff]
    intro p _
    simp [hf p]
  simp only [this]
  exact ⟨_, storeClosing_no_table _ _ (fun w a bs => by simp) _ _ ht⟩

/-- Engine 0 saves its context to 0x100000 for stream 0, and nothing of it is in flight. -/
def savingState : State :=
  withEngine (fun en => { en with stopped := true, saving := some ⟨0, 0x100000, none⟩ }) (holds 0x0E03 ctxPayload ready)

theorem lpddr_region (x : Nat) (h : x < 0xC000000000) : regionOf readyHub x = .lpddr := by
  have : lpddrEnd readyHub = 0xC000000000 := by decide +kernel
  simp [regionOf, this, h]

theorem wit_ctx_save_complete :
    (savingState.work.engine 0).saving = some ⟨0, 0x100000, none⟩ ∧ working savingState.hub savingState.work 0 = true ∧
      (savingState.work.engine 0).ops.all (mayStay (savingState.work.engine 0)) = true ∧
      ∃ w1, engineStore readyHub savingState.work 0 false 0x100000 (ctxBytes (savingState.work.engine 0) 0 none) = .ok w1 := by
  refine ⟨by decide +kernel, by decide +kernel, by decide +kernel, ?_⟩
  refine engineStore_quiet _ _ _ _ _ (by decide +kernel) (fun x _ h2 => lpddr_region x ?_) quiet_reset rfl
  rw [length_ctxBytes _ _ _ (by decide +kernel) (by decide +kernel), ctxSize] at h2
  omega

/-- The save interrupts an array operation of nine tokens at token 5. -/
def cutOp : Op := opOf 1 .started (.array (arrayP false) none (some set24) nineTokens 0)
def cuttingState : State :=
  withEngine (fun en => { en with ops := [cutOp], saving := some ⟨0, 0x100000, some (1, 5)⟩ }) (withSet savingState)
theorem wit_ctx_save_cut :
    working cuttingState.hub cuttingState.work 0 = true ∧
      (cuttingState.work.engine 0).ops.all (mayStay (cuttingState.work.engine 0)) = true ∧
      (cuttingState.work.engine 0).op 1 = some cutOp ∧ tokenEvents (arrayP false) set24 0 0 (nineTokens.take 5) = [] ∧
      ∃ w1, engineStore readyHub (cutOperation cuttingState.work 0 5 cutOp (arrayP false) set24 nineTokens 0) 0 false 0x100000
        (ctxBytes ((cutOperation cuttingState.work 0 5 cutOp (arrayP false) set24 nineTokens 0).engine 0) 0 (some (1, 5))) =
          .ok w1 := by
  refine ⟨by decide +kernel, by decide +kernel, by decide +kernel, by decide +kernel, ?_⟩
  refine engineStore_quiet _ _ _ _ _ (by decide +kernel) (fun x _ h2 => lpddr_region x ?_) quiet_reset rfl
  rw [length_ctxBytes _ _ _ (by decide +kernel) (by decide +kernel), ctxSize] at h2
  omega

/-- Only CTX_VERSION (1) and CTX_COMPLETE are not 0 in the area at `a`. -/
theorem ctx_clean (m : List Host.Cell) (a : Nat) (hm : ∀ c ∈ m, c.1 = a ∨ c.1 = a + 0xF8) (h0 : memGet m a = 1)
    (h1 : memGet m (a + 0xF8) = 1) : ctxBad (memRead m a ctxSize) = false ∧ fld (memRead m a ctxSize) 8 8 = 0 := by
  have hz : ∀ o n, (0 < o ∧ o + n ≤ 0xF8 ∨ 0xF8 < o) → memRead m (a + o) n = List.replicate n 0 := by
    intro o n ho
    apply memRead_zero
    intro c hc
    rcases hm c hc with h | h <;> omega
  have hf : ∀ o n, o + n ≤ 0x1B0000 → (0 < o ∧ o + n ≤ 0xF8 ∨ 0xF8 < o) → fld (memRead m a 0x1B0000) o n = 0 := by
    intro o n hs ho
    rw [fld_memRead m a _ o n hs, hz o n ho, leNat_replicate_zero]
  have hr : ∀ o n, o + n ≤ 0x1B0000 → (0 < o ∧ o + n ≤ 0xF8 ∨ 0xF8 < o) → rangeSet (memRead m a 0x1B0000) o n = false := by
    intro o n hs ho
    rw [rangeSet_memRead m a _ o n hs, hz o n ho]
    simp
  have hb : ∀ o n lo, o + n ≤ 0x1B0000 → (0 < o ∧ o + n ≤ 0xF8 ∨ 0xF8 < o) → bitsSet (memRead m a 0x1B0000) o n lo = false := by
    intro o n lo hs ho
    have : 0 < 2 ^ lo := Nat.two_pow_pos lo
    simp only [bitsSet, hf o n hs ho, decide_eq_false_iff_not]
    omega
  have hv : fld (memRead m a 0x1B0000) 0 4 = 1 := by
    rw [fld_memRead m a _ 0 4 (by omega)]
    have : memRead m (a + 0) 4 = 1 :: memRead m (a + 1) 3 := by simp [memRead, List.range', h0]
    rw [this, hz 1 3 (by omega)]
    decide
  have hc : fld (memRead m a 0x1B0000) 0xF8 8 = 1 := by
    rw [fld_memRead m a _ 0xF8 8 (by omega)]
    have : memRead m (a + 0xF8) 8 = 1 :: memRead m (a + 0xF9) 7 := by simp [memRead, List.range', h1, Nat.add_assoc]
    rw [this, hz 0xF9 7 (by omega)]
    decide
  refine ⟨?_, by rw [ctxSize, hf 8 8 (by omega) (by omega)]⟩
  have h512 : (List.range 512).any (fun i => bitsSet (memRead m a 0x1B0000) (0x8000 + 2 * i) 2 13) = false := by
    rw [List.any_eq_false]
    intro i hi
    rw [List.mem_range] at hi
    rw [hb _ _ _ (by omega) (by omega)]
    decide
  have h32k : (List.range 32768).any (fun i => bitsSet (memRead m a 0x1B0000) (0x10000 + 4 * i) 4 21) = false := by
    rw [List.any_eq_false]
    intro i hi
    rw [List.mem_range] at hi
    rw [hb _ _ _ (by omega) (by omega)]
    decide
  have h4 : (List.range 4).any (fun q => bitsSet (memRead m a 0x1B0000) (0x1000 + q * 0x300 + 0x10) 8 2 ||
      bitsSet (memRead m a 0x1B0000) (0x1000 + q * 0x300 + 0x28) 8 32 ||
      rangeSet (memRead m a 0x1B0000) (0x1000 + q * 0x300 + 0x38) 200 ||
      rangeSet (memRead m a 0x1B0000) (0x1000 + q * 0x300 + 0x200) 256) = false := by
    rw [List.any_eq_false]
    intro q hq
    rw [List.mem_range] at hq
    rw [hb _ _ _ (by omega) (by omega), hb _ _ _ (by omega) (by omega), hr _ _ (by omega) (by omega), hr _ _ (by omega) (by omega)]
    decide
  unfold ctxBad
  rw [ctxSize]
  simp only [hv, hc, h512, h32k, h4, hr 6 2 (by omega) (by omega), hb 8 8 5 (by omega) (by omega),
    hr 0x10 232 (by omega) (by omega), hr (0x100 + 6) 2 (by omega) (by omega), hr (0x100 + 0x28) 24 (by omega) (by omega),
    hr (0x140 + 6) 2 (by omega) (by omega), hr (0x140 + 0x28) 24 (by omega) (by omega),
    hr (0x180 + 0x13) 45 (by omega) (by omega), hr 0x1C0 3648 (by omega) (by omega), hr 0x1D00 768 (by omega) (by omega),
    hb 0x2008 2 12 (by omega) (by omega), hr 0x200A 54 (by omega) (by omega), hr 0x6040 8128 (by omega) (by omega),
    hr 0x8400 31744 (by omega) (by omega)]
  rfl

/-- Stream 0 holds CTX_RESTORE from 0x100000, on a stopped engine; `bs` stands there. -/
def restoreState (bs : List Byte) : State :=
  withMem 0x100000 bs (withEngine (fun en => { en with stopped := true }) (holds 0x0E04 ctxPayload ready))
def restoreDesc : Desc := ⟨0x0E04, padTo 56 ctxPayload, 0⟩

theorem restore_read (bs : List Byte) :
    engineRead readyHub (restoreState bs).work 0 0x100000 ctxSize = .ok (memRead (restoreState bs).work.mem 0x100000 ctxSize) := by
  refine engineRead_quiet _ _ _ _ _ (by rfl) (fun i hi => .inl (lpddr_region _ ?_))
    (fun i _ => by
      have : (restoreState bs).work.tables.ttLog2 = 0 := rfl
      simp [readsZero, this]) quiet_reset
  rw [ctxSize] at hi
  omega

theorem wit_ctx_restore :
    let s := restoreState ([1] ++ List.replicate 0xF7 0 ++ [1])
    Held s 0 0 0x0E04 restoreDesc ∧ ComplOk s restoreDesc ∧ (s.work.engine 0).saving = none ∧
      rangeSet restoreDesc.payload 0x10 40 = false ∧ ctxAddr s.hub (fld restoreDesc.payload 0 8) = some 0x100000 ∧
      contextConflict (s.work.engine 0) = false ∧
      (s.work.engine 0).stopped = true ∧ 0 < s.work.engines.length ∧ (s.work.engine 0).xl.enable = false ∧
      fld restoreDesc.payload 0 8 = 0x100000 ∧ fld restoreDesc.payload 8 8 = 0 := by
  unfold Held ComplOk
  decide +kernel
theorem reloads_none (h : Hub) (w : Work) (b : List Byte) (hz : fld b 8 8 = 0) : reloads h w 0 b = .ok (none, none, none) := by
  simp [reloads, reloadSet, hz, bitOf]
theorem wit_ctx_restore_clean :
    ∃ b, engineRead readyHub (restoreState ([1] ++ List.replicate 0xF7 0 ++ [1])).work 0 0x100000 ctxSize = .ok b ∧
      ctxBad b = false ∧
      ∀ w : Work, reloads readyHub w 0 b = .ok (none, none, none) := by
  have h := ctx_clean (restoreState ([1] ++ List.replicate 0xF7 0 ++ [1])).work.mem 0x100000 (by decide +kernel)
    (by decide +kernel) (by decide +kernel)
  exact ⟨_, restore_read _, h.1, fun w => reloads_none _ w _ h.2⟩
theorem wit_ctx_restore_bad :
    ∃ b, engineRead readyHub (restoreState []).work 0 0x100000 ctxSize = .ok b ∧ ctxBad b = true := by
  refine ⟨_, restore_read _, ?_⟩
  have : fld (memRead (restoreState []).work.mem 0x100000 ctxSize) 0xF8 8 = 0 := by
    rw [fld_memRead _ _ _ 0xF8 8 (by rw [ctxSize]; omega)]
    decide +kernel
  unfold ctxBad
  simp only [this]
  rfl

/-! ### Mailbox commands -/

/-- Mailbox 0 holds command `op` with its arguments from payload byte 8 on. -/
def cmdDesc (op : Nat) (args : List Byte) : Desc := ⟨op, padTo 56 (leBytes 8 77 ++ args), 0⟩
def cmdState (op : Nat) (args : List Byte) (s : State) : State :=
  boxOf (fun m => { m with cmd := some (cmdDesc op args), cmdHead := 1 }) s

/-- `Serves` as a test. -/
def servesB (s : State) (c : Instr) (d : Desc) : Bool :=
  match mailboxRow c with
  | none => false
  | some (k, op, owner, priv, fields) =>
    heldCommand s.hub k (fun o => o == op) == some d && !fwFailed s.hub owner && fwRuns s.hub owner &&
      (!priv || (s.hub.mailbox k).priv) && !argsReserved fields d.payload

theorem servesB_serves {s : State} {c : Instr} {d : Desc} (h : servesB s c d = true) : Serves s c d := by
  rcases hr : mailboxRow c with _ | ⟨k, op, owner, priv, fields⟩
  · simp [servesB, hr] at h
  · simp only [servesB, hr, Bool.and_eq_true, beq_iff_eq, Bool.not_eq_true', Bool.or_eq_true] at h
    obtain ⟨⟨⟨⟨h1, h2⟩, h3⟩, h4⟩, h5⟩ := h
    have h6 : priv = true → (s.hub.mailbox k).priv = true := fun hp => by
      rcases h4 with h4 | h4
      · rw [h4] at hp; cases hp
      · exact h4
    simp only [Serves, hr]
    exact ⟨h1, h2, h3, h6, h5⟩

/-- The command is served in a state made from `ready`, and its other premises hold there. -/
def serves (c : Instr) (op : Nat) (args : List Byte) (f : State → State) (p : State → List Byte → Bool) : Bool :=
  servesB (cmdState op args (f ready)) c (cmdDesc op args) && p (cmdState op args (f ready)) (cmdDesc op args).payload

theorem wit_mb_doorbell :
    (ready.hub.mailbox 0).isOpen = false ∧ readyHub.ident.powered = true ∧ readyHub.ident.powerState ≠ 2 ∧
      ((boxRing 0).hub.mailbox 0).isOpen = true ∧ ((boxRing 0).hub.mailbox 0).rereads = 0 ∧ fwRuns (boxRing 0).hub 4 = true ∧
      ((boxRing 0).hub.mailbox 0).cmd = none ∧ ((boxRing 0).hub.mailbox 0).closing = false ∧
      cplFree (boxRing 0).hub (boxRing 0).work 0 = true ∧
      judgeSlot 0 (physBytes (boxRing 0).work (slotAddr 0x10000 6 0) 64) = .sealed sealedDesc := by decide +kernel
theorem wit_mb_between_reads :
    let s := boxOf (fun m => { m with rereads := 1, unsealed := false }) ready
    (s.hub.mailbox 0).isOpen = true ∧ (s.hub.mailbox 0).rereads ≠ 0 ∧ (s.hub.mailbox 0).unsealed = false ∧
      s.hub.ident.powered = true ∧ s.hub.ident.powerState ≠ 2 := by decide +kernel
def fifthByte : State := cmdState 0x0202 [1, 2, 3, 4, 5] ready
theorem wit_mb_checks :
    heldCommand (cmdState 0x0999 [] ready).hub 0 (fun o => !knownCommand o) = some (cmdDesc 0x0999 []) ∧
      heldCommand fifthByte.hub 0 (fun o => o == 0x0202) = some (cmdDesc 0x0202 [1, 2, 3, 4, 5]) ∧
      fwFailed (fifthByte.hub.setProc 1 (fun p => { p with st := 3 })) 1 = true ∧
      heldCommand (fifthByte.hub.setProc 1 (fun p => { p with st := 3 })) 0 (fun o => o == 0x0202) =
        some (cmdDesc 0x0202 [1, 2, 3, 4, 5]) ∧
      fwFailed fifthByte.hub 1 = false ∧ fwRuns fifthByte.hub 1 = true ∧ (fifthByte.hub.mailbox 0).priv = true ∧
      ((fifthByte.hub.setMailbox 0 (fun m => { m with priv := false })).mailbox 0).priv = false ∧
      argsReserved [(8, 4)] (cmdDesc 0x0202 [1, 2, 3, 4, 5]).payload = true := by decide +kernel

theorem wit_mb_row : mailboxRow (.setPowerCap 0) = some (0, 0x0202, 1, true, [(8, 4)]) := rfl

theorem wit_versions : serves (.getVersions 0) 0x0101 [] id (fun _ _ => true) = true := by decide +kernel
theorem wit_reset_request :
    serves (.resetRequest 0) 0x0102 [0] id (fun _ p => resetArgsBad p) = true ∧
      serves (.resetRequest 0) 0x0102 [1] id (fun _ p => !resetArgsBad p) = true := by decide +kernel
def inPower (n : Nat) (s : State) : State := withHub (fun h => { h with ident := { h.ident with powerState := n } }) s
theorem wit_power_state :
    serves (.setPowerState 0) 0x0201 [3] id (fun _ p => decide (2 < fld p 8 1)) = true ∧
      serves (.setPowerState 0) 0x0201 [0] (inPower 1) (fun s p => fld p 8 1 == 0 && s.hub.ident.powerState != 0) = true ∧
      serves (.setPowerState 0) 0x0201 [1] id (fun s p => fld p 8 1 == 1 && mayIdle s.hub s.work) = true ∧
      serves (.setPowerState 0) 0x0201 [1] (withStream { ringStream with desc := some sealedDesc })
        (fun s _ => !mayIdle s.hub s.work) = true ∧
      serves (.setPowerState 0) 0x0201 [2] id (fun s p => fld p 8 1 == 2 && s.hub.ident.powerState != 1) = true ∧
      serves (.setPowerState 0) 0x0201 [2] (inPower 1)
        (fun s _ => s.hub.ident.powerState == 1 && !updateBusy s.hub && !epochOpen s.work) = true := by decide +kernel
theorem wit_power_state_more :
    serves (.setPowerState 0) 0x0201 [0] id (fun s p => fld p 8 1 == 0 && s.hub.ident.powerState == 0) = true ∧
      serves (.setPowerState 0) 0x0201 [2] (inPower 1)
        (fun s _ => s.hub.ident.powerState == 1 && updateBusy (s.hub.setUpdate (fun u => { u with stage := 1 }))) = true ∧
      serves (.setPowerState 0) 0x0201 [2]
        (fun s => inPower 1 (withWork (fun w => w.setCopier (fun c => { c with phase := 2 })) s))
        (fun s p => fld p 8 1 == 2 && s.hub.ident.powerState == 1 && !updateBusy s.hub && epochOpen s.work) = true := by
  decide +kernel
theorem wit_power_cap :
    serves (.setPowerCap 0) 0x0202 (leBytes 4 999) id (fun _ p => decide (fld p 8 4 < 1000)) = true ∧
      serves (.setPowerCap 0) 0x0202 (leBytes 4 2300) id (fun _ p => 1000 ≤ fld p 8 4 && fld p 8 4 ≤ 2300) = true := by
  decide +kernel

/-! ### Firmware update -/

def updating (f : FwUpdate → FwUpdate) (s : State) : State := withHub (fun h => h.setUpdate f) s
def writeArgs (off : Nat) : List Byte := leBytes 8 0x50000 ++ leBytes 4 off ++ leBytes 4 4096
def writeOk (p : List Byte) (h : Hub) : Bool :=
  fld p 8 8 % 4096 == 0 && fld p 0x14 4 % 4096 == 0 && fld p 0x14 4 ≤ 0x1000000 && inLpddr h (fld p 8 8) (fld p 0x14 4) && !erasing h
def staging (kib : Nat) (s : State) : State := updating (fun u => { u with stage := 2, stagedKib := kib, bundleBytes := 8192 }) s

theorem wit_stage_begin :
    serves (.fwStageBegin 0) 0x0701 (leBytes 8 8192) (updating (fun u => { u with trial := true }))
        (fun s p => fld p 8 8 == 8192 && s.hub.fw.update.trial) = true ∧
      serves (.fwStageBegin 0) 0x0701 (leBytes 8 8192) id
        (fun s _ => !s.hub.fw.update.deferred && !s.hub.fw.update.trial && !erasing s.hub) = true ∧ 8192 ≤ maxBundle := by
  decide +kernel
theorem wit_stage_write_refused :
    serves (.fwStageWrite 0) 0x0702 (writeArgs 0) id (fun s p => writeOk p s.hub && s.hub.fw.update.stage != 2) = true ∧
      serves (.fwStageWrite 0) 0x0702 (writeArgs 0) (staging 4)
        (fun s p => writeOk p s.hub && fld p 0x10 4 != s.hub.fw.update.stagedKib * 1024) = true ∧
      serves (.fwStageWrite 0) 0x0702 (writeArgs 8192) (staging 8)
        (fun s p => writeOk p s.hub && decide (s.hub.fw.update.bundleBytes < fld p 0x10 4 + fld p 0x14 4)) = true := by
  decide +kernel
theorem wit_stage_write :
    serves (.fwStageWrite 0) 0x0702 (writeArgs 4096) (staging 4)
      (fun s p => writeOk p s.hub && s.hub.fw.update.stage == 2 && fld p 0x10 4 == s.hub.fw.update.stagedKib * 1024 &&
        decide (fld p 0x10 4 + fld p 0x14 4 ≤ s.hub.fw.update.bundleBytes)) = true := by decide +kernel
theorem quiet_cmd (op : Nat) (args : List Byte) (kib : Nat) : Quiet (cmdState op args (staging kib ready)).work.coh := quiet_reset
theorem fwRead_physRead {h : Hub} {w : Work} {a n : Nat} {b : List Byte} (hp : physRead h w a n = .ok b) :
    fwRead h w a n = .ok b := by
  simp [fwRead, hp]
theorem wit_stage_write_reads :
    ∃ b, fwRead readyHub (cmdState 0x0702 (writeArgs 4096) (staging 4 ready)).work 0x50000 4096 = .ok b :=
  ⟨_, fwRead_physRead (physRead_quiet _ _ _ _ (quiet_cmd _ _ _))⟩
theorem wit_erase :
    let s := withHub (fun h => h.setMailbox 0 (fun m => { m with busyLong := true }))
      (updating (fun u => { u with stage := 1, waitingMailbox := some 0 }) (cmdState 0x0701 (leBytes 8 8192) ready))
    s.hub.fw.update.waitingMailbox = some 0 ∧ fwRuns s.hub 0 = true ∧ fwRuns s.hub 4 = true ∧
      (s.hub.mailbox 0).cmd = some (cmdDesc 0x0701 (leBytes 8 8192)) ∧ (s.hub.mailbox 0).busyLong = true := by decide +kernel
theorem wit_verify_activate :
    serves (.fwStageVerify 0) 0x0703 [] (staging 8) (fun s _ => !erasing s.hub && decide (2 ≤ s.hub.fw.update.stage)) = true ∧
      serves (.fwActivate 0) 0x0704 [] (updating (fun u => { u with stage := 3 }))
        (fun s _ => s.hub.fw.update.stage == 3 && !s.hub.fw.update.deferred && !s.hub.fw.update.trial &&
          !emergency s.hub.safety) = true ∧
      serves (.fwActivate 0) 0x0704 []
        (fun s => updating (fun u => { u with stage := 3 })
          (withHub (fun h => { h with safety := { h.safety with thermalPark := true } }) s))
        (fun s _ => emergency s.hub.safety) = true := by decide +kernel
/-- A stage is erased while FW_STAGE_BEGIN comes; nothing is staged; the images are those verified, and are not. -/
theorem wit_update_more :
    serves (.fwStageBegin 0) 0x0701 (leBytes 8 8192) (updating (fun u => { u with waitingMailbox := some 1 }))
        (fun s _ => !s.hub.fw.update.deferred && !s.hub.fw.update.trial && erasing s.hub) = true ∧
      serves (.fwStageVerify 0) 0x0703 [] id (fun s _ => decide (s.hub.fw.update.stage < 2)) = true ∧
      (let h := ready.hub.setUpdate (fun u => { u with stagedDigest := imageDigests (ready.hub.fw.flash.bank (stagedBank ready.hub)) })
       imageDigests (h.fw.flash.bank (stagedBank h)) = h.fw.update.stagedDigest) ∧
      (0 < readyHub.fw.procs.length ∧ (readyHub.proc 0).st ≠ 3) ∧
      (withHub (fun h => h.setMailbox 0 (fun m => { m with cmd := none }))
        (updating (fun u => { u with stage := 1, waitingMailbox := some 0 }) ready)).hub.fw.update.waitingMailbox = some 0 := by
  refine ⟨by decide +kernel, by decide +kernel, rfl, by decide +kernel, by decide +kernel⟩
theorem wit_deferred :
    let s := updating (fun u => { u with stage := 3, deferred := true }) ready
    s.hub.fw.update.deferred = true ∧ emergency s.hub.safety = false ∧ fwRuns s.hub 0 = true := by decide +kernel
theorem wit_cancel :
    serves (.fwCancel 0) 0x0705 [] (updating (fun u => { u with deferred := true })) (fun s _ => s.hub.fw.update.deferred) = true ∧
      serves (.fwCancel 0) 0x0705 [] (staging 0) (fun s _ => !s.hub.fw.update.deferred && s.hub.fw.update.stage == 2) = true ∧
      serves (.fwCancel 0) 0x0705 [] id (fun s _ => !s.hub.fw.update.deferred && s.hub.fw.update.stage == 0) = true := by
  decide +kernel
theorem wit_config_stage :
    serves (.configStage 0) 0x0706 (leBytes 8 0x50000 ++ leBytes 4 cfgBytes) id (fun s p =>
      fld p 0x10 4 == cfgBytes && fld p 8 8 % 4096 == 0 && inLpddr s.hub (fld p 8 8) cfgBytes) = true ∧
    ∃ b, fwRead readyHub (cmdState 0x0706 (leBytes 8 0x50000 ++ leBytes 4 cfgBytes) (staging 0 ready)).work 0x50000 cfgBytes = .ok b :=
  ⟨by decide +kernel, _, fwRead_physRead (physRead_quiet _ _ _ _ (quiet_cmd _ _ _))⟩

/-! ### The fabric's mailbox commands -/

def routesArgs : List Byte := leBytes 8 0x50000 ++ leBytes 4 0 ++ leBytes 4 2 ++ [3]
theorem wit_tables :
    serves (.setModuleNumber 0) 0x0301 (leBytes 4 7) id
        (fun s p => decide (fld p 8 4 ≤ 0x1FFFE) && !s.hub.ident.numberValid) = true ∧
      serves (.setModuleNumber 0) 0x0301 (leBytes 4 7)
        (withHub (fun h => { h with ident := { h.ident with numberValid := true } })) (fun s _ => s.hub.ident.numberValid) = true ∧
      serves (.loadRoutes 0) 0x0302 routesArgs id (fun s p =>
        fld p 0x14 4 == 2 && fld p 0x18 1 == 3 && srcArg s.hub (fld p 8 8) (2 * fld p 0x14 4) 64 &&
          okB (fwRead s.hub s.work (fld p 8 8) (2 * fld p 0x14 4))) = true ∧
      serves (.loadEthTable 0) 0x0303 (leBytes 8 0x50000 ++ leBytes 4 4095 ++ leBytes 4 1) id (fun s p =>
        decide (fld p 0x10 4 + fld p 0x14 4 ≤ 4096) && srcArg s.hub (fld p 8 8) (32 * fld p 0x14 4) 64 &&
          okB (fwRead s.hub s.work (fld p 8 8) (32 * fld p 0x14 4))) = true := by decide +kernel
def testMode (s : State) : State :=
  withHub (fun h => { h with ident := { h.ident with cfg := { h.ident.cfg with testMode := true } } }) s
theorem wit_injection :
    serves (.loadInjection 0) 0x0309 (leBytes 8 0x50000 ++ [31, 1]) id (fun s p =>
        decide (fld p 0x10 1 + fld p 0x11 1 ≤ 32) && srcArg s.hub (fld p 8 8) (32 * fld p 0x11 1) 64 &&
          !s.hub.ident.cfg.testMode) = true ∧
      serves (.loadInjection 0) 0x0309 (leBytes 8 0x50000 ++ [31, 1]) testMode (fun s p =>
        s.hub.ident.cfg.testMode && fld p 0x11 1 != 0 &&
          okAnd (fwRead s.hub s.work (fld p 8 8) (32 * fld p 0x11 1)) (fun b =>
            !((List.range (fld p 0x11 1)).map (fun i => (b.drop (32 * i)).take 32)).any ruleBad)) = true := by decide +kernel
theorem wit_ports :
    serves (.setTransport 0) 0x030A (leBytes 4 4) id (fun _ p => decide (fld p 8 4 < 5)) = true ∧
      serves (.setTransport 0) 0x030A (leBytes 4 5) id (fun _ p => 5 ≤ fld p 8 4 && fld p 8 4 ≤ 10000) = true ∧
      serves (.portStatus 0) 0x030B [15] id (fun _ p => decide (fld p 8 1 ≤ 15)) = true ∧
      serves (.portReset 0) 0x030C [15] id (fun s p => decide (fld p 8 1 ≤ 15) && !s.work.fabric.referenceLost) = true ∧
      serves (.portReset 0) 0x030C [15] (withWork (fun w => w.setFabric (fun f => { f with referenceLost := true })))
        (fun s _ => s.work.fabric.referenceLost) = true := by decide +kernel

def cqArgs (log2 base en : Nat) : List Byte := [0, BitVec.ofNat 8 log2] ++ leBytes 2 0 ++ leBytes 4 5 ++ leBytes 8 base ++ leBytes 1 en
def cqBusy (s : State) : State := withWork (fun w => w.setCollQ 0 (fun q => { q with cur := some (runningColl none) })) s
theorem wit_groups :
    serves (.setGazBase 0) 0x0304 (leBytes 8 0 ++ leBytes 8 0x80000) id (fun s p =>
        addrArg s.hub (fld p 0x10 8) 0x80000 4096 && !s.work.colls.queues.any cqRuns) = true ∧
      serves (.setGazBase 0) 0x0304 (leBytes 8 0 ++ leBytes 8 0x80000) cqBusy (fun s _ => s.work.colls.queues.any cqRuns) = true ∧
      serves (.setCq 0) 0x0305 (cqArgs 4 0x100000 1) cqBusy (fun s p => cqRuns (collQ s.work (fld p 8 1))) = true ∧
      serves (.setCq 0) 0x0305 (cqArgs 4 0x100000 0) id (fun s p =>
        ringArgsOk (fld p 0x10 8) (fld p 9 1) && fld p 0x18 1 == 0 && !cqRuns (collQ s.work (fld p 8 1))) = true ∧
      serves (.setCq 0) 0x0305 (cqArgs 4 0x1000 1) id (fun s p =>
        ringArgsOk (fld p 0x10 8) (fld p 9 1) && fld p 0x18 1 == 1 && !ringPlaced s.hub (fld p 0x10 8) (fld p 9 1)) = true ∧
      serves (.setCq 0) 0x0305 (cqArgs 4 0x100000 1) id (fun s p =>
        fld p 0x18 1 == 1 && ringPlaced s.hub (fld p 0x10 8) (fld p 9 1)) = true ∧
      serves (.cqClearStop 0) 0x0306 [15] id (fun _ p => decide (fld p 8 1 ≤ 15)) = true ∧
      serves (.setNextSeq 0) 0x0307 (leBytes 4 5 ++ leBytes 4 3) id (fun s p =>
        decide (fld p 8 2 ≤ 4095) && !groupInFlight s.work (fld p 8 2)) = true ∧
      serves (.setNextSeq 0) 0x0307 (leBytes 4 5 ++ leBytes 4 3) cqBusy (fun s p => groupInFlight s.work (fld p 8 2)) = true := by
  decide +kernel
def changeArgs : List Byte := leBytes 4 5 ++ leBytes 4 12 ++ leBytes 8 0x300000 ++ leBytes 4 1 ++ leBytes 4 2
theorem wit_group_change :
    serves (.groupChange 0) 0x0308 changeArgs id (fun s p =>
        fld p 0x18 4 == 1 && addrArg s.hub (fld p 0x10 8) (4 * fld p 0x18 4) 64 &&
          okAnd (gazEntry s.hub s.work (fld p 8 2)) (fun b => !gazValid b)) = true ∧
      serves (.groupChange 0) 0x0308 changeArgs groupState (fun s p =>
        okAnd (gazEntry s.hub s.work (fld p 8 2)) (fun b =>
          gazValid b && fld b 8 4 == 0 && !bitOf (fld b 0x28 4) 0 &&
            okAnd (gazMembers s.hub s.work b) (fun old =>
              okAnd (memberArray s.hub s.work (fld p 0x10 8) (fld p 0x18 4)) (fun new => (old ++ new).all (isSelf s.hub))))) =
        true := by decide +kernel

/-! ### RAS, service and log commands -/

theorem wit_ras_more :
    serves (.rasCounts 0) 0x0405 [0xFF] id (fun _ p => fld p 8 1 == 0xFF) = true ∧
      serves (.retireEngine 0) 0x0404 [71] id (fun _ p => 3 != fld p 8 1) = true := by decide +kernel
theorem wit_ras :
    serves (.quarantineRead 0) 0x0401 ([23] ++ List.replicate 7 0 ++ leBytes 8 0x50000) id (fun s p =>
        fld p 8 1 == 23 && addrArg s.hub (fld p 0x10 8) 2048 64) = true ∧
      serves (.quarantineClear 0) 0x0402 (leBytes 8 0x50000) id (fun s p => addrArg s.hub (fld p 8 8) 128 128) = true ∧
      serves (.dirRead 0) 0x0403 (leBytes 8 0x50000 ++ leBytes 8 0x60000) id (fun s p =>
        addrArg s.hub (fld p 8 8) 64 64 && addrArg s.hub (fld p 0x10 8) 16 16 && !s.hub.ident.cfg.coherenceMode) = true ∧
      serves (.dirRead 0) 0x0403 (leBytes 8 0x50000 ++ leBytes 8 0x60000)
        (withHub (fun h => { h with ident := { h.ident with cfg := { h.ident.cfg with coherenceMode := true } } }))
        (fun s _ => s.hub.ident.cfg.coherenceMode) = true ∧
      serves (.retireEngine 0) 0x0404 [71] id (fun s p => fld p 8 1 == 71 && !retired s.hub (fld p 8 1)) = true ∧
      serves (.retireEngine 0) 0x0404 [71]
        (withHub (fun h => { h with ident := { h.ident with cmdRetired := [71] } })) (fun s p => retired s.hub (fld p 8 1)) = true ∧
      serves (.rasCounts 0) 0x0405 [71] id (fun _ p => fld p 8 1 == 71) = true := by decide +kernel
def openArgs (base : Nat) : List Byte := [3, 4, 4, 1] ++ leBytes 4 0 ++ leBytes 8 base ++ leBytes 8 0x200000
theorem wit_mailboxes :
    serves (.mbOpen 0) 0x0501 (openArgs 0x100000) id (fun s p =>
        fld p 8 1 == 3 && ringArgsOk (fld p 0x10 8) (fld p 9 1) && ringArgsOk (fld p 0x18 8) (fld p 0x0A 1) &&
          !(s.hub.mailbox (fld p 8 1)).isOpen && ringPlaced s.hub (fld p 0x10 8) (fld p 9 1) &&
          ringPlaced s.hub (fld p 0x18 8) (fld p 0x0A 1)) = true ∧
      serves (.mbOpen 0) 0x0501 (openArgs 0x100000) (withHub (fun h => h.setMailbox 3 (fun m => { m with isOpen := true })))
        (fun s p => (s.hub.mailbox (fld p 8 1)).isOpen) = true ∧
      serves (.mbClose 0) 0x0502 [15] id (fun _ p => fld p 8 1 == 15) = true := by decide +kernel
def tableArgs (n base : Nat) : List Byte := [BitVec.ofNat 8 n] ++ List.replicate 7 0 ++ leBytes 8 base
def busyStream (s : State) : State := withStream { ringStream with desc := some sealedDesc } s
theorem wit_service :
    serves (.setTensorTable 0) 0x0503 (tableArgs 20 0x1000) busyStream (fun s p =>
        fld p 8 1 == 20 && fld p 0x10 8 % 4096 == 0 && inLpddr s.hub (fld p 0x10 8) (256 * 2 ^ fld p 8 1) && streamsRun s.work) = true ∧
      serves (.setTensorTable 0) 0x0503 (tableArgs 0 0x1000) id (fun s p =>
        fld p 8 1 == 0 && !streamsRun s.work && s.work.upd.phase == 0) = true ∧
      serves (.setXlate 0) 0x0504 (tableArgs 1 0x2000) busyStream (fun s p =>
        fld p 8 1 == 1 && fld p 0x10 8 % 8192 == 0 && inLpddr s.hub (fld p 0x10 8) 8192 && streamsRun s.work) = true ∧
      serves (.setXlate 0) 0x0504 (tableArgs 1 0x2000) id (fun s _ =>
        !streamsRun s.work && s.work.upd.phase == 0 && s.work.copier.phase == 0) = true ∧
      serves (.telemetry 0) 0x0505 [] id (fun _ _ => true) = true ∧
      serves (.dumpClear 0) 0x0506 [5] id (fun _ p => fld p 8 1 == 5) = true ∧
      serves (.setLogRing 0) 0x0601 ([11, 4] ++ List.replicate 6 0 ++ leBytes 8 0x1000) id (fun s p =>
        fld p 8 1 == 11 && ringArgsOk (fld p 0x10 8) (fld p 9 1) && !ringPlaced s.hub (fld p 0x10 8) (fld p 9 1)) = true ∧
      serves (.setLogRing 0) 0x0601 ([11, 4] ++ List.replicate 6 0 ++ leBytes 8 0x100000) id (fun s p =>
        ringPlaced s.hub (fld p 0x10 8) (fld p 9 1)) = true := by decide +kernel
/-- 14 R446, 15 R472: a cap of 999 W is refused with 0x0604, and the completion carries the user's tag. -/
theorem test_power_cap :
    gives (exec (.setPowerCap 0) (cmdState 0x0202 (leBytes 4 999) ready)) (fun t =>
      t.hub.fw.powerCap == 2300 && (t.hub.mailbox 0).cmd.isNone &&
        physBytes t.work 0x20000 12 == leBytes 8 77 ++ leBytes 2 0x0202 ++ leBytes 2 0x0604) = true := by decide +kernel

/-! ### Processors, resets and power -/

def dumpOf : DumpData := ⟨7, [], [], [], [], []⟩
def inTrial (s : State) : State := updating (fun u => { u with trial := true }) s
theorem wit_processors :
    fwRuns readyHub 2 = true ∧ 2 < readyHub.fw.procs.length ∧ readyHub.fw.update.trial = false ∧
      ((readyHub.setProc 2 (fun p => { p with st := 2 })).proc 2).st = 2 ∧
      ((readyHub.setProc 2 (fun p => { p with st := 4 })).proc 2).st = 4 ∧ readyHub.safety.refFail = false ∧
      2 < readyHub.ident.fwAlive.length ∧ (inTrial ready).hub.fw.update.trial = true ∧
      (List.range 6).all (fwRuns (inTrial ready).hub) = true := by decide +kernel
/-- 14 R452: a panic leaves a dump with its code; a sixth restart holds the processor as failed. -/
theorem test_panic :
    gives (exec (.firmwarePanic 2 false false dumpOf) ready) (fun t =>
      (t.hub.proc 2).st == 2 && (t.hub.proc 2).lastReason == 2 && (t.hub.proc 2).dump.valid) = true ∧
    gives (exec (.firmwarePanic 2 true false dumpOf) ready) (fun t => (t.hub.proc 2).st == 3) = true := by decide +kernel
def off : State := withHub (fun h => { h with ident := { h.ident with powered := false } }) ready
theorem wit_resets :
    off.hub.ident.powered = false ∧ off.hub.safety.refFail = false ∧ State.reset.hub.sec.coldWaits = true ∧
      mayReset readyHub = true ∧ readyHub.sec.coldWaits = false ∧ complexRuns readyHub = true ∧
      complexDown.hub.ident.complexReady = false ∧ complexDown.hub.ident.bootDone = true ∧
      complexDown.hub.sec.stoppedBoot = false ∧ complexDown.hub.ident.powerState ≠ 2 ∧
      complexDown.hub.fw.pendingResets = [] ∧
      (withHub (fun h => { h with fw := { h.fw with pendingResets := [(3, 0)] } }) complexDown).hub.fw.pendingResets ≠ [] := by
  decide +kernel
theorem wit_resets_more :
    let o := withHub (fun h => { h with safety := { h.safety with refFail := true } }) off
    o.hub.ident.powered = false ∧ o.hub.safety.refFail = true ∧ mayReset off.hub = false ∧
      complexRuns complexDown.hub = false ∧ (true && false) = false ∧ complexDown.hub.safety.refFail = false ∧
      complexDown.hub.ident.powered = true := by decide +kernel
theorem wit_host_link :
    (withHub (fun h => { h with ident := { h.ident with links := [true, false] } }) ready).hub.ident.links.getD 1 true = false ∧
      complexRuns (withHub (fun h => { h with ident := { h.ident with links := [true, false] } }) ready).hub = true := by
  decide +kernel

def withSafety (f : Safety → Safety) (s : State) : State := withHub (fun h => { h with safety := f h.safety }) s
def hot (n : Nat) : State := withSafety (fun x => { x with power := n }) ready
theorem wit_overcurrent :
    (hot 2801).hub.safety.peakW < (hot 2801).hub.safety.power ∧ (hot 2801).hub.safety.ocPeak = false ∧
      (hot 2301).hub.safety.sustainedW < (hot 2301).hub.safety.power ∧ (hot 2301).hub.safety.ocSustained = false ∧
      conditionHolds (withSafety (fun x => { x with ocPeak := true }) ready).hub.safety = true ∧
      600 < ready.hub.safety.capMv ∧ ready.hub.safety.ocParked = false ∧ conditionHolds ready.hub.safety = false ∧
      100 * (withSafety (fun x => { x with power := 2185, capMv := 600 }) ready).hub.safety.power ≤ 95 * ready.hub.safety.sustainedW ∧
      fwRuns readyHub 1 = true := by decide +kernel
theorem wit_overcurrent_more :
    conditionHolds (withSafety (fun x => { x with ocPeak := true, capMv := 600 }) ready).hub.safety = true ∧
      (withSafety (fun x => { x with ocPeak := true, capMv := 600 }) ready).hub.safety.ocParked = false ∧
      conditionHolds (withSafety (fun x => { x with ocParked := true }) ready).hub.safety = false ∧
      (hot 2301).hub.safety.requestMv < 700 ∧ (hot 2301).hub.fw.powerCap < (hot 2301).hub.safety.power ∧
      (hot 2300).hub.safety.power ≤ (hot 2300).hub.fw.powerCap := by decide +kernel
/-- 15 R475, first row of its example: at a request of 700 mV, 2,860 W bring CAP_MV to 690 mV. -/
theorem test_first_action :
    gives (exec .peakOvercurrent (withSafety (fun x => { x with requestMv := 700 }) (hot 2860))) (fun t =>
      t.hub.safety.capMv == 690 && t.hub.safety.tripCount == 1 && t.hub.safety.lastCode == 0x0702) = true := by decide +kernel

def temps (n : Nat) : List Nat := [40, 40, 40, n, 40, 40, 40, 40, 40]
theorem wit_trips :
    (439 : Nat) < ready.hub.safety.underV ∧ ready.hub.safety.overV < (661 : Nat) ∧
      (579 : Nat) < (ready.hub.safety.rails.getD 0 ⟨0, 0, 0⟩).low ∧ (ready.hub.safety.rails.getD 7 ⟨0, 0, 0⟩).high < (1891 : Nat) ∧
      (temps 120).length = 9 ∧ hotDie (temps 120) ready.hub.safety.stopC = some (3, 120) ∧
      hotDie (temps 110) ready.hub.safety.stopC = none ∧ hotDie (temps 110) ready.hub.safety.parkC = some (3, 110) ∧
      ready.hub.safety.thermalPark = false ∧ hotDie (temps 109) ready.hub.safety.parkC = none ∧
      (withSafety (fun x => { x with thermalPark := true, temps := temps 100 }) ready).hub.safety.temps.all
        (fun x => decide (x ≤ ready.hub.safety.releaseC)) = true ∧
      ready.hub.safety.refFail = false ∧ ready.hub.safety.stopping = false ∧ ready.hub.ident.bootDone = true ∧
      (withSafety (fun x => { x with refFail := true }) ready).hub.safety.refFail = true := by decide +kernel
theorem wit_reference_unbooted :
    let s := withHub (fun h => { h with ident := { h.ident with bootDone := false }, safety := { h.safety with refFail := true } }) ready
    s.hub.safety.refFail = true ∧ s.hub.safety.stopping = false ∧ s.hub.ident.bootDone = false ∧ s.hub.ident.powered = true := by
  decide +kernel
/-- 15 R474: under-voltage turns the module off with a trip of the reading. -/
theorem test_under_voltage :
    gives (exec (.underVoltage 439) ready) (fun t =>
      !t.hub.ident.powered && t.hub.safety.tripCount == 1) = true ∧
    gives (exec (.underVoltage 440) ready) (fun t => t.hub.ident.powered && t.hub.safety.tripCount == 0) = true := by decide +kernel

def asleep : State := inPower 2 ready
theorem wit_wake :
    i2cAnswers asleep.hub = true ∧ asleep.hub.ident.powerState = 2 ∧
      (leBytes 8 asleep.hub.ident.serial.toNat).take 8 = leBytes 8 asleep.hub.ident.serial.toNat ∧
      ready.hub.ident.powerState ≠ 2 := by
  refine ⟨by decide +kernel, by decide +kernel, ?_, by decide +kernel⟩
  rw [List.take_of_length_le (by rw [length_leBytes])]
theorem wit_sideband :
    mayReset readyHub = true ∧ i2cAnswers readyHub = true ∧ (3 : Byte) ≠ 1 ∧ (3 : Byte) ≠ 2 ∧ readyHub.ident.powered = true ∧
      (withHub (fun h => { h with sec := { h.sec with spiOpen := true } }) ready).hub.sec.spiOpen = true ∧
      readyHub.sec.debugOpen = false ∧ faultN readyHub = true ∧ emergency readyHub.safety = false ∧
      (∀ n < 6, readyHub.ident.fwAlive.getD n false = true) ∧
      faultN { readyHub with ident := { readyHub.ident with fwAlive := readyHub.ident.fwAlive.set 3 false } } = false ∧
      faultN { readyHub with safety := { readyHub.safety with thermalPark := true } } = false ∧
      State.reset.hub.ident.bootDone = false ∧ faultN State.reset.hub = true := by decide +kernel

/-! ### Attestation -/

def stage (n : Nat) (f : Security → Security) : State := withHub (fun h => { h with sec := f { h.sec with spdm := n } }) ready
theorem wit_attestation :
    fwRuns (stage 3 id).hub 0 = true ∧ 3 ≤ (stage 3 id).hub.sec.spdm ∧ (stage 3 id).hub.sec.responses < 200 ∧
      (stage 3 (fun x => { x with lmsReady := true })).hub.sec.lmsReady = true ∧
      (stage 3 (fun x => { x with lmsReady := false })).hub.sec.lmsReady = false ∧ (true && false) = false ∧
      (stage 3 (fun x => { x with nextIndex := 0, lmsBlock := 0 })).hub.sec.nextIndex + 1 <
        4096 * ((stage 3 (fun x => { x with nextIndex := 0, lmsBlock := 0 })).hub.sec.lmsBlock + 1) := by decide +kernel
theorem wit_attestation_more :
    fwRuns (stage 0 id).hub 0 = true ∧ (stage 0 id).hub.sec.spdm = 0 ∧ 200 ≤ (stage 3 (fun x => { x with responses := 200 })).hub.sec.responses ∧
      (1 : Nat) ≠ 0 ∧ measurementBody readyHub 9 = none ∧ 2 ≤ (stage 2 id).hub.sec.spdm := by decide +kernel
theorem wit_measurement : measurementBody readyHub 0 = some (leBytes 1 7) := rfl
/-- 16 R504: an unfinished negotiation is answered with ERROR. -/
theorem test_digests_early :
    gives (exec .getDigests (stage 2 id)) (fun t => t.work.replies.spdmCode == 0x7F) = true := by decide +kernel

/-! ### Logs -/

def recOf (cls rep : Nat) : LogRec := ⟨5, resetWork.upd.accepted, 0, 0, 0, 0x0301, cls, 0, 9, rep, []⟩
def sourceOf (cls : Nat) : LogSource := ⟨cls, 0x0301, 0, 9, 0, []⟩
def queued (qs : List QueueEntry) : State := withWork (fun w => w.setLogs (fun l => { l with queue := qs })) ready
theorem wit_merge :
    coalesces (recOf 1 0) (sourceOf 1) (queued []).work.upd.accepted = true ∧
      coalesces (recOf 2 0) (sourceOf 1) (queued []).work.upd.accepted = false ∧
      (queued [⟨recOf 2 0, true⟩, ⟨recOf 1 0, true⟩]).work.logs.queue = [⟨recOf 2 0, true⟩] ++ ⟨recOf 1 0, true⟩ :: [] := by
  decide +kernel
/-- 17 R520: REPEAT saturates at 65,535, and the record keeps its DOMAIN_COUNT. -/
theorem test_merge :
    gives (exec (.logRecord (sourceOf 1)) (queued [⟨recOf 1 65535, true⟩])) (fun t =>
      t.work.logs.queue == [⟨recOf 1 65535, true⟩]) = true ∧
    gives (exec (.logRecord (sourceOf 1)) (queued [⟨recOf 1 6, true⟩])) (fun t =>
      t.work.logs.queue == [⟨recOf 1 7, true⟩]) = true := by decide +kernel
theorem wit_alarm_stamp : ∃ w1 x, stamp readyHub ready.work 0 ⟨0, 0x0702, 0, 9, 0, []⟩ = (w1, x) := ⟨_, _, rfl⟩
def ringed : State :=
  withWork (fun w => w.setLogs (fun l => { l with rings := l.rings.set 1 (some ⟨0x200000, 4, 3⟩) })) (queued [⟨recOf 1 0, true⟩])
theorem wit_records :
    (queued []).work.logs.queue.any (fun q => coalesces q.record (sourceOf 1) (queued []).work.upd.accepted) = false ∧
      sharedUsed (queued []).work.logs < 704 ∧ fwRuns readyHub 5 = true ∧
      takeRecord 1 ringed.work.logs.queue = some (recOf 1 0, []) ∧ (ringed.work.logs.unsummed.getD 1 (0, 0)).1 = 0 ∧
      ringFree ringed.work.logs 1 = true ∧
      (withWork (fun w => w.setLogs (fun l => { l with alarmQueue := [⟨recOf 0 0, [7, 8]⟩] })) ready).work.logs.alarmQueue =
        [⟨recOf 0 0, [7, 8]⟩] ∧ ready.work.logs.alarmWindow + 2 ≤ 24 := by decide +kernel

/-- A drop summary is due for class 1; the window is full. -/
theorem wit_records_more :
    summaryDue (withWork (fun w => w.setLogs (fun l => { l with unsummed := l.unsummed.set 1 (2, 7) })) ringed).work.logs 1 = true ∧
      takeRecord 0 (queued [⟨recOf 0 0, true⟩]).work.logs.queue = some (recOf 0 0, []) ∧
      ¬ ((withWork (fun w => w.setLogs (fun l => { l with alarmWindow := 23 })) ready).work.logs.alarmWindow + 2 ≤ 24) := by
  decide +kernel

/-! ### The safety partition as a whole -/

theorem wit_limits :
    readyHub.ident.powered = true ∧ readyHub.sec.coldWaits = false ∧ readyHub.safety.legal = true ∧
      gives (step { ready with pending := [.nop 0 0] }) (fun t => t.pending.isEmpty) = true := by decide +kernel

/-! ### REDUCE issues -/

/-- Member 0 of 1, the engine table at D2, SRC D2 and D3, DST D4 and D5, ELEMS D3, no tensor. -/
def reduceWord : Nat := 0x62 + 10 * 2 ^ 16 + 2 * 2 ^ 21 + 1 * 2 ^ 26 + 2 * 2 ^ 30 + 3 * 2 ^ 34
def reduceState : State := atWordWith (dRegs ++ [65536]) reduceWord
theorem wit_reduce_issue :
    found reduceState 0x62 reduceWord = true ∧
      okAnd (checkReduce readyHub (taken reduceState 0 0) 0 0 reduceWord) (fun p =>
        p.1.members == 1 &&
        (((taken reduceState 0 0).engine 0).notices.find? (fun x => x.1 == p.1.reduceId)).isNone) = true := by
  decide +kernel

/-! ### The spec's worked examples -/

/-- 14 R431: the check value of the seal's CRC. -/
theorem test_crc16 : crc16 ([0x31, 0x32, 0x33, 0x34, 0x35, 0x36, 0x37, 0x38, 0x39] : List Byte) = 0x29B1 := by decide +kernel
/-- 02 R69: the generator's vectors. -/
theorem test_generator : mix 0 0 0 = 0xE220A8397B1DCDAF ∧ mix 0 0 1 = 0x6E789E6AA1B965F4 := by decide +kernel
/-- 02, stochastic rounding to E2M1: 2.625 with the first draw is 3 and −2.125 with the second is −2. -/
theorem test_stochastic :
    (convertTo .e2m1 (.sr 12 (drawBits 0 0 0 12)) false (a48Val 0x400A00000000)).code = 0x5 ∧
      (convertTo .e2m1 (.sr 12 (drawBits 0 0 1 12)) false (a48Val 0xC00200000000)).code = 0xC ∧
      (convertTo .e2m1 .rne false (a48Val 0x400A00000000)).code = 0x5 := by decide +kernel
/-- 03, an E2M1 element with block scales. -/
theorem test_block_scales :
    groupA48 (groupSum [.fin true 18 1, .fin false 3 4, .fin true 1 4, .fin false 16 1] 16) (some 0x7F) (some 0x80) =
        0xC01000000000 ∧
      groupA48 (groupSum [.fin false 3 2] 16) (some 0x7F) (some 0x7E) = 0x3FD000000000 ∧
      accumulate 0 [0xC01000000000, 0x3FD000000000] = 0xC00400000000 := by decide +kernel
/-- 03, discard toward −∞ in a BF16 group. -/
theorem test_discard :
    groupA48 (groupSum [.fin false (2 ^ 40) 1, .fin false 4 1, .fin false 1 (2 ^ 20)] 64) none none = 0x44E000000000 ∧
      groupA48 (groupSum [.fin true (2 ^ 40) 1, .fin true 4 1, .fin true 1 (2 ^ 20)] 64) none none = 0xC4E000000001 := by
  decide +kernel
/-- 03, the member tree. -/
theorem test_member_tree :
    memberTree addA48 [toA48 (.fin false (2 ^ 40) 1), toA48 (.fin false 4 1), toA48 (.fin false 4 1)] = 0x44E000000000 := by
  decide +kernel
/-- 08, a spike and its recovery: three closes raise the scale to 32, the spike lowers it to 4. -/
def spike (use slots : Nat) (hist : List Nat) (scale sat : Nat) : List Byte :=
  setFld (setFld (setFld (setFld (setFld (setFld (List.replicate 256 0) 0x80 8 0x424F) 0x88 4 scale) 0x94 2 (slots + slots * 256))
    0x98 8 sat) 0xA0 6 use) 0xC0 (4 * hist.length) (leNat (hist.flatMap (leBytes 4)))
theorem test_spike :
    fld (closeEntry (spike (toA48 (.fin false 2 1)) 2 [0x40400000, 0x40B00000] 0x3F800000 0)).1 0x88 4 = 0x42000000 ∧
      fld (closeEntry (spike (toA48 (.fin false 40 1)) 3 [0x40400000, 0x40B00000, 0x40000000] 0x42000000 37)).1 0x88 4 =
        0x40800000 ∧
      (closeEntry (spike (toA48 (.fin false 40 1)) 3 [0x40400000, 0x40B00000, 0x40000000] 0x42000000 37)).2 = true := by
  decide +kernel
/-- 09 R250: a linear warm-up curve at t = 1,000. -/
theorem test_curve :
    (convertTo .fp32 .rne false (curveAt 0 1000 [(0, fp32Val 0), (4096, fp32Val 0x3A000000)])).code = 0x38FA0000 := by
  decide +kernel
/-- 09 R256: C1 of β1 = 0.875 at t = 2. -/
theorem test_bias : (convertTo .fp32 .rne false (biasVal (.fin false 7 8) 2)).code = 0x40888889 := by decide +kernel
/-- 10 R292, one lossless row. -/
theorem test_lossless :
    losslessRow .bf16 [0, 0, 0, 0x3FC0, 0x3FE0, 0, 0xC040, 0] =
      ([0x84, 0xF8, 0x07, 0x18, 0x80, 0x01, 0x23, 0x10, 0x00] : List Byte) := by decide +kernel
/-- 11, from engine address to home. -/
theorem test_walk :
    okAnd (walk readyHub
        (withMem 0x200010 (leBytes 8 0x300001) (withMem 0x300000 (leBytes 8 0x001234400007) ready)).work 0x200000 0x000080167A00)
      (fun l => l.phys + 0x000080167A00 % l.size == 0x001234567A00 && l.writable && !l.sp) = true ∧
    homeOf 0x001234567A00 = 15 := by decide +kernel

end Sys2Proof.Tests
end

/-! ### Array results enter the tile (04 R100) -/

namespace Sys2Proof.Machine

/-! #### What the feeders hold: one entry for each token -/

theorem length_readRows {h : Hub} {w : Work} {e : Nat} {f : Fmt} {a stride cols n : Nat} {rows : List (List Nat)}
    (hr : readRows h w e f a stride cols n = .ok rows) : rows.length = n := by
  induction n generalizing a rows with
  | zero =>
    cases hr
    rfl
  | succ n ih =>
    rw [readRows] at hr
    split at hr
    · cases hr
    · split at hr
      · cases hr
      · next rest hrest =>
        cases hr
        rw [List.length_cons, ih hrest]

theorem length_pairUp (xs ys : List (List Nat)) : (pairUp xs ys).length = xs.length := by
  induction xs, ys using pairUp.induct with
  | case1 x xs y ys ih | case2 x xs ih => simpa [pairUp] using ih
  | case3 ys => simp [pairUp]

theorem length_readTokens {h : Hub} {w : Work} {e : Nat} {p : ArrayP} {s : WeightSet} {t n : Nat}
    {toks : List (List Nat × List Nat)} (hr : readTokens h w e p s t n = .ok toks) : toks.length = n := by
  rw [readTokens] at hr
  split at hr
  · cases hr
  · next acts hacts =>
    split at hr
    · cases hr
    · cases hr
      rw [length_pairUp, length_readRows hacts]

/-- Feeders that fill up to token `upto` hold every token of the operation below it. -/
theorem length_fillFeeders {h : Hub} {w : Work} {e : Nat} {p : ArrayP} {s : WeightSet} {t upto : Nat}
    {acts more : List (List Nat × List Nat)} (hf : fillFeeders h w e p s t acts upto = .ok more)
    (ht : t + acts.length ≤ min upto p.m) : t + more.length = min upto p.m := by
  rw [fillFeeders] at hf
  split at hf
  · cases hf
  · next rest hrest =>
    cases hf
    rw [List.length_append, length_readTokens hrest]
    omega

/-! #### What an element of the tile reads -/

@[simp] theorem tileGet_releaseTile (t : Tile) (m j : Nat) : tileGet (releaseTile t) m j = tileGet t m j := by
  unfold releaseTile
  split <;> rfl

/-- The results of tokens `m` on enter the rows from `m` on, one row for each token, and nothing else. -/
theorem tileGet_addTokens (af : Fmt) (s : WeightSet) (toks : List (List Nat × List Nat)) (m : Nat) (t : Tile) (m' j' : Nat)
    (hs : s.nCols ≤ 512) (hj' : j' < 512) :
    tileGet (addTokens af s m toks t) m' j' =
      if m ≤ m' ∧ m' < m + toks.length ∧ j' < s.nCols then
        accumulate (tileGet t m' j') ((tokenGroups af s (toks.getD (m' - m) ([], [])) j').map (fun x => x.2)) % 2 ^ 48
      else tileGet t m' j' := by
  induction toks generalizing m t with
  | nil =>
    rw [if_neg (by simp only [List.length_nil]; omega)]
    rfl
  | cons tok toks ih =>
    rw [addTokens, ih, tileGet_addToken _ _ _ _ _ _ _ hs hj', List.length_cons]
    rcases Nat.lt_trichotomy m' m with hlt | rfl | hgt
    · rw [if_neg (by omega), if_neg (by omega), if_neg (by omega)]
    · simp
    · have hother : ¬ (m' = m ∧ j' < s.nCols) := by omega
      have hnext : m' - m = m' - (m + 1) + 1 := by omega
      rw [if_neg hother, hnext, List.getD_cons_succ]
      exact if_congr (by omega) rfl rfl

/-! #### What an update of an engine keeps -/

/-- An update that leaves an engine's tiles as they are leaves those of every engine. -/
theorem Work.tiles_setEngine (w : Work) (e : Nat) (f : Engine → Engine) (x : Nat) (hf : ∀ en, (f en).tiles = en.tiles) :
    ((w.setEngine e f).engine x).tiles = (w.engine x).tiles := by
  rw [Work.engine_setEngine]
  split
  · exact hf _
  · rfl

theorem Engine.op_setOp (en : Engine) (id : Nat) (f : Op → Op) (o : Op) (ho : en.op id = some o)
    (hf : ∀ x, (f x).id = x.id) : (en.setOp id f).op id = some (f o) := by
  have hfix : ∀ x : Op, (if x.id == id then f x else x).id = x.id := fun x => by
    split
    · exact hf x
    · rfl
  have hid : (o.id == id) = true := List.find?_some (p := fun x : Op => x.id == id) ho
  rw [Engine.op] at ho
  simp only [Engine.op, Engine.setOp_ops, List.find?_map, Function.comp_def, hfix, ho, Option.map_some, hid, if_true]

/-- The NaN trap writes the trap alone. -/
theorem trapNans_keeps (w : Work) (e : Nat) (o : Op) (source tid : Nat) (ev : List NanEvent) (x : Nat) :
    ((trapNans w e o source tid ev).engine x).tiles = (w.engine x).tiles ∧
      (trapNans w e o source tid ev).engines.length = w.engines.length := by
  unfold trapNans
  split
  · exact ⟨rfl, rfl⟩
  · split
    · exact ⟨rfl, rfl⟩
    · exact ⟨Work.tiles_setEngine _ _ _ _ fun _ => rfl, Work.length_setEngine _ _ _⟩

/-- An operation that leaves the array counts its steps and toggles: no tile changes. -/
theorem leaveArray_keeps (w : Work) (e : Nat) (o : Op) (planes x : Nat) :
    ((leaveArray w e o planes).engine x).tiles = (w.engine x).tiles ∧
      (leaveArray w e o planes).engines.length = w.engines.length := by
  unfold leaveArray
  split
  · unfold enterPlanes
    refine ⟨?_, by simp only [Work.length_setEngine]⟩
    rw [Work.tiles_setEngine _ _ _ _ (by intro; rfl), Work.tiles_setEngine _ _ _ _ (by intro; rfl)]
  · exact ⟨rfl, rfl⟩

/-! #### The operation ends -/

theorem trapHalts_eq_false_iff (o : Op) (ev : List NanEvent) :
    trapHalts o ev = false ↔ (o.trapEnable = false ∨ o.trapRecord = true ∨ ev = []) := by
  simp only [trapHalts, Bool.and_eq_false_iff, Bool.not_eq_false', List.isEmpty_iff, or_assoc]

/-- The work before the operation leaves its queue: its NaNs have met the trap, its planes are counted, and its results are
in the tile, which it has given up. `endArray_eq` ties it to the model. -/
def resultsEntered (w : Work) (e : Nat) (o : Op) (p : ArrayP) (s : WeightSet) (toks : List (List Nat × List Nat))
    (t : Nat) : Work :=
  (leaveArray (trapNans w e o 1 0 (tokenEvents p s t t toks)) e o (planesFrom p s t)).setEngine e (fun en =>
    en.setTile p.tile (fun x => releaseTile (addTokens p.aFmt s t toks x)))

theorem endArray_eq (h : Hub) (w : Work) (e : Nat) (o : Op) (p : ArrayP) (s : WeightSet)
    (toks : List (List Nat × List Nat)) (t : Nat) (hn : trapHalts o (tokenEvents p s t t toks) = false) :
    endArray h w e o p s toks t = completeOp h (resultsEntered w e o p s toks t) e o := by
  rw [endArray, hn]
  rfl

theorem tile_resultsEntered (w : Work) (e : Nat) (o : Op) (p : ArrayP) (s : WeightSet) (toks : List (List Nat × List Nat))
    (t : Nat) (he : e < w.engines.length) (ht : p.tile < (w.engine e).tiles.length) :
    ((resultsEntered w e o p s toks t).engine e).tile p.tile =
      releaseTile (addTokens p.aFmt s t toks ((w.engine e).tile p.tile)) := by
  unfold resultsEntered
  obtain ⟨htrap, htrapLen⟩ := trapNans_keeps w e o 1 0 (tokenEvents p s t t toks) e
  obtain ⟨hleave, hleaveLen⟩ :=
    leaveArray_keeps (trapNans w e o 1 0 (tokenEvents p s t t toks)) e o (planesFrom p s t) e
  rw [Work.engine_setEngine_self _ _ _ (by omega), Engine.tile_setTile, hleave, htrap, if_pos ⟨rfl, ht⟩]
  simp only [Engine.tile, hleave, htrap]

/-- An operation with the tokens that its feeders hold (`finishArray_eq`). -/
def withTokens (p : ArrayP) (claim : Option Nat) (s : WeightSet) (toks : List (List Nat × List Nat)) (t : Nat)
    (o : Op) : Op := { o with kind := .array p claim (some s) toks t }

/-- A started operation of an engine that runs reads the rest of its tokens and ends with all of them. -/
theorem finishArray_eq (h : Hub) (w : Work) (e : Nat) (o : Op) (p : ArrayP) (claim : Option Nat) (s : WeightSet)
    (acts more : List (List Nat × List Nat)) (t : Nat) (hwork : working h w e = true)
    (hfind : (w.engine e).ops.find? isArray = some o) (hop : (w.engine e).op o.id = some o) (he : e < w.engines.length)
    (hkind : o.kind = .array p claim (some s) acts t) (hphase : o.phase = .started) (hsave : (w.engine e).saving = none)
    (hrun : (w.engine e).stopped = false) (hfill : fillFeeders h w e p s t acts 256 = .ok more) :
    finishArray h w e =
      endArray h (w.setEngine e (fun en => en.setOp o.id (withTokens p claim s more t))) e
        (withTokens p claim s more t o) p s more t := by
  have hfeed : feedOp h w e o 256 =
      (w.setEngine e (fun en => en.setOp o.id (withTokens p claim s more t)), true) := by
    simp only [feedOp, hkind, hfill]
    rfl
  have hop' := Engine.op_setOp _ _ (withTokens p claim s more t) _ hop fun _ => rfl
  simp [finishArray, hfind, hwork, hphase, hsave, hrun, hfeed, he, hop', withTokens]

/-- Settles O13: the operation ends with every token from t to M (`length_fillFeeders`), and each enters its own row
(`tileGet_addTokens`). -/
theorem resultsEnterTheTile : Obligations.ResultsEnterTheTile := by
  intro s e o p claim set acts more t hwork hfind hop he hkind hphase hsave hrun hfill hlen hm hcols htile htrap
  have hmore : t + more.length = p.m := by
    have := length_fillFeeders hfill (by omega)
    omega
  refine ⟨resultsEntered (s.work.setEngine e (fun en => en.setOp o.id (withTokens p claim set more t))) e
      (withTokens p claim set more t o) p set more t, withTokens p claim set more t o, ?_, rfl, fun m j hj => ?_⟩
  · have hend := finishArray_eq s.hub s.work e o p claim set acts more t hwork hfind hop he hkind hphase hsave hrun hfill
    have hgo : trapHalts (withTokens p claim set more t o) (tokenEvents p set t t more) = false :=
      (trapHalts_eq_false_iff _ _).mpr htrap
    rw [← endArray_eq _ _ _ _ _ _ _ _ hgo, ← hend]
    rfl
  · rw [tile_resultsEntered _ _ _ _ _ _ _ (by simpa using he) (by simpa [he] using htile), tileGet_releaseTile,
      tileGet_addTokens _ _ _ _ _ _ _ hcols hj, hmore, Work.engine_setEngine_self _ _ _ he]
    rfl

end Sys2Proof.Machine

/-! ### Staging is refused out of turn (14 R461) -/

namespace Sys2Proof.Machine

/-- A mailbox command that is served and whose run ends it with a code and a result completes with them. -/
theorem serveCommand_completes {c : Instr} {k op owner : Nat} {priv : Bool} {fields : List (Nat × Nat)}
    {run : Hub → Work → Nat → List Byte → MbResult} {s : State} {d : Desc} {h : Hub} {w : Work} {code : Code}
    {result : List Byte} (hrow : mailboxRow c = some (k, op, owner, priv, fields)) (hserves : Serves s c d)
    (hrun : run s.hub s.work k d.payload = ⟨h, w, some (code, result)⟩) :
    serveCommand op owner priv fields run k s = .next (completed s h w k code result) := by
  simp only [Serves, hrow] at hserves
  obtain ⟨hheld, hfail, hruns, hpriv, hargs⟩ := hserves
  rw [serveCommand, serveCommandThen_runs _ _ _ _ _ _ _ _ d hheld hfail hruns hpriv hargs, hrun]
  simp only [completed, ite_self]

/-- FW_STAGE_BEGIN with its argument in order is refused while a deferral or a trial is in force. -/
theorem runStageBegin_deferred_or_trial {h : Hub} {w : Work} {k : Nat} {p : List Byte} (hne : fld p 8 8 ≠ 0)
    (halign : fld p 8 8 % 4096 = 0) (hmax : fld p 8 8 ≤ maxBundle)
    (hforce : h.fw.update.deferred = true ∨ h.fw.update.trial = true) :
    runStageBegin h w k p = mbRefuse h w 0x0606 := by
  have hargs : ¬ (fld p 8 8 = 0 ∨ fld p 8 8 % 4096 ≠ 0 ∨ maxBundle < fld p 8 8) := by omega
  rw [runStageBegin, if_neg hargs, if_pos hforce]

/-- FW_STAGE_WRITE with its arguments in order is refused when it does not continue the staging. -/
theorem runStageWrite_out_of_turn {h : Hub} {w : Work} {k : Nat} {p : List Byte} (hsrc : fld p 8 8 % 4096 = 0)
    (hlen : fld p 0x14 4 % 4096 = 0) (hmax : fld p 0x14 4 ≤ 0x1000000)
    (hin : fld p 0x14 4 ≠ 0 → inLpddr h (fld p 8 8) (fld p 0x14 4) = true)
    (hturn : h.fw.update.stage ≠ 2 ∨ fld p 0x10 4 ≠ h.fw.update.stagedKib * 1024 ∨
      h.fw.update.bundleBytes < fld p 0x10 4 + fld p 0x14 4) :
    runStageWrite h w k p = mbRefuse h w 0x0607 := by
  have hplaced : ¬ (fld p 0x14 4 ≠ 0 ∧ (!inLpddr h (fld p 8 8) (fld p 0x14 4)) = true) :=
    fun ⟨hne, hout⟩ => by simp [hin hne] at hout
  have hargs : ¬ (fld p 8 8 % 4096 ≠ 0 ∨ fld p 0x14 4 % 4096 ≠ 0 ∨ 0x1000000 < fld p 0x14 4 ∨
      (fld p 0x14 4 ≠ 0 ∧ (!inLpddr h (fld p 8 8) (fld p 0x14 4)) = true)) := by
    simp only [not_or, not_not, not_lt]
    exact ⟨hsrc, hlen, hmax, hplaced⟩
  rw [runStageWrite, if_neg hargs, if_pos hturn]

/-- Settles O44: the command reaches its own check (`serveCommand_completes`), which refuses it. -/
theorem stagingIsRefusedOutOfTurn : Obligations.StagingIsRefusedOutOfTurn := by
  intro s k d
  refine ⟨fun hserves hne halign hmax hforce => ?_, fun hserves hsrc hlen hmax hin hturn => ?_⟩
  · exact serveCommand_completes (c := .fwStageBegin k) rfl hserves
      (runStageBegin_deferred_or_trial hne halign hmax hforce)
  · exact serveCommand_completes (c := .fwStageWrite k) rfl hserves
      (runStageWrite_out_of_turn hsrc hlen hmax hin hturn)

end Sys2Proof.Machine

/-! ### Log records merge with waiting ones (17 R520) -/

namespace Sys2Proof.Machine

/-! #### What stamping and placing do to the queue -/

@[simp] theorem addDrop_queue (l : Logs) (cls : Nat) (count : Word) : (addDrop l cls count).queue = l.queue := rfl

@[simp] theorem noteCausal_queue (l : Logs) (domain : Nat) (k : BitVec 32) : (noteCausal l domain k).queue = l.queue := by
  unfold noteCausal
  split <;> rfl

@[simp] theorem stamp_queue (h : Hub) (w : Work) (flags : Nat) (r : LogSource) :
    (stamp h w flags r).1.logs.queue = w.logs.queue :=
  noteCausal_queue _ _ _

@[simp] theorem stamp_cls (h : Hub) (w : Work) (flags : Nat) (r : LogSource) : (stamp h w flags r).2.cls = r.cls := rfl

/-- A record of a class without reserved entries takes a shared entry of its own, or is dropped (17 R519). -/
theorem place_queue_of_unreserved (l : Logs) (r : LogRec) (hcls : ¬ (1 ≤ r.cls ∧ r.cls ≤ 10)) :
    (place l r).queue = l.queue ∨ (place l r).queue = l.queue ++ [⟨r, true⟩] := by
  have hreserved : ¬ (1 ≤ r.cls ∧ r.cls ≤ 10 ∧ reservedUsed l r.cls < 32) := fun ⟨hlow, hhigh, _⟩ => hcls ⟨hlow, hhigh⟩
  by_cases hshared : sharedUsed l < 704
  · exact .inr (by rw [place, if_pos hshared])
  · exact .inl (by rw [place, if_neg hshared, if_neg hreserved, addDrop_queue])

/-! #### What the funnel does with a record -/

theorem coalesces_iff (q : LogRec) (r : LogSource) (step : Word) :
    coalesces q r step = true ↔ q.cls = r.cls ∧ q.code = r.code ∧ q.unit = r.unit ∧ q.step = step := by
  simp only [coalesces, Bool.and_eq_true, beq_iff_eq, and_assoc]

/-- The first waiting record that matches, and no other, has its REPEAT raised. -/
theorem mergeFirst_append_cons {r : LogSource} {step : Word} {pre : List QueueEntry} {q : QueueEntry}
    (post : List QueueEntry) (hq : coalesces q.record r step = true)
    (hpre : ∀ x ∈ pre, coalesces x.record r step = false) :
    mergeFirst r step (pre ++ q :: post) =
      pre ++ { q with record := { q.record with rep := min (q.record.rep + 1) 65535 } } :: post := by
  induction pre with
  | nil => rw [List.nil_append, mergeFirst, if_pos hq, List.nil_append]
  | cons p pre ih =>
    obtain ⟨hp, hrest⟩ := List.forall_mem_cons.mp hpre
    rw [List.cons_append, mergeFirst, hp, if_neg Bool.false_ne_true, ih hrest, List.cons_append]

theorem emit_of_waiting {h : Hub} {w : Work} {r : LogSource} (hlow : 1 ≤ r.cls) (hhigh : r.cls ≤ 10)
    (hwaits : w.logs.queue.any (fun q => coalesces q.record r w.upd.accepted) = true) :
    emit h w r = w.setLogs (fun l => { l with queue := mergeFirst r w.upd.accepted l.queue }) :=
  if_pos ⟨hlow, hhigh, hwaits⟩

theorem emit_of_not_waiting {h : Hub} {w : Work} {r : LogSource}
    (hnone : ¬ (1 ≤ r.cls ∧ r.cls ≤ 10 ∧ w.logs.queue.any (fun q => coalesces q.record r w.upd.accepted) = true)) :
    emit h w r = (stamp h w 0 r).1.setLogs (fun l => place l (stamp h w 0 r).2) :=
  if_neg hnone

/-- The funnel of a module with power takes every record of classes 1 to 11 (17 R509, R510). -/
theorem exec_logRecord {s : State} {r : LogSource} (hpow : s.hub.ident.powered = true) (hlow : 1 ≤ r.cls)
    (hhigh : r.cls ≤ 11) : exec (.logRecord r) s = .next { s with work := emit s.hub s.work r } := by
  have hworks : (funnelWorks s.hub && decide (1 ≤ r.cls) && decide (r.cls ≤ 11)) = true := by
    simp [funnelWorks, hpow, hlow, hhigh]
  simp only [exec, execLogRecord, onWork, if_pos hworks]

theorem exec_alarm {s : State} (r : LogSource) (dests : List Nat) (hpow : s.hub.ident.powered = true) :
    exec (.alarm r dests) s =
      .next { s with work := raiseAlarm s.hub s.work r.code r.domain r.unit r.detail dests } := by
  have hworks : funnelWorks s.hub = true := hpow
  simp only [exec, execAlarm, onWork, if_pos hworks]

/-! #### The obligation, clause by clause -/

/-- A record that equals a waiting one changes that record's REPEAT and nothing else. -/
theorem exec_logRecord_of_waiting {s : State} {r : LogSource} {pre post : List QueueEntry} {q : QueueEntry}
    (hpow : s.hub.ident.powered = true) (hlow : 1 ≤ r.cls) (hhigh : r.cls ≤ 10)
    (hqueue : s.work.logs.queue = pre ++ q :: post) (hq : coalesces q.record r s.work.upd.accepted = true)
    (hpre : ∀ x ∈ pre, coalesces x.record r s.work.upd.accepted = false) :
    exec (.logRecord r) s =
      .next { s with
        work := { s.work with
          logs := { s.work.logs with
            queue := pre ++ { q with record := { q.record with rep := min (q.record.rep + 1) 65535 } } :: post } } } := by
  have hwaits : s.work.logs.queue.any (fun q => coalesces q.record r s.work.upd.accepted) = true :=
    List.any_eq_true.mpr ⟨q, by simp [hqueue], hq⟩
  rw [exec_logRecord hpow hlow (by omega), emit_of_waiting hlow hhigh hwaits, Work.setLogs, hqueue,
    mergeFirst_append_cons post hq hpre]

/-- A trace record takes an entry of its own or is dropped, whatever waits. -/
theorem exec_logRecord_of_trace {s : State} {r : LogSource} (hpow : s.hub.ident.powered = true) (htrace : r.cls = 11) :
    ∃ t : State, exec (.logRecord r) s = .next t ∧
      (t.work.logs.queue = s.work.logs.queue ∨
        ∃ q : QueueEntry, q.record.cls = 11 ∧ t.work.logs.queue = s.work.logs.queue ++ [q]) := by
  refine ⟨_, exec_logRecord hpow (by omega) (by omega), ?_⟩
  have hplace := place_queue_of_unreserved (stamp s.hub s.work 0 r).1.logs (stamp s.hub s.work 0 r).2
    (by rw [stamp_cls]; omega)
  rw [stamp_queue] at hplace
  rw [emit_of_not_waiting (by omega), Work.setLogs_logs]
  exact hplace.imp_right fun happend => ⟨_, (stamp_cls _ _ _ _).trans htrace, happend⟩

/-- An alarm as stamped takes an entry of its own or is dropped, whatever waits. -/
theorem place_queue_of_alarm {h : Hub} {w w1 : Work} {r : LogSource} {x : LogRec} (halarm : r.cls = 0)
    (hstamp : stamp h w 0 r = (w1, x)) :
    (place w1.logs x).queue = w.logs.queue ∨ (place w1.logs x).queue = w.logs.queue ++ [⟨x, true⟩] := by
  have hcls : x.cls = r.cls := by rw [← stamp_cls h w 0 r, hstamp]
  have hqueue : w1.logs.queue = w.logs.queue := by rw [← stamp_queue h w 0 r, hstamp]
  rw [← hqueue]
  exact place_queue_of_unreserved _ _ (by omega)

/-- Settles O56: a record of classes 1 to 10 goes to the first waiting record that it equals (`mergeFirst_append_cons`); a
trace record and an alarm have no reserved entries and are only placed (`place_queue_of_unreserved`). -/
theorem recordsMergeWithWaitingOnes : Obligations.RecordsMergeWithWaitingOnes := by
  intro s r hpow
  refine ⟨fun pre post q hlow hhigh hqueue hq hpre => exec_logRecord_of_waiting hpow hlow hhigh hqueue hq hpre,
    fun q => coalesces_iff q r _, exec_logRecord_of_trace hpow, fun dests w1 x hstamp => ⟨?_, ?_⟩⟩
  · rw [exec_alarm r dests hpow, raiseAlarm, hstamp]
  · exact place_queue_of_alarm rfl hstamp

end Sys2Proof.Machine

/-! ### A wake frame acts as WAKE (19 R546) -/

namespace Sys2Proof.Machine

/-! #### What leaving Module standby does -/

theorem powered_of_i2cAnswers {h : Hub} (hans : i2cAnswers h = true) : h.ident.powered = true :=
  (Bool.and_eq_true_iff.mp hans).1

/-- The answer to WAKE plays no part in leaving Module standby: it may be written before or after. -/
theorem leaveStandby_i2cStatusReply (h : Hub) (w : Work) (c : Code) :
    leaveStandby h (i2cStatusReply w c) = ((leaveStandby h w).1, i2cStatusReply (leaveStandby h w).2 c) := by
  unfold leaveStandby
  split <;> rfl

theorem leaveStandby_powerState {h : Hub} (w : Work) (hpow : h.ident.powered = true)
    (hstandby : h.ident.powerState = 2) : (leaveStandby h w).1.ident.powerState = 0 := by
  rw [leaveStandby, if_pos ⟨hpow, hstandby⟩, setPower]

theorem leaveStandby_of_awake {h : Hub} (w : Work) (hawake : h.ident.powerState ≠ 2) : leaveStandby h w = (h, w) :=
  if_neg fun hstandby => hawake hstandby.2

/-! #### The two commands -/

/-- WAKE leaves Module standby and answers 0. -/
theorem exec_wake {s : State} (hans : i2cAnswers s.hub = true) :
    exec .wake s = onState s ((leaveStandby s.hub s.work).1, i2cStatusReply (leaveStandby s.hub s.work).2 0) := by
  rw [← leaveStandby_i2cStatusReply]
  exact if_pos hans

/-- A wake frame to this module leaves Module standby, and nothing answers. -/
theorem exec_wakeFrame_of_recognised {s : State} {payload : List Byte} (hans : i2cAnswers s.hub = true)
    (hserial : payload.take 8 = leBytes 8 s.hub.ident.serial.toNat) :
    exec (.wakeFrame true 0x88B5 payload) s = onState s (leaveStandby s.hub s.work) :=
  if_pos ⟨hans, rfl, rfl, hserial⟩

/-- A frame to another address, of another EtherType or with another payload is discarded in every state. -/
theorem exec_wakeFrame_of_foreign {s : State} {toOurMac : Bool} {etherType : Nat} {payload : List Byte}
    (hforeign : ¬ (toOurMac = true ∧ etherType = 0x88B5 ∧ payload.take 8 = leBytes 8 s.hub.ident.serial.toNat)) :
    exec (.wakeFrame toOurMac etherType payload) s = .next s :=
  if_neg fun hrecognised => hforeign hrecognised.2

/-- Outside Module standby even a wake frame to this module changes nothing. -/
theorem exec_wakeFrame_of_awake {s : State} (toOurMac : Bool) (etherType : Nat) (payload : List Byte)
    (hawake : s.hub.ident.powerState ≠ 2) : exec (.wakeFrame toOurMac etherType payload) s = .next s := by
  change execWakeFrame toOurMac etherType payload s = .next s
  rw [execWakeFrame, leaveStandby_of_awake s.work hawake, onState, ite_self]

/-- Settles O53: a recognised frame and WAKE leave Module standby alike and differ in the answer alone
(`leaveStandby_i2cStatusReply`); outside Module standby there is nothing to leave. -/
theorem wakeFrameActsAsWake : Obligations.WakeFrameActsAsWake := by
  intro s toOurMac etherType payload hans
  constructor
  · rintro hstandby rfl rfl hserial
    exact ⟨_, _, exec_wakeFrame_of_recognised hans hserial, exec_wake hans, rfl,
      leaveStandby_powerState s.work (powered_of_i2cAnswers hans) hstandby, rfl, rfl⟩
  · rintro (hawake | hmac | htype | hserial)
    · exact exec_wakeFrame_of_awake toOurMac etherType payload hawake
    · exact exec_wakeFrame_of_foreign fun ⟨h, _, _⟩ => Bool.eq_false_iff.mp hmac h
    · exact exec_wakeFrame_of_foreign fun ⟨_, h, _⟩ => htype h
    · exact exec_wakeFrame_of_foreign fun ⟨_, _, h⟩ => hserial h

end Sys2Proof.Machine

/-! ### What every command keeps: the queue, the other half, the safety partition (O3, O4, O59, O60) -/

namespace Sys2Proof.Machine

/-- A command of engines, update, coherence, copier, collectives or fabric changes the working half alone. -/
theorem exec_of_workCommand {c : Instr} (hc : workCommand c = true) (s : State) :
    ∃ w : Work, exec c s = .next { s with work := w } := by
  cases c with
  | groupControl group epoch changeSeq addr members index =>
    by_cases hruns : fwRuns s.hub 2 ∧ group < 4096
    · exact ⟨_, if_pos hruns⟩
    · exact ⟨s.work, if_neg hruns⟩
  | _ =>
    revert hc
    rintro ⟨⟩ <;> exact ⟨_, rfl⟩

/-- Settles O4: a command named by `workCommand` gives the state back with another working half. -/
theorem workCommandsKeepHub : Obligations.WorkCommandsKeepHub := by
  intro c s t hc ht
  obtain ⟨w, hw⟩ := exec_of_workCommand hc s
  cases hw.symm.trans ht
  rfl

/-! #### What a hub may do to the safety partition -/

/-- From `a` to `b` the safety partition stays legal, and while no cold boot waits, none comes to wait and the limits stay. -/
structure SafetyStep (a b : Hub) : Prop where
  legal : a.safety.legal = true → b.safety.legal = true
  booted : a.sec.coldWaits = false → b.sec.coldWaits = false ∧ b.safety.limits = a.safety.limits

namespace SafetyStep

theorem of_eq {a b : Hub} (hlegal : b.safety.legal = a.safety.legal) (hlimits : b.safety.limits = a.safety.limits)
    (hwaits : b.sec.coldWaits = a.sec.coldWaits) : SafetyStep a b :=
  ⟨fun h => hlegal.trans h, fun h => ⟨hwaits.trans h, hlimits⟩⟩

theorem refl (a : Hub) : SafetyStep a a := of_eq rfl rfl rfl

/-- What touches neither the safety partition nor the cold boot that waits. -/
theorem of_same {a b : Hub} (hsafety : b.safety = a.safety) (hwaits : b.sec.coldWaits = a.sec.coldWaits) :
    SafetyStep a b := of_eq (congrArg _ hsafety) (congrArg _ hsafety) hwaits

theorem trans {a b c : Hub} (hab : SafetyStep a b) (hbc : SafetyStep b c) : SafetyStep a c where
  legal h := hbc.legal (hab.legal h)
  booted h := by
    obtain ⟨hwaits, hlimits⟩ := hab.booted h
    obtain ⟨hwaits', hlimits'⟩ := hbc.booted hwaits
    exact ⟨hwaits', hlimits'.trans hlimits⟩

/-- The same after an update that touches neither. -/
theorem after {a b c : Hub} (hbc : SafetyStep b c) (hsafety : b.safety = a.safety)
    (hwaits : b.sec.coldWaits = a.sec.coldWaits) : SafetyStep a c := (of_same hsafety hwaits).trans hbc

theorem afterEq {a b c : Hub} (hbc : SafetyStep b c) (hlegal : b.safety.legal = a.safety.legal)
    (hlimits : b.safety.limits = a.safety.limits) (hwaits : b.sec.coldWaits = a.sec.coldWaits) : SafetyStep a c :=
  (of_eq hlegal hlimits hwaits).trans hbc

/-- A chain of steps, each of which keeps the safety partition, keeps it. -/
theorem foldl {β : Type} {f : Hub × Work → β → Hub × Work} (hf : ∀ x n, SafetyStep x.1 (f x n).1) (l : List β)
    (x : Hub × Work) : SafetyStep x.1 (l.foldl f x).1 := by
  induction l generalizing x with
  | nil => exact refl _
  | cons n l ih => exact (hf x n).trans (ih _)

theorem ite {a : Hub} {x y : Hub × Work} {p : Prop} [Decidable p] (hx : p → SafetyStep a x.1) (hy : ¬ p → SafetyStep a y.1) :
    SafetyStep a (if p then x else y).1 := by
  split
  · exact hx ‹_›
  · exact hy ‹_›

end SafetyStep

/-! #### Mailboxes and firmware processors -/

theorem safetyStep_unsealedSlot (h : Hub) (w : Work) (k : Nat) : SafetyStep h (unsealedSlot h w k).1 :=
  .ite (fun _ => .of_same rfl rfl) fun _ => .ite (fun _ => .of_same rfl rfl) fun _ => .of_same rfl rfl

theorem safetyStep_readMailboxFuel (k n : Nat) (h : Hub) (w : Work) : SafetyStep h (readMailboxFuel k n h w).1 := by
  induction n generalizing h w with
  | zero => exact .refl _
  | succ n ih =>
    refine .ite (fun _ => .refl _) fun _ => .ite (fun _ => .of_same rfl rfl) fun _ => ?_
    dsimp only
    split
    · exact .of_same rfl rfl
    · exact (ih _ _).after rfl rfl
    · exact (safetyStep_unsealedSlot _ _ _).after rfl rfl

theorem safetyStep_completeCommand (h : Hub) (w : Work) (k : Nat) (code : Code) (result : List Byte) :
    SafetyStep h (completeCommand h w k code result).1 := by
  unfold completeCommand
  split
  · exact .refl _
  · exact (safetyStep_readMailboxFuel _ _ _ _).after rfl rfl

theorem safetyStep_storeMbDoorbell (h : Hub) (w : Work) (k : Nat) (v : Word) :
    SafetyStep h (storeMbDoorbell h w k v).1 :=
  .ite (fun _ => .refl _) fun _ =>
    .ite (fun _ => .of_same rfl rfl) fun _ => (safetyStep_readMailboxFuel _ _ _ _).after rfl rfl

theorem safetyStep_rereadMailbox (h : Hub) (w : Work) (k : Nat) : SafetyStep h (rereadMailbox h w k).1 :=
  .ite (fun _ => safetyStep_readMailboxFuel _ _ _ _) fun _ => .refl _

theorem safetyStep_abortCommands (h : Hub) (w : Work) (n : Nat) : SafetyStep h (abortCommands h w n).1 := by
  refine SafetyStep.foldl (fun x k => ?_) _ (h, w)
  split
  · exact .ite (fun _ => safetyStep_completeCommand _ _ _ _ _) fun _ => .refl _
  · exact .refl _

theorem safetyStep_endStaging (h : Hub) (n : Nat) : SafetyStep h (endStaging h n) := by
  unfold endStaging
  split
  · exact .of_same rfl rfl
  · exact .refl _

theorem safetyStep_restartWith (st : Nat) (x : Hub × Work) (n : Nat) : SafetyStep x.1 (restartWith st x n).1 := by
  unfold restartWith
  split
  · exact .refl _
  · exact SafetyStep.after (safetyStep_endStaging _ n) rfl rfl

theorem safetyStep_restartAll (h : Hub) (w : Work) (st : Nat) : SafetyStep h (restartAll h w st).1 :=
  SafetyStep.foldl (fun x n => safetyStep_restartWith st x n) _ (h, w)

theorem safetyStep_runBank (h : Hub) (bank : Nat) : SafetyStep h (runBank h bank) :=
  .of_same (by rw [runBank]) (by rw [runBank])

theorem safetyStep_revertTrial (h : Hub) (w : Work) : SafetyStep h (revertTrial h w).1 := by
  unfold revertTrial
  refine .trans ?_ (safetyStep_restartAll _ _ _)
  exact (safetyStep_runBank _ _).after rfl rfl

theorem safetyStep_activate (h : Hub) (w : Work) (cmd : Option (Nat × Word × Seq)) : SafetyStep h (activate h w cmd).1 := by
  unfold activate
  dsimp only
  split
  · refine .trans ?_ (safetyStep_restartAll _ _ _)
    exact (safetyStep_runBank _ _).after rfl rfl
  · exact (safetyStep_revertTrial _ _).after rfl rfl

theorem safetyStep_stopProc (h : Hub) (n st reason : Nat) : SafetyStep h (stopProc h n st reason) := .of_same rfl rfl

/-- During a trial the module goes back to the previous bank. -/
theorem SafetyStep.revert {h : Hub} {x : Hub × Work} (hx : SafetyStep h x.1) :
    SafetyStep h (if x.1.fw.update.trial then revertTrial x.1 x.2 else (x.1, x.2)).1 := by
  split
  · exact hx.trans (safetyStep_revertTrial _ _)
  · exact hx

theorem safetyStep_triggerRestart (h : Hub) (w : Work) (n reason : Nat) (sixth : Bool) (dump : Option DumpData) :
    SafetyStep h (triggerRestart h w n reason sixth dump).1 := by
  have hstop := safetyStep_stopProc h n (if sixth then 3 else 2) reason
  unfold triggerRestart
  cases dump with
  | none =>
    dsimp only
    exact .revert ((hstop.trans (safetyStep_endStaging _ n)).trans (safetyStep_abortCommands _ _ n))
  | some d =>
    have hdump : SafetyStep h (writeDump (stopProc h n (if sixth then 3 else 2) reason) w n reason d) :=
      hstop.trans (.of_same rfl rfl)
    dsimp only
    exact .revert ((hdump.trans (safetyStep_endStaging _ n)).trans (safetyStep_abortCommands _ _ n))

theorem safetyStep_reserveLms (h : Hub) : SafetyStep h (reserveLms h).1 := by
  unfold reserveLms
  dsimp only
  split
  · exact .of_same rfl rfl
  · split <;> exact .of_same rfl rfl

theorem safetyStep_resumeMailbox (h : Hub) (w : Work) (k : Nat) : SafetyStep h (resumeMailbox h w k).1 := by
  unfold resumeMailbox
  split
  · exact safetyStep_readMailboxFuel _ _ _ _
  · exact safetyStep_completeCommand _ _ _ _ _

theorem safetyStep_resumeService (h : Hub) (w : Work) (n : Nat) : SafetyStep h (resumeService h w n).1 :=
  .ite (fun _ => SafetyStep.foldl (fun _ _ => safetyStep_resumeMailbox _ _ _) _ (h, w)) fun _ =>
    .ite (fun _ => safetyStep_reserveLms h) fun _ => .ite (fun _ => .of_same rfl rfl) fun _ => .refl _

/-! #### Boots and resets -/

theorem legal_iff (s : Safety) :
    s.legal = true ↔
      s.sustainedW ≤ 2300 ∧ s.peakW ≤ 2800 ∧ s.windowMs ≤ 20 ∧ s.underV ≤ 440 ∧ s.overV ≤ 660 ∧ s.parkC ≤ 110 ∧
        s.releaseC ≤ 100 ∧ s.stopC ≤ 120 ∧ 600 ≤ s.capMv ∧ s.capMv ≤ 750 ∧ 600 ≤ s.requestMv ∧ s.requestMv ≤ 750 := by
  simp only [Safety.legal, Bool.and_eq_true, decide_eq_true_eq, and_assoc]

theorem legal_loadLimits {s : Safety} (c : CfgRecord) (hs : s.legal = true) : (loadLimits s c).legal = true := by
  rw [legal_iff] at hs ⊢
  simp only [loadLimits, clampLimit]
  omega

/-- A boot leaves the safety partition as it is, or loads the limits of a record when it is cold. -/
theorem bootChain_safety (h : Hub) (cold : Bool) :
    (bootChain h cold).sec.coldWaits = h.sec.coldWaits ∧
      ((bootChain h cold).safety = h.safety ∨ cold = true ∧ ∃ c, (bootChain h cold).safety = loadLimits h.safety c) := by
  have hlms : ∀ x : Hub, (reserveLms x).1.sec.coldWaits = x.sec.coldWaits ∧ (reserveLms x).1.safety = x.safety := by
    intro x
    unfold reserveLms
    dsimp only
    split
    · exact ⟨rfl, rfl⟩
    · split <;> exact ⟨rfl, rfl⟩
  unfold bootChain
  split
  · exact ⟨rfl, .inl rfl⟩
  · split
    · exact ⟨rfl, .inl rfl⟩
    · split
      · exact ⟨rfl, .inl rfl⟩
      · unfold bootBank
        dsimp only
        refine ⟨(hlms _).1, ?_⟩
        rw [(hlms _).2]
        cases cold
        · exact .inl rfl
        · exact .inr ⟨rfl, _, rfl⟩

theorem runBoot_hub (h : Hub) (w : Work) (cold : Bool) :
    (runBoot h w cold).1.safety = (bootChain h cold).safety ∧
      (runBoot h w cold).1.sec = (bootChain h cold).sec := by
  unfold runBoot
  dsimp only
  split <;> exact ⟨rfl, rfl⟩

/-- The boot after a reset loads limits only where a cold boot waits, and then none waits. -/
theorem safetyStep_bootAfter (h : Hub) (w : Work) : SafetyStep h (bootAfter h w).1 := by
  refine .ite (fun _ => .refl _) fun _ => ?_
  obtain ⟨hsafe, hsec⟩ := runBoot_hub { h with sec := { h.sec with coldWaits := false } } w h.sec.coldWaits
  obtain ⟨hwaits, hlimits⟩ := bootChain_safety { h with sec := { h.sec with coldWaits := false } } h.sec.coldWaits
  refine ⟨fun hlegal => ?_, fun hbooted => ⟨by rw [hsec, hwaits], ?_⟩⟩
  · rw [hsafe]
    obtain hsame | ⟨-, c, hload⟩ := hlimits
    · rw [hsame]
      exact hlegal
    · rw [hload]
      exact legal_loadLimits c hlegal
  · rw [hsafe]
    obtain hsame | ⟨hcold, -⟩ := hlimits
    · rw [hsame]
    · exact absurd (hbooted.symm.trans hcold) Bool.false_ne_true

theorem safetyStep_warmHub (h : Hub) : SafetyStep h (warmHub h) where
  legal hs := by
    rw [legal_iff] at hs ⊢
    simp only [warmHub]
    omega
  booted hwaits := ⟨hwaits, rfl⟩

theorem safetyStep_warmReset (h : Hub) (w : Work) : SafetyStep h (warmReset h w).1 :=
  .trans (safetyStep_warmHub h) (safetyStep_bootAfter _ _)

theorem safetyStep_complexReset (h : Hub) (w : Work) : SafetyStep h (complexReset h w).1 := .of_same rfl rfl

theorem safetyStep_requestedReset (h : Hub) (w : Work) (kind proc : Nat) :
    SafetyStep h (requestedReset h w kind proc).1 :=
  .ite (fun _ => .refl _) fun _ => .ite (fun _ => safetyStep_warmReset _ _) fun _ =>
    .ite (fun _ => .ite (fun _ => safetyStep_complexReset _ _) fun _ => .refl _) fun _ =>
      .ite (fun _ => safetyStep_triggerRestart _ _ _ _ _ _) fun _ => .refl _

theorem safetyStep_serveResets (rs : List (Nat × Nat)) (x : Hub × Work) : SafetyStep x.1 (serveResets rs x).1 := by
  induction rs generalizing x with
  | nil => exact .refl _
  | cons r rs ih =>
    have hfirst := safetyStep_requestedReset x.1 x.2 r.1 r.2
    exact .ite (fun _ => hfirst.trans (ih _)) fun _ =>
      .ite (fun _ => hfirst) fun _ => hfirst.trans (.of_same rfl rfl)

theorem safetyStep_leaveStandby (h : Hub) (w : Work) : SafetyStep h (leaveStandby h w).1 :=
  .ite (fun _ => .of_same rfl rfl) fun _ => .refl _

/-! #### Trips and orderly stops -/

theorem safetyStep_trip (h : Hub) (w : Work) (code : Code) (source value : Nat) :
    SafetyStep h (trip h w code source value).1 := .of_eq rfl rfl rfl

theorem safetyStep_orderlyStop (h : Hub) (w : Work) (code : Code) (source value : Nat) :
    SafetyStep h (orderlyStop h w code source value).1 := .of_eq rfl rfl rfl

/-- A change of the safety partition alone that leaves limits and what is legal. -/
theorem safetyStep_setSafety {h : Hub} {f : Safety → Safety} (hlegal : h.safety.legal = true → (f h.safety).legal = true)
    (hlimits : (f h.safety).limits = h.safety.limits) : SafetyStep h (h.setSafety f) := ⟨hlegal, fun hw => ⟨hw, hlimits⟩⟩

theorem legal_lowerCap {s : Safety} {mv : Nat} (hmv : mv ≤ 750) (hs : s.legal = true) : (lowerCap s mv).legal = true := by
  rw [legal_iff] at hs ⊢
  simp only [lowerCap]
  omega

theorem capMv_le_of_legal {s : Safety} (hs : s.legal = true) : s.capMv ≤ 750 := by
  rw [legal_iff] at hs
  omega

theorem safetyStep_beginOvercurrent (h : Hub) (w : Work) {f : Safety → Safety} (hlegal : ∀ x, (f x).legal = x.legal)
    (hlimits : ∀ x, (f x).limits = x.limits) : SafetyStep h (beginOvercurrent h w f).1 := by
  unfold beginOvercurrent
  have hlower : SafetyStep h (h.setSafety (fun s => f (lowerCap s (min s.capMv (setpointMv s))))) :=
    safetyStep_setSafety (fun hs => (hlegal _).trans (legal_lowerCap (capMv_le_of_legal hs |> (Nat.min_le_left _ _).trans) hs))
      (hlimits _)
  exact hlower.trans (safetyStep_trip _ _ _ _ _)

/-! #### The fabric -/

theorem safetyStep_finishPortReset (h : Hub) (w : Work) (port : Nat) : SafetyStep h (finishPortReset h w port).1 := by
  refine SafetyStep.foldl (fun x k => ?_) _ (h, w)
  split
  · exact .ite (fun _ => safetyStep_completeCommand _ _ _ _ _) fun _ => .refl _
  · exact .refl _

theorem safetyStep_portDown (h : Hub) (w : Work) (port : Nat) : SafetyStep h (portDown h w port).1 :=
  .ite (fun _ => .refl _) fun _ => safetyStep_finishPortReset _ _ _

theorem safetyStep_groupAnswer (h : Hub) (w : Work) (g member : Nat) (status : Code) :
    SafetyStep h (groupAnswer h w g member status).1 := by
  unfold groupAnswer
  split
  · exact .refl _
  · refine .ite (fun _ => .refl _) fun _ => ?_
    dsimp only
    split
    · exact .ite (fun _ => safetyStep_completeCommand _ _ _ _ _) fun _ => .refl _
    · exact .refl _

theorem safetyStep_settleRequest (h : Hub) (w : Work) (p : Packet) (cause : BitVec 32) :
    SafetyStep h (settleRequest h w p cause).1 := by
  unfold settleRequest
  split
  · exact .refl _
  · next tag who _ =>
    cases who with
    | group g m => exact safetyStep_groupAnswer _ _ _ _ _
    | collective k =>
      dsimp only
      split <;> exact .refl _
    | _ => exact .refl _

theorem safetyStep_abandonPacket (h : Hub) (w : Work) (x : Sender) (p : Packet) (code : Code) :
    SafetyStep h (abandonPacket h w x p code).1 :=
  .ite (fun _ => .refl _) fun _ => safetyStep_settleRequest _ _ _ _

theorem safetyStep_groupMessage (h : Hub) (w : Work) (k : Nat) (p : Packet) :
    SafetyStep h (groupMessage h w k p).1 :=
  .ite (fun _ => .refl _) fun _ => .ite (fun _ => .of_same rfl rfl) fun _ => .refl _

theorem safetyStep_controlMessage (h : Hub) (w : Work) (k : Nat) (p : Packet) :
    SafetyStep h (controlMessage h w k p).1 := by
  refine .ite (fun _ => .refl _) fun _ => .ite (fun _ => .refl _) fun _ => ?_
  split
  · exact .ite (fun _ => .refl _) fun _ => .refl _
  · exact .ite (fun _ => .refl _) fun _ => .refl _
  · exact safetyStep_groupMessage _ _ _ _
  · exact .refl _
  · exact .refl _

theorem safetyStep_remoteDoorbell {h : Hub} {w : Work} {o : Nat} {v : Word} {x : Hub × Work}
    (hx : remoteDoorbell h w o v = .ok x) : SafetyStep h x.1 := by
  unfold remoteDoorbell at hx
  split at hx
  · cases hx
    exact safetyStep_storeMbDoorbell _ _ _ _
  · dsimp only at hx
    repeat' split at hx
    all_goals cases hx <;> exact .refl _

theorem safetyStep_writeHere {h : Hub} {w : Work} {a : Nat} {bs : List Byte} {x : Hub × Work}
    (hx : writeHere h w a bs = .ok x) : SafetyStep h x.1 := by
  unfold writeHere at hx
  split at hx
  · split at hx
    · split at hx
      · next y hy =>
        cases hx
        exact safetyStep_remoteDoorbell hy
      · cases hx
    · cases hx
  · split at hx
    · cases hx
      exact .refl _
    · cases hx

/-! #### What a command gives back -/

/-- The answer is the state with the same queue and other halves, and the safety partition keeps to `SafetyStep`. -/
def KeepsRest (s : State) (out : Out) : Prop :=
  ∃ (h : Hub) (w : Work), out = .next { s with hub := h, work := w } ∧ SafetyStep s.hub h

namespace KeepsRest

theorem next {s : State} {h : Hub} {w : Work} (hstep : SafetyStep s.hub h) :
    KeepsRest s (.next { s with hub := h, work := w }) := ⟨h, w, rfl, hstep⟩

theorem onState {s : State} {x : Hub × Work} (hstep : SafetyStep s.hub x.1) : KeepsRest s (onState s x) := .next hstep

theorem same (s : State) : KeepsRest s (.next s) := ⟨s.hub, s.work, rfl, .refl _⟩

theorem ite {s : State} {a b : Out} {p : Prop} [Decidable p] (ha : p → KeepsRest s a) (hb : ¬ p → KeepsRest s b) :
    KeepsRest s (if p then a else b) := by
  split
  · exact ha ‹_›
  · exact hb ‹_›

end KeepsRest

theorem afterCommand_keeps (s : State) (k : Nat) {x : Hub × Work} (hx : SafetyStep s.hub x.1) :
    KeepsRest s (.next (afterCommand s k x)) := by
  unfold afterCommand
  split
  · exact .next hx
  · exact ⟨s.hub, _, rfl, .refl _⟩

/-- A mailbox command keeps the rest when its run does and what follows the completion does. -/
theorem serveCommandThen_keeps {op owner : Nat} {priv : Bool} {fields : List (Nat × Nat)}
    {run : Hub → Work → Nat → List Byte → MbResult} {after : List Byte → Hub → Work → Hub × Work} {k : Nat} {s : State}
    (hrun : ∀ p, SafetyStep s.hub (run s.hub s.work k p).hub) (hafter : ∀ p h w, SafetyStep h (after p h w).1) :
    KeepsRest s (serveCommandThen op owner priv fields run after k s) := by
  have hfinish : ∀ (p : List Byte) (r : MbResult), SafetyStep s.hub r.hub →
      KeepsRest s (match r.done with
        | none => wholeCommand s k (r.hub, r.work)
        | some (c, result) =>
          wholeCommand s k (if c = 0 then
            after p (completeCommand r.hub r.work k c result).1 (completeCommand r.hub r.work k c result).2
          else completeCommand r.hub r.work k c result)) := by
    rintro p ⟨h, w, _ | ⟨c, result⟩⟩ hr
    · rw [wholeCommand_eq]
      exact afterCommand_keeps _ _ hr
    · have hdone := hr.trans (safetyStep_completeCommand h w k c result)
      dsimp only
      rw [wholeCommand_eq]
      refine afterCommand_keeps _ _ ?_
      split
      · exact hdone.trans (hafter _ _ _)
      · exact hdone
  unfold serveCommandThen
  split
  · exact .same s
  · exact .ite (fun _ => hfinish _ (mbRefuse _ _ _) (.refl _)) fun _ => .ite (fun _ => .same s) fun _ =>
      .ite (fun _ => hfinish _ (mbRefuse _ _ _) (.refl _)) fun _ =>
        .ite (fun _ => hfinish _ (mbRefuse _ _ _) (.refl _)) fun _ => hfinish _ _ (hrun _)

theorem serveCommand_keeps {op owner : Nat} {priv : Bool} {fields : List (Nat × Nat)}
    {run : Hub → Work → Nat → List Byte → MbResult} {k : Nat} {s : State}
    (hrun : ∀ p, SafetyStep s.hub (run s.hub s.work k p).hub) : KeepsRest s (serveCommand op owner priv fields run k s) :=
  serveCommandThen_keeps hrun fun _ _ _ => .refl _

theorem safetyStep_runActivate (h : Hub) (w : Work) (k : Nat) (p : List Byte) : SafetyStep h (runActivate h w k p).hub := by
  unfold runActivate
  dsimp only
  split
  · exact .refl _
  · split
    · exact .refl _
    · split
      · exact .of_same rfl rfl
      · split
        · exact .refl _
        · exact (safetyStep_activate _ _ _).after rfl rfl

theorem safetyStep_beginRequested (p : List Byte) (h : Hub) (w : Work) : SafetyStep h (beginRequested p h w).1 :=
  .ite (fun _ => safetyStep_requestedReset _ _ _ _) fun _ => .of_same rfl rfl

theorem safetyStep_suspendAfter (p : List Byte) (h : Hub) (w : Work) : SafetyStep h (suspendAfter p h w).1 :=
  .ite (fun _ => .of_same rfl rfl) fun _ => .refl _

/-- RESET_REQUEST resets after its completion and FW_ACTIVATE restarts the processors; every other mailbox command changes
no part of the safety partition. -/
theorem exec_mailboxCommand_keeps {c : Instr} {row : Nat × Nat × Nat × Bool × List (Nat × Nat)}
    (hrow : mailboxRow c = some row) (s : State) : KeepsRest s (exec c s) := by
  cases c with
  | getVersions k => exact serveCommand_keeps (run := runGetVersions) fun _ => .refl _
  | telemetry k => exact serveCommand_keeps (run := runTelemetry) fun _ => .refl _
  | fwActivate k => exact serveCommand_keeps fun _ => safetyStep_runActivate _ _ _ _
  | resetRequest k =>
    refine serveCommandThen_keeps (fun p => ?_) safetyStep_beginRequested
    unfold runResetRequest
    split <;> exact .refl _
  | setPowerState k =>
    refine serveCommandThen_keeps (fun p => ?_) safetyStep_suspendAfter
    unfold runSetPowerState
    dsimp only
    repeat' split
    all_goals exact .of_same rfl rfl
  | _ =>
    cases hrow
    all_goals
      refine serveCommand_keeps fun p => ?_
      simp only [runSetPowerCap, runSetModuleNumber, runLoadRoutes, runLoadEthTable, runSetGazBase, runSetCq,
        runCqClearStop, runSetNextSeq, runGroupChange, runLoadInjection, runSetTransport, runPortStatus, runPortReset,
        runQuarantineRead, runQuarantineClear, runDirRead, runRetireEngine, runRasCounts, runMbOpen, runMbClose,
        closeMailbox, runSetTensorTable, runSetXlate, runDumpClear, runSetLogRing, runStageBegin,
        runStageWrite, runStageVerify, runCancel, runConfigStage]
      repeat' split
      all_goals exact .of_same rfl rfl

/-! #### The other commands, arm by arm -/

theorem exec_tempSample_keeps (temps : List Nat) (s : State) : KeepsRest s (exec (.tempSample temps) s) := by
  have hread : SafetyStep s.hub (s.hub.setSafety (fun x =>
      { x with temps := (temps ++ s.hub.safety.temps.drop temps.length).take 9 })) := .of_eq rfl rfl rfl
  refine .ite (fun _ => .same s) fun _ => ?_
  split
  · exact .onState (hread.trans (safetyStep_orderlyStop _ _ _ _ _))
  · refine .ite (fun _ => .next hread) fun _ => .onState (hread.trans ?_)
    exact (safetyStep_trip _ _ _ _ _).afterEq rfl rfl rfl
  · exact .next hread

theorem exec_capStep_keeps (s : State) : KeepsRest s (exec .capStep s) := by
  have hlower : SafetyStep s.hub (s.hub.setSafety (fun x => lowerCap x x.capMv)) :=
    safetyStep_setSafety (fun hs => legal_lowerCap (capMv_le_of_legal hs) hs) rfl
  exact .ite (fun _ => .onState hlower) fun _ => .same s

theorem exec_capRaise_keeps (s : State) : KeepsRest s (exec .capRaise s) := by
  have hraise : SafetyStep s.hub (s.hub.setSafety (fun x => { x with capMv := min 750 (x.capMv + 10) })) := by
    refine safetyStep_setSafety (fun hs => ?_) rfl
    rw [legal_iff] at hs ⊢
    dsimp only
    omega
  exact .ite (fun _ => .onState hraise) fun _ => .same s

theorem exec_railRequest_keeps (mv : Nat) (s : State) : KeepsRest s (exec (.railRequest mv) s) := by
  refine .ite (fun ⟨_, hmay⟩ => .next (safetyStep_setSafety (fun hs => ?_) rfl)) fun _ => .same s
  simp only [mayRequest, Bool.and_eq_true, decide_eq_true_eq] at hmay
  rw [legal_iff] at hs ⊢
  dsimp only
  omega

theorem exec_referenceLost_keeps (s : State) : KeepsRest s (exec .referenceLost s) := by
  have hlost : SafetyStep s.hub (s.hub.setSafety (fun x => { x with refFail := true })) := .of_eq rfl rfl rfl
  exact .ite (fun _ => .same s) fun _ =>
    .ite (fun _ => .onState (hlost.trans (safetyStep_trip _ _ _ _ _))) fun _ => .next hlost

theorem exec_referenceRestored_keeps (s : State) : KeepsRest s (exec .referenceRestored s) := by
  have hback : SafetyStep s.hub (s.hub.setSafety (fun x => { x with refFail := false })) := .of_eq rfl rfl rfl
  exact .ite (fun _ => .same s) fun _ => .ite (fun _ => .next hback) fun _ =>
    .ite (fun _ => .onState (hback.trans (safetyStep_warmReset _ _))) fun _ =>
      .onState (hback.trans (safetyStep_bootAfter _ _))

theorem exec_remoteWrite_keeps (k : Nat) (s : State) : KeepsRest s (exec (.remoteWrite k) s) := by
  change KeepsRest s (execRemoteWrite k s)
  unfold execRemoteWrite
  dsimp only
  split
  · exact .same s
  · split
    · exact .onState (.refl _)
    · split
      · next h1 w1 hwrite =>
        have hstep : SafetyStep s.hub h1 := safetyStep_writeHere hwrite
        exact .ite (fun _ => .onState hstep) fun _ => .onState (.refl _)
      · exact .onState (.refl _)

theorem exec_controlPacket_keeps (k : Nat) (s : State) : KeepsRest s (exec (.controlPacket k) s) := by
  change KeepsRest s (execControlPacket k s)
  unfold execControlPacket
  split
  · exact .same s
  · exact .ite (fun _ => .onState (safetyStep_controlMessage _ _ _ _)) fun _ => .same s

theorem exec_packetResponse_keeps (k : Nat) (s : State) : KeepsRest s (exec (.packetResponse k) s) := by
  change KeepsRest s (execPacketResponse k s)
  unfold execPacketResponse
  split
  · exact .same s
  · exact .ite (fun _ => .onState (safetyStep_settleRequest _ _ _ _)) fun _ => .same s

theorem exec_retransmitTimeout_keeps (dest cls : Nat) (psn : BitVec 32) (s : State) :
    KeepsRest s (exec (.retransmitTimeout dest cls psn) s) := by
  change KeepsRest s (execRetransmitTimeout dest cls psn s)
  unfold execRetransmitTimeout
  dsimp only
  split
  · exact .same s
  · exact .ite (fun _ => .same s) fun _ =>
      .ite (fun _ => .ite (fun _ => .onState (safetyStep_abandonPacket _ _ _ _ _)) fun _ => .onState (.refl _)) fun _ =>
        .onState (safetyStep_abandonPacket _ _ _ _ _)

theorem exec_eraseComplete_keeps (s : State) : KeepsRest s (exec .eraseComplete s) := by
  change KeepsRest s (execEraseComplete s)
  unfold execEraseComplete
  dsimp only
  split
  · exact .same s
  · refine .ite (fun _ => .same s) fun _ => ?_
    split
    · exact .onState (.of_same rfl rfl)
    · refine .ite (fun _ => .onState ?_) fun _ => .onState (.of_same rfl rfl)
      exact (safetyStep_completeCommand _ _ _ _ _).after rfl rfl

theorem exec_mailboxUnknownOpcode_keeps (k : Nat) (s : State) : KeepsRest s (exec (.mailboxUnknownOpcode k) s) := by
  change KeepsRest s (execMailboxUnknownOpcode k s)
  unfold execMailboxUnknownOpcode
  split
  · exact .same s
  · rw [wholeCommand_eq]
    exact afterCommand_keeps _ _ (safetyStep_completeCommand _ _ _ _ _)

theorem spdmServe_keeps {s : State} {n : Nat} {f : Hub → Out} (hf : KeepsRest s (f s.hub)) :
    KeepsRest s (spdmServe s n f) :=
  .ite (fun _ => .same s) fun _ => .ite (fun _ => .next (.refl _)) fun _ => hf

theorem safetyStep_useIndex (h : Hub) : SafetyStep h (useIndex h) := by
  unfold useIndex
  dsimp only
  split
  · exact (safetyStep_reserveLms _).after rfl rfl
  · exact .of_same rfl rfl

theorem signedReply_keeps (s : State) (passed : Bool) (code : Nat) (body transcript : List Byte) :
    KeepsRest s (signedReply s s.hub passed code body transcript) := by
  have hwindow : SafetyStep s.hub (if passed then s.hub.setSec (fun x => { x with responses := 0 }) else s.hub) := by
    cases passed
    · exact .refl _
    · exact .of_same rfl rfl
  exact .ite (fun _ => .next hwindow) fun _ => .ite (fun _ => .next hwindow) fun _ =>
    .next (hwindow.trans (safetyStep_useIndex _))

theorem exec_getMeasurements_keeps (index : Nat) (transcript : List Byte) (passed : Bool) (s : State) :
    KeepsRest s (exec (.getMeasurements index transcript passed) s) := by
  change KeepsRest s (execGetMeasurements index transcript passed s)
  refine spdmServe_keeps ?_
  split
  · exact .next (.refl _)
  · exact signedReply_keeps _ _ _ _ _

theorem exec_ringParityFailure_keeps (m : RingMessage) (s : State) : KeepsRest s (exec (.ringParityFailure m) s) :=
  .ite (fun _ => .same s) fun _ =>
    .ite (fun _ => .ite (fun _ => .onState (safetyStep_complexReset _ _)) fun _ => .onState (.refl _)) fun _ =>
      .onState (.refl _)

/-- Every command but a cold power-on keeps the queue, and the safety partition to `SafetyStep`. -/
theorem exec_keepsRest {c : Instr} (hc : ∀ volts low, c ≠ .coldPowerOn volts low) (s : State) : KeepsRest s (exec c s) := by
  cases hother : workCommand c || (mailboxRow c).isSome with
  | true =>
    obtain hwork | hmailbox := Bool.or_eq_true_iff.mp hother
    · obtain ⟨w, hw⟩ := exec_of_workCommand hwork s
      exact ⟨s.hub, w, hw, .refl _⟩
    · obtain ⟨row, hrow⟩ := Option.isSome_iff_exists.mp hmailbox
      exact exec_mailboxCommand_keeps hrow s
  | false =>
    cases c with
    | coldPowerOn volts low => exact absurd rfl (hc volts low)
    | sealReread x =>
      cases x with
      | mailbox k => exact .next (safetyStep_rereadMailbox _ _ _)
      | _ => exact .next (.refl _)
    | mbDoorbell k v => exact .ite (fun _ => .next (safetyStep_storeMbDoorbell _ _ _ _)) fun _ => .same s
    | mailboxUnknownOpcode k => exact exec_mailboxUnknownOpcode_keeps k s
    | watchdogExpiry n sixth d => exact .ite (fun _ => .onState (safetyStep_triggerRestart _ _ _ _ _ _)) fun _ => .same s
    | firmwarePanic n sixth exc d => exact .ite (fun _ => .onState (safetyStep_triggerRestart _ _ _ _ _ _)) fun _ => .same s
    | privateSramParity n sixth d => exact .ite (fun _ => .onState (safetyStep_triggerRestart _ _ _ _ _ _)) fun _ => .same s
    | fwRestartComplete n =>
      refine .ite (fun _ => .onState ?_) fun _ => .same s
      exact (safetyStep_resumeService _ _ _).after rfl rfl
    | eraseComplete => exact exec_eraseComplete_keeps s
    | deferredActivation => exact .ite (fun _ => .onState (safetyStep_activate _ _ _)) fun _ => .same s
    | trialConfirm => exact .ite (fun _ => .onState (.of_same rfl rfl)) fun _ => .same s
    | moduleWarmReset => exact .ite (fun _ => .onState (safetyStep_warmReset _ _)) fun _ => .same s
    | resetN => exact .ite (fun _ => .onState (safetyStep_warmReset _ _)) fun _ => .same s
    | spiRecovery => exact .ite (fun _ => .onState ((safetyStep_warmReset _ _).after rfl rfl)) fun _ => .same s
    | spiRecoveryEnd => exact .ite (fun _ => .onState ((safetyStep_warmReset _ _).after rfl rfl)) fun _ => .same s
    | engineComplexReset => exact .ite (fun _ => .onState (safetyStep_complexReset _ _)) fun _ => .same s
    | engineComplexReady =>
      refine .ite (fun _ => .onState ?_) fun _ => .same s
      exact (safetyStep_serveResets _ _).after rfl rfl
    | hostLinkFailure link => exact .ite (fun _ => .next (.of_same rfl rfl)) fun _ => .same s
    | hostLinkRetrained link => exact .ite (fun _ => .next (.of_same rfl rfl)) fun _ => .same s
    | hostLinkTimeout link => exact .ite (fun _ => .onState (safetyStep_complexReset _ _)) fun _ => .same s
    | ringParityFailure m => exact exec_ringParityFailure_keeps m s
    | inputSample power volts => exact .ite (fun _ => .next (.of_eq rfl rfl rfl)) fun _ => .same s
    | peakOvercurrent =>
      exact .ite (fun _ => .onState (safetyStep_beginOvercurrent _ _ (fun _ => rfl) fun _ => rfl)) fun _ => .same s
    | sustainedOvercurrent =>
      exact .ite (fun _ => .onState (safetyStep_beginOvercurrent _ _ (fun _ => rfl) fun _ => rfl)) fun _ => .same s
    | capStep => exact exec_capStep_keeps s
    | capRaise => exact exec_capRaise_keeps s
    | overcurrentPark => exact .ite (fun _ => .next (.of_eq rfl rfl rfl)) fun _ => .same s
    | overcurrentParkRelease => exact .ite (fun _ => .onState (.of_eq rfl rfl rfl)) fun _ => .same s
    | tempSample temps => exact exec_tempSample_keeps temps s
    | thermalRelease => exact .ite (fun _ => .onState (.of_eq rfl rfl rfl)) fun _ => .same s
    | underVoltage volts => exact .ite (fun _ => .onState (safetyStep_orderlyStop _ _ _ _ _)) fun _ => .same s
    | overVoltage volts => exact .ite (fun _ => .onState (safetyStep_orderlyStop _ _ _ _ _)) fun _ => .same s
    | presentNRelease volts => exact .ite (fun _ => .onState (safetyStep_orderlyStop _ _ _ _ _)) fun _ => .same s
    | railWindowTrip rail mv =>
      refine .ite (fun _ => .onState ?_) fun _ => .same s
      exact (safetyStep_orderlyStop _ _ _ _ _).afterEq rfl rfl rfl
    | referenceLost => exact exec_referenceLost_keeps s
    | referenceRestored => exact exec_referenceRestored_keeps s
    | railRequest mv => exact exec_railRequest_keeps mv s
    | wakeTimer => exact .onState (safetyStep_leaveStandby _ _)
    | wake => exact .ite (fun _ => .onState (safetyStep_leaveStandby _ _)) fun _ => .same s
    | wakeFrame mac type payload => exact .ite (fun _ => .onState (safetyStep_leaveStandby _ _)) fun _ => .same s
    | debugInstruction ir => exact .ite (fun _ => .next (.of_same rfl rfl)) fun _ => .same s
    | getVersion =>
      change KeepsRest s (execGetVersion s)
      exact spdmServe_keeps (.next (.of_same rfl rfl))
    | getCapabilities =>
      change KeepsRest s (execGetCapabilities s)
      exact spdmServe_keeps (.next (.of_same rfl rfl))
    | negotiateAlgorithms a b =>
      change KeepsRest s (execNegotiateAlgorithms a b s)
      exact spdmServe_keeps (.ite (fun _ => .next (.of_same rfl rfl)) fun _ => .next (.refl _))
    | getDigests =>
      change KeepsRest s (execGetDigests s)
      exact spdmServe_keeps (.next (.refl _))
    | getCertificate slot offset len =>
      change KeepsRest s (execGetCertificate slot offset len s)
      exact spdmServe_keeps (.ite (fun _ => .next (.refl _)) fun _ => .next (.refl _))
    | challenge slot transcript passed =>
      change KeepsRest s (execChallenge slot transcript passed s)
      exact spdmServe_keeps (.ite (fun _ => .next (.refl _)) fun _ => signedReply_keeps _ _ _ _ _)
    | getMeasurements index transcript passed => exact exec_getMeasurements_keeps index transcript passed s
    | controlPacket k => exact exec_controlPacket_keeps k s
    | packetResponse k => exact exec_packetResponse_keeps k s
    | remoteWrite k => exact exec_remoteWrite_keeps k s
    | retransmitTimeout dest cls psn => exact exec_retransmitTimeout_keeps dest cls psn s
    | retrainComplete port => exact .ite (fun _ => .onState (safetyStep_finishPortReset _ _ _)) fun _ => .same s
    | retrainTimeout port =>
      exact .ite (fun _ => .ite (fun _ => .next (.refl _)) fun _ => .onState (safetyStep_portDown _ _ _)) fun _ => .same s
    | fabricReferenceLost =>
      refine .ite (fun _ => .same s) fun _ => .onState ?_
      exact SafetyStep.foldl (fun x n => safetyStep_portDown x.1 x.2 n) _ (s.hub, _)
    | _ => cases hother

/-! #### A cold power-on -/

theorem legal_coldHub (h : Hub) : (coldHub h).safety.legal = true := by
  rw [legal_iff]
  simp only [coldHub, resetSafety]
  omega

/-- A cold power-on starts the safety partition from its defaults, or changes nothing. -/
theorem exec_coldPowerOn (volts low : Bool) (s : State) :
    ∃ (h : Hub) (w : Work), exec (.coldPowerOn volts low) s = .next { s with hub := h, work := w } ∧
      (h.safety.legal = true ∨ h = s.hub) := by
  change ∃ h w, execColdPowerOn volts low s = _ ∧ _
  unfold execColdPowerOn
  split
  · exact ⟨_, _, rfl, .inl ((safetyStep_bootAfter _ _).legal (legal_coldHub s.hub))⟩
  · split
    · exact ⟨_, _, rfl, .inl (legal_coldHub s.hub)⟩
    · exact ⟨s.hub, s.work, rfl, .inr rfl⟩

/-- A module that has power and has booted cold does not power on again. -/
theorem exec_coldPowerOn_of_booted (volts low : Bool) {s : State} (hpow : s.hub.ident.powered = true)
    (hbooted : s.hub.sec.coldWaits = false) : exec (.coldPowerOn volts low) s = .next s := by
  change execColdPowerOn volts low s = .next s
  simp [execColdPowerOn, hpow, hbooted]

/-! #### The obligations -/

/-- A command gives back a state with the same queue. -/
theorem exec_next_pending {c : Instr} {s t : State} (ht : exec c s = .next t) : t.pending = s.pending := by
  by_cases hcold : ∃ volts low, c = .coldPowerOn volts low
  · obtain ⟨volts, low, rfl⟩ := hcold
    obtain ⟨h, w, hx, -⟩ := exec_coldPowerOn volts low s
    cases hx.symm.trans ht
    rfl
  · obtain ⟨h, w, hx, -⟩ := exec_keepsRest (fun volts low hc => hcold ⟨volts, low, hc⟩) s
    cases hx.symm.trans ht
    rfl

/-- Settles O3: each command changes the two halves alone (`exec_keepsRest`, `exec_coldPowerOn`). -/
theorem commandsLeaveTheQueue : Obligations.CommandsLeaveTheQueue := fun _ _ _ => exec_next_pending

/-- Settles O60: every command but a cold power-on is a `SafetyStep`, and a cold power-on starts from the defaults. -/
theorem safetyLimitsKept : Obligations.SafetyLimitsKept := by
  intro s t hlegal ht
  unfold step at ht
  split at ht
  · cases ht
    exact hlegal
  · next c rest _ =>
    by_cases hcold : ∃ volts low, c = .coldPowerOn volts low
    · obtain ⟨volts, low, rfl⟩ := hcold
      obtain ⟨h, w, hx, hsafe⟩ := exec_coldPowerOn volts low { s with pending := rest }
      cases hx.symm.trans ht
      obtain hnew | hsame := hsafe
      · exact hnew
      · exact (congrArg (fun h => h.safety.legal) hsame).trans hlegal
    · obtain ⟨h, w, hx, hstep⟩ := exec_keepsRest (fun volts low hc => hcold ⟨volts, low, hc⟩) { s with pending := rest }
      cases hx.symm.trans ht
      exact hstep.legal hlegal

/-- Settles O59: every command but a cold power-on is a `SafetyStep`, and a cold power-on changes nothing here. -/
theorem limitsChangeOnlyAtColdPowerOn : Obligations.LimitsChangeOnlyAtColdPowerOn := by
  intro s t hpow hbooted ht
  unfold step at ht
  split at ht
  · cases ht
    rfl
  · next c rest _ =>
    by_cases hcold : ∃ volts low, c = .coldPowerOn volts low
    · obtain ⟨volts, low, rfl⟩ := hcold
      cases (exec_coldPowerOn_of_booted volts low (s := { s with pending := rest }) hpow hbooted).symm.trans ht
      rfl
    · obtain ⟨h, w, hx, hstep⟩ := exec_keepsRest (fun volts low hc => hcold ⟨volts, low, hc⟩) { s with pending := rest }
      cases hx.symm.trans ht
      exact (hstep.booted hbooted).2

end Sys2Proof.Machine

/-! ### The block: steps, time and reset (O1, O2, O58) -/

namespace Sys2Proof.Machine

/-- Settles O1: `step` matches on the queue. -/
theorem stepRunsFrontCommand : Obligations.StepRunsFrontCommand := fun _ _ => rfl

/-! #### Time alone -/

theorem passSteps_of_not_working {h : Hub} {w : Work} {e : Nat} (n : Word) (en : Engine) (hpark : working h w e = false) :
    passSteps h w e n en = en := by
  unfold passSteps
  rw [hpark]
  rfl

/-- Time changes the streams and the operations of an engine alone. -/
theorem passSteps_eq (h : Hub) (w : Work) (e : Nat) (n : Word) (en : Engine) :
    passSteps h w e n en =
      { en with streams := (passSteps h w e n en).streams, ops := (passSteps h w e n en).ops } := by
  unfold passSteps
  split <;> rfl

/-- Of a stream only the two counts of waiting steps advance. -/
theorem stream_passSteps (h : Hub) (w : Work) (e : Nat) (n : Word) (en : Engine) (q : Nat) :
    ∃ a b : Word, (passSteps h w e n en).stream q = { en.stream q with tokenWait := a, runTokenWait := b } := by
  unfold passSteps
  split
  · exact ⟨_, _, rfl⟩
  · simp only [Engine.stream, List.getD_eq_getElem?_getD, List.getElem?_mapIdx]
    cases en.streams[q]? with
    | none => exact ⟨_, _, rfl⟩
    | some st =>
      simp only [Option.map_some, Option.getD_some]
      split <;> exact ⟨_, _, rfl⟩

theorem length_ops_passSteps (h : Hub) (w : Work) (e : Nat) (n : Word) (en : Engine) :
    (passSteps h w e n en).ops.length = en.ops.length := by
  unfold passSteps
  split
  · rfl
  · exact List.length_map _

/-- Of an operation only the steps that a WAIT has spent advance. -/
theorem getElem?_ops_passSteps (h : Hub) (w : Work) (e : Nat) (n : Word) (en : Engine) {i : Nat} {o : Op}
    (ho : en.ops[i]? = some o) :
    (∃ (p : WaitP) (m : Word), o.kind = .wait p ∧
      (passSteps h w e n en).ops[i]? = some { o with kind := .wait { p with spent := m } }) ∨
    (passSteps h w e n en).ops[i]? = some o := by
  unfold passSteps
  split
  · exact .inr ho
  · simp only [List.getElem?_map, ho, Option.map_some]
    split
    · next p hkind =>
      split
      · exact .inl ⟨p, _, hkind, rfl⟩
      · exact .inr rfl
    · exact .inr rfl

theorem engine_passTime (h : Hub) (w : Work) (e : Nat) :
    (passTime h w).engine e = w.engine e ∨
      (passTime h w).engine e = passSteps h w e (Config.freeSteps w.freeIx) (w.engine e) := by
  simp only [Work.engine, passTime, List.getD_eq_getElem?_getD, List.getElem?_mapIdx]
  cases w.engines[e]? with
  | none => exact .inl rfl
  | some en => exact .inr rfl

theorem step_of_empty {s : State} (hempty : s.pending = []) : step s = .next (idleStep s) := by
  unfold step
  rw [hempty]

/-- Settles O2: `passTime` is `passSteps` at each engine, the ticks of the running clocks, and the ends of the windows. -/
theorem emptyQueueOnlyPassesTime : Obligations.EmptyQueueOnlyPassesTime := by
  intro s hempty
  refine ⟨passTime s.hub s.work, step_of_empty hempty, rfl, rfl, rfl, fun d hstop => ?_, fun e hpark => ?_, fun e => ?_⟩
  · simp only [passTime, List.getElem?_mapIdx, hstop, Bool.false_eq_true, if_false]
    cases s.work.logs.domainCounts[d]? <;> rfl
  · obtain hsame | hpass := engine_passTime s.hub s.work e
    · exact hsame
    · rw [hpass, passSteps_of_not_working _ _ hpark]
  · obtain hsame | hpass := engine_passTime s.hub s.work e
    · unfold Work.stream
      rw [hsame]
      exact ⟨rfl, fun _ => ⟨_, _, rfl⟩, rfl, fun _ _ ho => .inr ho⟩
    · unfold Work.stream
      rw [hpass]
      exact ⟨passSteps_eq _ _ _ _ _, stream_passSteps _ _ _ _ _, length_ops_passSteps _ _ _ _ _,
        fun _ _ ho => getElem?_ops_passSteps _ _ _ _ _ ho⟩

/-! #### Reset -/

theorem engine_reset {e : Nat} (he : e < 72) : State.reset.work.engine e = resetEngine e := by
  simp [Work.engine, State.reset, resetWork, List.getD_eq_getElem?_getD, he]

theorem stream_reset {e q : Nat} (he : e < 72) (hq : q < 4) : State.reset.work.stream e q = resetStream := by
  rw [Work.stream, engine_reset he]
  simp only [Engine.stream, resetEngine, List.getD_eq_getElem?_getD, List.getElem?_replicate, hq, if_true, Option.getD_some]

/-- Settles O58: each register has the value of `resetHub`, `resetWork` or `resetEngine`. -/
theorem resetState : Obligations.ResetState := by
  have hlegal : State.reset.hub.safety.legal = true := by
    rw [legal_iff]
    simp only [State.reset, resetHub, resetSafety]
    omega
  refine ⟨rfl, rfl, rfl, hlegal, rfl, rfl, rfl, rfl, rfl, rfl, rfl, rfl, rfl, rfl, rfl, fun e he => ?_⟩
  refine ⟨by rw [engine_reset he]; rfl, by rw [engine_reset he]; rfl, fun q hq => ?_⟩
  rw [stream_reset he hq]
  exact ⟨rfl, rfl, rfl, rfl, rfl⟩

end Sys2Proof.Machine

/-! ### A write at the home reads back (11 R338, R344; O31) -/

namespace Sys2Proof.Machine

/-- Bytes written in a line that no cache holds dirty are its coherent bytes, and other bytes keep theirs. -/
theorem cohByte_write_of_clean {w : Work} {a x : Nat} (bs : List Byte) (hclean : dirtyCopy w.coh (lineOf x) = none) :
    cohByte { w with mem := memWrite w.mem a bs } x =
      if a ≤ x ∧ x < a + bs.length then bs.getD (x - a) 0 else cohByte w x := by
  simp only [cohByte, hclean, memGet_write]

/-- Ending the quarantine of a line written whole changes neither its coherent bytes nor its holders. -/
def liftQuarantine (w : Work) (ln : Nat) : Work :=
  w.setHome (lineHome ln) (fun hm => { hm with quarantine := hm.quarantine.filter (fun x => x != ln) })

theorem homeStore_eq (h : Hub) (w : Work) (a : Nat) (bs : List Byte) :
    homeStore h w a bs =
      let w2 := { flushLine w (lineOf a) with mem := memWrite (flushLine w (lineOf a)).mem a bs }
      dirNote h (if bs.length == 128 then liftQuarantine w2 (lineOf a) else w2) (lineOf a) := rfl

/-- The line after a write at its home: the flushed line with the bytes written. -/
theorem homeStore_spec (h : Hub) (w : Work) (a : Nat) (bs : List Byte) :
    (∀ x, lineOf x = lineOf a →
      cohByte (homeStore h w a bs) x =
        if a ≤ x ∧ x < a + bs.length then bs.getD (x - a) 0 else cohByte (flushLine w (lineOf a)) x) ∧
      holders (homeStore h w a bs).coh (lineOf a) = [] := by
  obtain ⟨hdirty, hholders, -, -⟩ := flushLine_spec w (lineOf a)
  rw [homeStore_eq]
  dsimp only
  generalize hw2 : { flushLine w (lineOf a) with mem := memWrite (flushLine w (lineOf a)).mem a bs } = w2
  have hwrite : ∀ x, lineOf x = lineOf a →
      cohByte w2 x = if a ≤ x ∧ x < a + bs.length then bs.getD (x - a) 0 else cohByte (flushLine w (lineOf a)) x := by
    intro x hx
    rw [← hw2, cohByte_write_of_clean bs (by rw [hx, hdirty, if_pos rfl])]
  have hempty : holders w2.coh (lineOf a) = [] := by
    rw [← hw2, hholders, if_pos rfl]
  split
  · obtain ⟨hnote, hnoteHolders⟩ := dirNote_spec h (liftQuarantine w2 (lineOf a)) (lineOf a)
    refine ⟨fun x hx => ?_, hnoteHolders.trans hempty⟩
    rw [hnote x hx, ← hwrite x hx]
    exact cohByte_setHome w2 (lineHome (lineOf a))
      (fun hm => { hm with quarantine := hm.quarantine.filter (fun x => x != lineOf a) }) (fun _ => rfl) x
  · obtain ⟨hnote, hnoteHolders⟩ := dirNote_spec h w2 (lineOf a)
    exact ⟨fun x hx => (hnote x hx).trans (hwrite x hx), hnoteHolders.trans hempty⟩

/-- Settles O31: the home takes the line to memory (`flushLine_spec`), writes, and notes it in the directory
(`homeStore_spec`). -/
theorem writeAtHomeIsReadBack : Obligations.WriteAtHomeIsReadBack := by
  intro h w a bs hpos hfits hfault
  obtain ⟨hbytes, hholders⟩ := homeStore_spec h w a bs
  obtain ⟨-, -, -, hflush⟩ := flushLine_spec w (lineOf a)
  refine ⟨fun i hi => ?_, fun x hx hout => ?_, hholders⟩
  · have hline : lineOf (a + i) = lineOf a := by
      unfold lineOf
      omega
    rw [hbytes _ hline, if_pos (by omega), Nat.add_sub_cancel_left]
  · rw [hbytes x hx, if_neg (by omega)]
    exact hflush (lineFault_none_clean w _ hfault) x hx

end Sys2Proof.Machine

/-! ### Each packet is delivered once and in order (12 R373; O35) -/

namespace Sys2Proof.Machine

theorem receiverOf_key (w : Work) (src cls : Nat) : (receiverOf w src cls).src = src ∧ (receiverOf w src cls).cls = cls := by
  unfold receiverOf
  cases hfind : w.fabric.receivers.find? (fun r => r.src == src && r.cls == cls) with
  | none => exact ⟨rfl, rfl⟩
  | some r =>
    have hr := List.find?_some hfind
    simpa using hr

theorem receiverOf_setReceiver (w : Work) {r : Receiver} {src cls : Nat} (hsrc : r.src = src) (hcls : r.cls = cls) :
    receiverOf (w.setReceiver r) src cls = r := by
  subst hsrc hcls
  simp [receiverOf, Work.setReceiver, Work.setFabric]

@[simp] theorem noteAck_src (r : Receiver) (psn : BitVec 32) : (noteAck r psn).src = r.src := by
  unfold noteAck
  split <;> rfl

@[simp] theorem noteAck_cls (r : Receiver) (psn : BitVec 32) : (noteAck r psn).cls = r.cls := by
  unfold noteAck
  split <;> rfl

@[simp] theorem noteAck_expected (r : Receiver) (psn : BitVec 32) : (noteAck r psn).expected = r.expected := by
  unfold noteAck
  split <;> rfl

@[simp] theorem noteAck_ahead (r : Receiver) (psn : BitVec 32) : (noteAck r psn).ahead = r.ahead := by
  unfold noteAck
  split <;> rfl

/-! #### Delivery -/

theorem inbox_deliver (out : List Packet) (w : Work) : (out.foldl deliverOne w).fabric.inbox = w.fabric.inbox ++ out := by
  induction out generalizing w with
  | nil => exact (List.append_nil _).symm
  | cons p out ih =>
    rw [List.foldl_cons, ih]
    exact List.append_assoc _ [p] out

theorem receiverOf_deliver (out : List Packet) (w : Work) (src cls : Nat) :
    receiverOf (out.foldl deliverOne w) src cls = receiverOf w src cls := by
  induction out generalizing w with
  | nil => rfl
  | cons p out ih => exact ih _

@[simp] theorem setReceiver_inbox (w : Work) (r : Receiver) : (w.setReceiver r).fabric.inbox = w.fabric.inbox := rfl

/-- With nothing held for the next number the receiver goes no further. -/
theorem drainAhead_of_ahead_nil (n : Nat) {r : Receiver} (out : List Packet) (hr : r.ahead = []) :
    drainAhead n r out = (r, out) := by
  cases n with
  | zero => rfl
  | succ n => rw [drainAhead, hr, List.find?_nil]

/-- One held packet that is next is delivered and held no longer. -/
theorem drainAhead_of_ahead_singleton (n : Nat) {r : Receiver} (out : List Packet) {x : Packet} (hr : r.ahead = [x])
    (hx : x.psn = r.expected) :
    drainAhead (n + 1) r out = ({ r with expected := r.expected + 1, ahead := [] }, out ++ [x]) := by
  have hfind : r.ahead.find? (fun p => p.psn == r.expected) = some x := by simp [hr, hx]
  rw [drainAhead, hfind, hr]
  dsimp only
  have hgone : [x].filter (fun y => y.psn != x.psn) = [] := by simp
  rw [hgone]
  exact drainAhead_of_ahead_nil n _ rfl

/-- The receiver of `p` once it has taken the number expected, before what it holds is looked at. -/
def afterExpected (w : Work) (p : Packet) : Receiver :=
  { noteAck (receiverOf w p.src p.cls) p.psn with expected := (receiverOf w p.src p.cls).expected + 1 }

theorem takePacket_expected {h : Hub} {w : Work} {p : Packet} (hp : p.psn = (receiverOf w p.src p.cls).expected) :
    takePacket h w p =
      (drainAhead 257 (afterExpected w p) [p]).2.foldl deliverOne
        (w.setReceiver (drainAhead 257 (afterExpected w p) [p]).1) := by
  unfold takePacket
  rw [if_pos (by simp [hp])]
  rfl

/-- The state once the packet is delivered with what became next: `out` entered the inbox and `r` is the receiver. -/
theorem takePacket_delivers {h : Hub} {w : Work} {p : Packet} {r : Receiver} {out : List Packet}
    (hp : p.psn = (receiverOf w p.src p.cls).expected) (hdrain : drainAhead 257 (afterExpected w p) [p] = (r, out))
    (hsrc : r.src = p.src) (hcls : r.cls = p.cls) :
    (takePacket h w p).fabric.inbox = w.fabric.inbox ++ out ∧ receiverOf (takePacket h w p) p.src p.cls = r := by
  rw [takePacket_expected hp, hdrain]
  exact ⟨inbox_deliver _ _, (receiverOf_deliver _ _ _ _).trans (receiverOf_setReceiver _ hsrc hcls)⟩

/-- The receiver of a packet ahead of the expected one: it is held once, and acknowledged. -/
def afterAhead (w : Work) (p : Packet) : Receiver :=
  if (receiverOf w p.src p.cls).ahead.any (fun x => x.psn == p.psn) then noteAck (receiverOf w p.src p.cls) p.psn
  else
    { noteAck (receiverOf w p.src p.cls) p.psn with ahead := (noteAck (receiverOf w p.src p.cls) p.psn).ahead ++ [p] }

theorem takePacket_ahead {h : Hub} {w : Work} {p : Packet} (hlow : 1 ≤ (p.psn - (receiverOf w p.src p.cls).expected).toNat)
    (hhigh : (p.psn - (receiverOf w p.src p.cls).expected).toNat ≤ 256) :
    takePacket h w p = w.setReceiver (afterAhead w p) := by
  unfold takePacket afterAhead
  dsimp only
  rw [if_neg (by omega), if_pos hhigh]

theorem afterAhead_spec (w : Work) (p : Packet) :
    (afterAhead w p).src = p.src ∧ (afterAhead w p).cls = p.cls ∧
      (afterAhead w p).expected = (receiverOf w p.src p.cls).expected ∧
      (afterAhead w p).ahead.any (fun x => x.psn == p.psn) = true := by
  obtain ⟨hsrc, hcls⟩ := receiverOf_key w p.src p.cls
  unfold afterAhead
  split
  · next hheld => simp [hsrc, hcls, hheld]
  · simp [hsrc, hcls]

theorem takePacket_far {h : Hub} {w : Work} {p : Packet} (hlow : 256 < (p.psn - (receiverOf w p.src p.cls).expected).toNat)
    (hhigh : (p.psn - (receiverOf w p.src p.cls).expected).toNat < 2 ^ 31) : takePacket h w p = w := by
  unfold takePacket
  dsimp only
  rw [if_neg (by omega), if_neg (by omega), if_pos hhigh]

/-- A packet behind the expected one is acknowledged again, and its kept response resent: nothing enters the inbox. -/
theorem takePacket_behind {h : Hub} {w : Work} {p : Packet}
    (hbehind : 2 ^ 31 ≤ (p.psn - (receiverOf w p.src p.cls).expected).toNat) :
    (takePacket h w p).fabric.inbox = w.fabric.inbox ∧ (takePacket h w p).logs = w.logs := by
  unfold takePacket
  dsimp only
  rw [if_neg (by omega), if_neg (by omega), if_neg (by omega)]
  split
  · next x _ =>
    obtain ⟨senders, rules, ports, hsend⟩ :=
      sendPacket_spec h (w.setReceiver (noteAck (receiverOf w p.src p.cls) p.psn)) x.2.1 x.2.2
    rw [hsend]
    exact ⟨rfl, rfl⟩
  · exact ⟨rfl, rfl⟩

/-- Settles O35: by the place of the packet's number: expected (`takePacket_delivers`), ahead, further ahead, or behind. -/
theorem eachPacketIsDeliveredOnceInOrder : Obligations.EachPacketIsDeliveredOnceInOrder := by
  intro h w p
  obtain ⟨hsrc, hcls⟩ := receiverOf_key w p.src p.cls
  refine ⟨fun hp => ⟨fun hnone => ?_, fun x hone hx => ?_⟩, fun hlow hhigh => ?_, takePacket_far, takePacket_behind⟩
  · have hdrain : drainAhead 257 (afterExpected w p) [p] = (afterExpected w p, [p]) :=
      drainAhead_of_ahead_nil _ _ (by simp [afterExpected, hnone])
    obtain ⟨hinbox, hrecv⟩ := takePacket_delivers (h := h) hp hdrain (by simp [afterExpected, hsrc])
      (by simp [afterExpected, hcls])
    exact ⟨hinbox, by rw [hrecv]; rfl⟩
  · have hdrain := drainAhead_of_ahead_singleton 256 (r := afterExpected w p) [p] (x := x)
      (by simp [afterExpected, hone]) (by rw [hx, hp]; rfl)
    obtain ⟨hinbox, hrecv⟩ := takePacket_delivers (h := h) hp hdrain (by simp [afterExpected, hsrc])
      (by simp [afterExpected, hcls])
    refine ⟨hinbox, ?_, by rw [hrecv]⟩
    rw [hrecv]
    exact BitVec.add_assoc _ 1 1
  · obtain ⟨hsrc', hcls', hexpected, hheld⟩ := afterAhead_spec w p
    rw [takePacket_ahead hlow hhigh, receiverOf_setReceiver _ hsrc' hcls']
    exact ⟨rfl, hexpected, hheld⟩

end Sys2Proof.Machine

/-! ### What reads and readiness depend on -/

namespace Sys2Proof.Machine

/-- A memory error of a line is one of the caches' and the homes' state. -/
theorem lineFault_congr {w v : Work} (hc : v.coh = w.coh) (ln : Nat) : lineFault v ln = lineFault w ln := by
  simp only [lineFault, hc]

theorem cohByte_congr {w v : Work} (hm : v.mem = w.mem) (hc : v.coh = w.coh) (a : Nat) : cohByte v a = cohByte w a := by
  simp only [cohByte, hm, hc]

theorem physByte_congr {w v : Work} (h : Hub) (hm : v.mem = w.mem) (hc : v.coh = w.coh) (a : Nat) :
    physByte h v a = physByte h w a := by
  simp only [physByte, lineFault_congr hc, cohByte_congr hm hc, hm]

theorem physRead_congr {w v : Work} (h : Hub) (hm : v.mem = w.mem) (hc : v.coh = w.coh) (a n : Nat) :
    physRead h v a n = physRead h w a n := by
  simp only [physRead, physByte_congr h hm hc]

theorem physBytes_congr {w v : Work} (hm : v.mem = w.mem) (hc : v.coh = w.coh) (a n : Nat) :
    physBytes v a n = physBytes w a n := by
  have : cohByte v = cohByte w := funext (cohByte_congr hm hc)
  simp only [physBytes, this]

theorem translate_congr {w v : Work} (h : Hub) (hm : v.mem = w.mem) (hc : v.coh = w.coh) (x : XlateState) (write : Bool)
    (a : Nat) : translate h v x write a = translate h w x write a := by
  simp only [translate, walk, physRead_congr h hm hc]

/-- What an engine reads depends on memory, the caches and homes, the tables in force and its own translation. -/
theorem engineRead_congr {w v : Work} (h : Hub) (e a n : Nat) (hm : v.mem = w.mem) (hc : v.coh = w.coh)
    (ht : v.tables = w.tables) (hx : (v.engine e).xl = (w.engine e).xl) : engineRead h v e a n = engineRead h w e a n := by
  have haddr : ∀ x, engineAddr h v e false x = engineAddr h w e false x := fun x => by
    simp only [engineAddr, hx, translate_congr h hm hc]
  have hbyte : ∀ x, engineByte h v e x = engineByte h w e x := fun x => by
    simp only [engineByte, haddr, readsZero, ht, holdsLine, hc, cohByte_congr hm hc, physByte_congr h hm hc]
    rfl
  simp only [engineRead, hbyte]

/-- Whether an engine works depends on its parking and its reset alone. -/
theorem working_congr {w v : Work} (h : Hub) (e : Nat) (hp : (v.engine e).selfParked = (w.engine e).selfParked)
    (hr : (v.engine e).resetting = (w.engine e).resetting) : working h v e = working h w e := by
  simp only [working, parked, hp, hr]

theorem present_of_working {h : Hub} {w : Work} {e : Nat} (hw : working h w e = true) : present h e = true := by
  simp only [working, Bool.and_eq_true] at hw
  obtain ⟨⟨⟨⟨⟨hp, _⟩, _⟩, _⟩, _⟩, _⟩ := hw
  exact hp

end Sys2Proof.Machine

/-! ### Rings of the engines, the collective queues and FW4 (14 R435 to R439) -/

namespace Sys2Proof.Machine

/-! #### An update of a part that is known -/

/-- Two updates that agree on the present value of a part are the same. -/
theorem modify_congr {α : Type} {l : List α} {i : Nat} {f g : α → α} (h : ∀ x, l[i]? = some x → f x = g x) :
    l.modify i f = l.modify i g := by
  apply List.ext_getElem?
  intro j
  rw [List.getElem?_modify, List.getElem?_modify]
  by_cases hj : i = j
  · subst hj
    cases hx : l[i]? with
    | none => rfl
    | some x => simp [h x hx]
  · simp [hj]

theorem Hub.setMailbox_congr {h : Hub} {k : Nat} {f g : Mailbox → Mailbox} (hfg : f (h.mailbox k) = g (h.mailbox k)) :
    h.setMailbox k f = h.setMailbox k g := by
  unfold Hub.setMailbox
  rw [modify_congr]
  intro x hx
  have : h.mailbox k = x := by simp [Hub.mailbox, List.getD_eq_getElem?_getD, hx]
  rw [← this, hfg]

theorem Work.setCollQ_congr {w : Work} {k : Nat} {f g : CollQueue → CollQueue} (hfg : f (collQ w k) = g (collQ w k)) :
    w.setCollQ k f = w.setCollQ k g := by
  have hq : w.colls.queues.modify k f = w.colls.queues.modify k g := modify_congr fun x hx => by
    have : collQ w k = x := by simp [collQ, List.getD_eq_getElem?_getD, hx]
    rw [← this, hfg]
  simp only [Work.setCollQ, Work.setColls, hq]

theorem Work.stream_of_getElem {w : Work} {e q : Nat} {st : Stream} (h : (w.engine e).streams[q]? = some st) :
    w.stream e q = st := by
  unfold Work.stream Engine.stream
  simp [List.getD_eq_getElem?_getD, h]

theorem Engine.setStream_congr {en : Engine} {q : Nat} {f g : Stream → Stream} (hfg : f (en.stream q) = g (en.stream q)) :
    en.setStream q f = en.setStream q g := by
  unfold Engine.setStream
  rw [modify_congr]
  intro x hx
  have : en.stream q = x := by simp [Engine.stream, List.getD_eq_getElem?_getD, hx]
  rw [← this, hfg]

theorem Work.setEngine_congr {w : Work} {e : Nat} {f g : Engine → Engine} (hfg : f (w.engine e) = g (w.engine e)) :
    w.setEngine e f = w.setEngine e g := by
  unfold Work.setEngine
  rw [modify_congr]
  intro x hx
  have : w.engine e = x := by simp [Work.engine, List.getD_eq_getElem?_getD, hx]
  rw [← this, hfg]

theorem Work.setStream_congr {w : Work} {e q : Nat} {f g : Stream → Stream} (hfg : f (w.stream e q) = g (w.stream e q)) :
    w.setStream e q f = w.setStream e q g :=
  Work.setEngine_congr (Engine.setStream_congr hfg)

theorem Engine.setStream_setStream (en : Engine) (q : Nat) (f g : Stream → Stream) :
    (en.setStream q f).setStream q g = en.setStream q (fun s => g (f s)) := by
  simp only [Engine.setStream, List.modify_modify_eq]
  rfl

theorem Work.setEngine_setEngine (w : Work) (e : Nat) (f g : Engine → Engine) :
    (w.setEngine e f).setEngine e g = w.setEngine e (fun en => g (f en)) := by
  simp only [Work.setEngine, List.modify_modify_eq]
  rfl

theorem Engine.stream_setStream_some {en : Engine} {q : Nat} {st : Stream} (f : Stream → Stream)
    (h : en.streams[q]? = some st) : (en.setStream q f).stream q = f st := by
  simp [Engine.stream, Engine.setStream, List.getD_eq_getElem?_getD, h]

theorem Work.stream_setEngine_self {w : Work} {e : Nat} (f : Engine → Engine) (he : e < w.engines.length) (q : Nat) :
    (w.setEngine e f).stream e q = (f (w.engine e)).stream q := by
  unfold Work.stream
  rw [Work.engine_setEngine_self _ _ _ he]

/-! #### The ring of an engine stream -/

/-- Stream `q` of engine `e` may read its ring: it is enabled, holds nothing and neither faults nor waits for a doorbell. -/
def MayReadRing (w : Work) (e q : Nat) : Prop :=
  (w.stream e q).enable = true ∧ (w.stream e q).desc = none ∧ (w.stream e q).fault = false ∧ (w.stream e q).unsealed = false

/-- What a stream that may read its ring does with the slot that it reads without translation. -/
theorem readQueue_reads {h : Hub} {w : Work} {e q : Nat} {b : List Byte} (hmay : MayReadRing w e q)
    (hx : (w.engine e).xl.enable = false)
    (hb : engineRead h w e (slotAddr (w.stream e q).base (w.stream e q).log2 (w.stream e q).nextSeq) 64 = .ok b) :
    (judgeSlot (w.stream e q).nextSeq b = .unsealed → (w.stream e q).rereads ≠ 0 → (w.stream e q).rereads + 1 < 64 →
      readQueue h w e q = w.setStream e q (fun s => { s with rereads := s.rereads + 1 })) ∧
    (∀ d, judgeSlot (w.stream e q).nextSeq b = .sealed d → (w.engine e).stopped = false →
      readQueue h w e q =
        w.setStream e q (fun s => { s with rereads := 0, ringWaits := false, desc := some d, nextSeq := s.nextSeq + 1 })) := by
  obtain ⟨hen, hd, hf, hu⟩ := hmay
  constructor
  · intro hj h0 h64
    simp only [readQueue, hen, hd, hf, hu, keepPage_off h w e _ hx, hb, hj, h0, h64, if_true, if_false]
    rfl
  · intro d hj hstop
    simp only [readQueue, hen, hd, hf, hu, keepPage_off h w e _ hx, hb, hj, hstop]
    rfl

/-- An engine whose stream `q` a doorbell with `hint` has reached, between no two reads of a slot (14 R437, R439). -/
def rung (q : Nat) (hint : Seq) (en : Engine) : Engine :=
  { en.setStream q (fun s => { s with hint := some hint, unsealed := false, rereads := 0 }) with selfParked := false }

/-- A doorbell of a stream that is between no two reads has the ring read. -/
theorem ringQueue_reads {h : Hub} {w : Work} {e q : Nat} (hint : Seq) {st : Stream} (he : e < w.engines.length)
    (hst : (w.engine e).streams[q]? = some st)
    (hw : working h (w.setEngine e (fun en => { en with selfParked := false })) e = true) (hr : st.rereads = 0) :
    ringQueue h w e q hint = readQueue h (w.setEngine e (rung q hint)) e q := by
  set f : Engine → Engine := fun en =>
    { en.setStream q (fun s => { s with hint := some hint }) with selfParked := false } with hf
  have hw1 : working h (w.setEngine e f) e = true := by
    rw [← hw]
    apply working_congr <;> rw [Work.engine_setEngine_self _ _ _ he, Work.engine_setEngine_self _ _ _ he]
    rfl
  have hs1 : (w.setEngine e f).stream e q = { st with hint := some hint } := by
    rw [Work.stream_setEngine_self _ he]
    exact Engine.stream_setStream_some _ hst
  have hrung : ∀ en : Engine, (en.stream q).rereads = 0 → (en.stream q).unsealed = false → rung q hint en = f en := by
    intro en h0 hu
    have : en.setStream q (fun s => { s with hint := some hint, unsealed := false, rereads := 0 }) =
        en.setStream q (fun s => { s with hint := some hint }) := Engine.setStream_congr (by simp only [h0, hu])
    rw [rung, this]
  have hst0 : (w.engine e).stream q = st := Work.stream_of_getElem hst
  unfold ringQueue
  dsimp only
  rw [← hf, hw1, hs1, if_neg (by decide)]
  by_cases hu : st.unsealed = true
  · rw [if_pos hu, Work.setStream, Work.setEngine_setEngine]
    congr 2
    funext en
    simp only [hf, rung, Engine.setStream, List.modify_modify_eq]
    rfl
  · rw [if_neg hu, if_neg (by simp [hr]), ← Work.setEngine_congr (hrung _ (by rw [hst0]; exact hr) (by rw [hst0]; simpa using hu))]

end Sys2Proof.Machine

namespace Sys2Proof.Machine

/-- A sealed slot that a doorbell has read is held, and NEXT_SEQ is one further. -/
theorem ringQueue_takes {h : Hub} {w : Work} {e q : Nat} (hint : Seq) {st : Stream} {b : List Byte} {d : Desc}
    (hx : (w.engine e).xl.enable = false) (he : e < w.engines.length) (hst : (w.engine e).streams[q]? = some st)
    (hstop : (w.engine e).stopped = false)
    (hw : working h (w.setEngine e (fun en => { en with selfParked := false })) e = true) (hen : st.enable = true)
    (hd : st.desc = none) (hf : st.fault = false) (hr : st.rereads = 0)
    (hb : engineRead h w e (slotAddr st.base st.log2 st.nextSeq) 64 = .ok b) (hj : judgeSlot st.nextSeq b = .sealed d) :
    ∃ f : Engine → Engine, ringQueue h w e q hint = w.setEngine e f ∧
      (w.setEngine e f).stream e q =
        { st with hint := some hint, unsealed := false, rereads := 0, ringWaits := false, desc := some d
                  nextSeq := st.nextSeq + 1 } := by
  have hself : (w.setEngine e (rung q hint)).engine e = rung q hint (w.engine e) := Work.engine_setEngine_self _ _ _ he
  have hs1 : (w.setEngine e (rung q hint)).stream e q = { st with hint := some hint, unsealed := false, rereads := 0 } := by
    rw [Work.stream_setEngine_self _ he]
    exact Engine.stream_setStream_some _ hst
  have hread : engineRead h (w.setEngine e (rung q hint)) e (slotAddr st.base st.log2 st.nextSeq) 64 = .ok b := by
    rw [← hb]
    exact engineRead_congr h e _ _ rfl rfl rfl (by rw [hself]; rfl)
  have htake := (readQueue_reads (h := h) (w := w.setEngine e (rung q hint)) (e := e) (q := q) (b := b)
    (by rw [MayReadRing, hs1]; exact ⟨hen, hd, hf, rfl⟩) (by rw [hself]; exact hx) (by rw [hs1]; exact hread)).2 d
    (by rw [hs1]; exact hj) (by rw [hself]; exact hstop)
  refine ⟨fun en => (rung q hint en).setStream q (fun s =>
    { s with rereads := 0, ringWaits := false, desc := some d, nextSeq := s.nextSeq + 1 }), ?_, ?_⟩
  · rw [ringQueue_reads hint he hst hw hr, htake, Work.setStream, Work.setEngine_setEngine]
  · have : (rung q hint (w.engine e)).streams[q]? = some { st with hint := some hint, unsealed := false, rereads := 0 } := by
      simp [rung, Engine.setStream, hst]
    rw [Work.stream_setEngine_self _ he, Engine.stream_setStream_some _ this]

/-- What a collective queue that may read its ring does with the slot that it reads (14 R438). -/
theorem readColl_reads {h : Hub} {w : Work} {k : Nat} {b : List Byte} (hen : (collQ w k).enabled = true)
    (hstop : (collQ w k).stopped = false) (hd : (collQ w k).desc = none) (hcur : (collQ w k).cur = none)
    (hu : (collQ w k).unsealed = false)
    (hb : physRead h w (slotAddr (collQ w k).base (collQ w k).log2 (collQ w k).nextSeq) 64 = .ok b) :
    (judgeSlot (collQ w k).nextSeq b = .unsealed → (collQ w k).rereads ≠ 0 → (collQ w k).rereads + 1 < 64 →
      readColl h w k = w.setCollQ k (fun q => { q with rereads := q.rereads + 1 })) ∧
    (∀ d, judgeSlot (collQ w k).nextSeq b = .sealed d → readColl h w k = takeColl w k d) := by
  constructor
  · intro hj h0 h64
    simp only [readColl, hen, hstop, hd, hcur, hu, hb, hj, h0, h64, if_true, if_false]
    rfl
  · intro d hj
    simp only [readColl, hen, hstop, hd, hcur, hu, hb, hj]
    rfl

/-- FW4 takes the sealed slot that it reads where it may take a command and the completion ring has a free slot. -/
theorem readMailbox_takes {h : Hub} {w : Work} {k : Nat} {d : Desc} (hmay : mayTake h k = true)
    (hfree : cplFree h w k = true)
    (hj : judgeSlot (h.mailbox k).cmdHead
      (physBytes w (slotAddr (h.mailbox k).cmdBase (h.mailbox k).cmdLog2 (h.mailbox k).cmdHead) 64) = .sealed d) :
    readMailbox h w k = takeSlot (h.setMailbox k (fun m => { m with full := false })) w k (some d) := by
  change readMailboxFuel k (65536 + 1) h w = _
  rw [readMailboxFuel, hmay, hfree]
  simp only [Bool.not_true, Bool.false_eq_true, if_false, hj]

/-- What FW4 leaves in the mailbox whose slot it takes, and of the rest of the module. -/
theorem takeSlot_hub (h : Hub) (w : Work) (k : Nat) (cmd : Option Desc) :
    (takeSlot h w k cmd).1.ident = h.ident ∧ (takeSlot h w k cmd).1.safety = h.safety ∧
      (takeSlot h w k cmd).1.sec = h.sec ∧
      (k < h.fw.mailboxes.length → (takeSlot h w k cmd).1.mailbox k =
        { h.mailbox k with cmdHead := (h.mailbox k).cmdHead + 1, rereads := 0, cmd := cmd, busyLong := false }) := by
  refine ⟨rfl, rfl, rfl, fun hk => ?_⟩
  unfold takeSlot
  rw [Hub.mailbox_setMailbox, if_pos ⟨rfl, hk⟩]

/-- The mailboxes that are there: an open one is among them. -/
theorem lt_of_mailbox_isOpen {h : Hub} {k : Nat} (hopen : (h.mailbox k).isOpen = true) : k < h.fw.mailboxes.length := by
  by_contra hk
  rw [Hub.mailbox, List.getD_eq_default _ _ (Nat.le_of_not_lt hk)] at hopen
  exact Bool.noConfusion hopen

@[simp] theorem Hub.length_setMailbox (h : Hub) (k : Nat) (f : Mailbox → Mailbox) :
    (h.setMailbox k f).fw.mailboxes.length = h.fw.mailboxes.length := by simp [Hub.setMailbox]

theorem Hub.mailbox_setMailbox_self {h : Hub} {k : Nat} (f : Mailbox → Mailbox) (hk : k < h.fw.mailboxes.length) :
    (h.setMailbox k f).mailbox k = f (h.mailbox k) := by
  rw [Hub.mailbox_setMailbox, if_pos ⟨rfl, hk⟩]

/-- A store to the doorbell of an engine stream. -/
theorem exec_doorbell (s : State) {e q : Nat} (v : Word) (hq : q < 4) :
    exec (.doorbell e q v) s = .next { s with work := storeDoorbell s.hub s.work e q v } := by
  change onWork s (fun h w => if q < 4 then storeDoorbell h w e q v else w) = _
  simp only [onWork, if_pos hq]

/-- Settles O5: one lemma for each kind of ring says what its reader does with a slot (`readQueue_reads`,
`readColl_reads`, `readMailbox_takes`); a doorbell and a re-read only decide whether it reads. -/
theorem ringsAreReadAndReadAgain : Obligations.RingsAreReadAndReadAgain := by
  refine ⟨fun s e q v hq => ⟨fun hp => ?_, fun hp hen => ?_, ?_⟩, fun s => ⟨?_, ?_, ?_⟩⟩
  · rw [exec_doorbell s v hq, storeDoorbell, hp]
    rfl
  · rw [exec_doorbell s v hq, storeDoorbell, hp, hen]
    rfl
  · intro b d st hx he hst hstop hw hen hd hf hr hb hj
    have hp : present s.hub e = true := present_of_working hw
    have hstream : s.work.stream e q = st := Work.stream_of_getElem hst
    obtain ⟨f, hring, htaken⟩ := ringQueue_takes (w := s.work.reply 0 []) (v.setWidth 32) hx he hst hstop hw hen hd hf hr
      ((engineRead_congr (w := s.work) s.hub e _ _ rfl rfl rfl rfl).trans hb) hj
    refine ⟨{ s with work := (s.work.reply 0 []).setEngine e f }, ?_, htaken, rfl, rfl, rfl, rfl⟩
    rw [exec_doorbell s v hq, storeDoorbell, hp, hstream, hen, ← hring]
    rfl
  · intro e q b st hx hstop he hst hw hen hd hf hu hr hb
    have hstream : s.work.stream e q = st := Work.stream_of_getElem hst
    have hread := readQueue_reads (h := s.hub) (w := s.work) (e := e) (q := q) (b := b)
      (by rw [MayReadRing, hstream]; exact ⟨hen, hd, hf, hu⟩) hx (by rw [hstream]; exact hb)
    have hexec : exec (.sealReread (.engineQueue e q)) s = .next { s with work := readQueue s.hub s.work e q } := by
      change onWork s (fun h w => rereadQueue h w e q) = _
      rw [onWork, rereadQueue, hstream, if_pos ⟨by omega, hw⟩]
    rw [hstream] at hread
    constructor
    · intro hj h63
      rw [hexec, hread.1 hj (by omega) (by omega), Work.setStream_congr]
      rw [hstream]
    · intro d hj
      rw [hexec, hread.2 d hj hstop, Work.setStream_congr]
      rw [hstream]
  · intro k b hworks hen hstop hd hcur hu hr hb
    have hread := readColl_reads hen hstop hd hcur hu hb
    have hexec : exec (.sealReread (.collectiveQueue k)) s = .next { s with work := readColl s.hub s.work k } := by
      change onWork s (fun h w => rereadColl h w k) = _
      rw [onWork, rereadColl, if_pos ⟨by omega, hworks⟩]
    refine ⟨fun hj h63 => by rw [hexec, hread.1 hj (by omega) (by omega)], fun d hj hg => ?_⟩
    rw [hexec, hread.2 d hj, takeColl, hg, Bool.and_false]
    rfl
  · intro k d hr hmay hfree hj
    have hread := readMailbox_takes hmay hfree hj
    obtain ⟨hid, hsafe, hsec, hbox⟩ := takeSlot_hub (s.hub.setMailbox k (fun m => { m with full := false })) s.work k (some d)
    rw [← hread] at hid hsafe hsec hbox
    refine ⟨{ s with hub := (readMailbox s.hub s.work k).1, work := (readMailbox s.hub s.work k).2 }, ?_, hid, hsafe, hsec,
      fun hk => ?_⟩
    · change Host.Outcome.next { s with hub := (rereadMailbox s.hub s.work k).1, work := (rereadMailbox s.hub s.work k).2 } = _
      rw [rereadMailbox, if_pos (.inl (by omega))]
    · rw [hbox (by simpa using hk), Hub.mailbox_setMailbox_self _ hk]

end Sys2Proof.Machine

/-! ### Mailbox commands: doorbells, refusals and the frame of every command (14 R435 to R446) -/

namespace Sys2Proof.Machine

/-- Every command of 14 R446 is served in one frame: its row gives mailbox, opcode, processor, privilege and fields. -/
theorem exec_serves {c : Instr} {k op owner : Nat} {priv : Bool} {fields : List (Nat × Nat)}
    (hrow : mailboxRow c = some (k, op, owner, priv, fields)) :
    ∃ run after, ∀ s, exec c s = serveCommandThen op owner priv fields run after k s := by
  revert hrow
  cases c <;> rintro ⟨⟩ <;>
    (apply Exists.intro
     apply Exists.intro
     intro s
     simp only [exec, execGetVersions, execResetRequest, execSetPowerState, execSetPowerCap, execSetModuleNumber,
       execLoadRoutes, execLoadEthTable, execSetGazBase, execSetCq, execCqClearStop, execSetNextSeq, execGroupChange,
       execLoadInjection, execSetTransport, execPortStatus, execPortReset, execQuarantineRead, execQuarantineClear,
       execDirRead, execRetireEngine, execRasCounts, execMbOpen, execMbClose, execSetTensorTable, execSetXlate,
       execTelemetry, execDumpClear, execSetLogRing, execFwStageBegin, execFwStageWrite, execFwStageVerify, execFwActivate,
       execFwCancel, execConfigStage, serveCommand]
     rfl)

section
variable {op owner : Nat} {priv : Bool} {fields : List (Nat × Nat)} {run : Hub → Work → Nat → List Byte → MbResult}
  {after : List Byte → Hub → Work → Hub × Work} {k : Nat} {s : State} {d : Desc}

/-- A command that a failed processor would serve completes with 0x0608. -/
theorem serveCommandThen_failed (hheld : heldCommand s.hub k (fun o => o == op) = some d)
    (hfail : fwFailed s.hub owner = true) :
    serveCommandThen op owner priv fields run after k s = .next (completed s s.hub s.work k 0x0608 []) := by
  simp only [serveCommandThen, hheld, hfail, if_true, mbRefuse, wholeCommand_eq, completed]
  rfl

/-- A command that needs a privileged mailbox completes with 0x0603 in another one. -/
theorem serveCommandThen_unprivileged (hheld : heldCommand s.hub k (fun o => o == op) = some d)
    (hfail : fwFailed s.hub owner = false) (hruns : fwRuns s.hub owner = true) (hpriv : priv = true)
    (hbox : (s.hub.mailbox k).priv = false) :
    serveCommandThen op owner priv fields run after k s = .next (completed s s.hub s.work k 0x0603 []) := by
  simp only [serveCommandThen, hheld, hfail, hruns, hpriv, hbox, mbRefuse, wholeCommand_eq, completed]
  rfl

/-- A command with a reserved byte that is not 0 completes with 0x0604. -/
theorem serveCommandThen_reserved (hheld : heldCommand s.hub k (fun o => o == op) = some d)
    (hfail : fwFailed s.hub owner = false) (hruns : fwRuns s.hub owner = true)
    (hpriv : priv = true → (s.hub.mailbox k).priv = true) (hargs : argsReserved fields d.payload = true) :
    serveCommandThen op owner priv fields run after k s = .next (completed s s.hub s.work k 0x0604 []) := by
  have hq : (priv && !(s.hub.mailbox k).priv) = false := by cases priv <;> simp_all
  simp only [serveCommandThen, hheld, hfail, hruns, hq, hargs, mbRefuse, wholeCommand_eq, completed]
  rfl

end

/-! #### Doorbells -/

/-- A store to a mailbox's doorbell, of a module that has power and is not in Module standby. -/
theorem exec_mbDoorbell {s : State} {k : Nat} (v : Word) (hk : k < 16) (hpow : s.hub.ident.powered = true)
    (hstate : s.hub.ident.powerState ≠ 2) :
    exec (.mbDoorbell k v) s =
      .next { s with
        hub := (storeMbDoorbell s.hub (s.work.reply 0 []) k v).1
        work := (storeMbDoorbell s.hub (s.work.reply 0 []) k v).2 } :=
  if_pos ⟨hk, hpow, hstate⟩

theorem storeMbDoorbell_closed {h : Hub} {k : Nat} (w : Work) (v : Word) (hopen : (h.mailbox k).isOpen = false) :
    storeMbDoorbell h w k v = (h, w) := by
  simp only [storeMbDoorbell, hopen, Bool.not_false, if_true]

/-- Between two reads of a slot a doorbell only leaves its hint. -/
theorem storeMbDoorbell_between_reads {h : Hub} {k : Nat} (w : Work) (v : Word) (hopen : (h.mailbox k).isOpen = true)
    (hr : (h.mailbox k).rereads ≠ 0) (hu : (h.mailbox k).unsealed = false) :
    storeMbDoorbell h w k v =
      (h.setMailbox k (fun m => { m with hint := some (v.setWidth 32), unsealed := false, rereads := m.rereads }), w) := by
  have hset : h.setMailbox k (fun m =>
        { m with hint := some (v.setWidth 32), unsealed := false, rereads := if m.unsealed then 0 else m.rereads }) =
      h.setMailbox k (fun m => { m with hint := some (v.setWidth 32), unsealed := false, rereads := m.rereads }) :=
    Hub.setMailbox_congr (by simp only [hu]; rfl)
  have hbetween : (decide ((h.mailbox k).rereads ≠ 0) && !(h.mailbox k).unsealed) = true := by simp [hr, hu]
  unfold storeMbDoorbell
  dsimp only
  rw [hset, hopen, if_neg (by decide), if_pos hbetween]

/-- Otherwise FW4 reads the ring, with the doorbell's hint. -/
theorem storeMbDoorbell_idle {h : Hub} {k : Nat} (w : Work) (v : Word) (hopen : (h.mailbox k).isOpen = true)
    (hr : (h.mailbox k).rereads = 0) :
    storeMbDoorbell h w k v =
      readMailbox (h.setMailbox k (fun m => { m with hint := some (v.setWidth 32), unsealed := false, rereads := 0 })) w k := by
  have hset : h.setMailbox k (fun m =>
        { m with hint := some (v.setWidth 32), unsealed := false, rereads := if m.unsealed then 0 else m.rereads }) =
      h.setMailbox k (fun m => { m with hint := some (v.setWidth 32), unsealed := false, rereads := 0 }) :=
    Hub.setMailbox_congr (by simp only [hr, ite_self])
  simp only [storeMbDoorbell, hopen, hset, hr]
  rfl

/-- The doorbell of an idle open mailbox has FW4 take the sealed command that it finds. -/
theorem storeMbDoorbell_takes {h : Hub} {w : Work} {k : Nat} {d : Desc} (v : Word) (hopen : (h.mailbox k).isOpen = true)
    (hr : (h.mailbox k).rereads = 0) (hruns : fwRuns h 4 = true) (hcmd : (h.mailbox k).cmd = none)
    (hclosing : (h.mailbox k).closing = false) (hfree : cplFree h w k = true)
    (hj : judgeSlot (h.mailbox k).cmdHead
      (physBytes w (slotAddr (h.mailbox k).cmdBase (h.mailbox k).cmdLog2 (h.mailbox k).cmdHead) 64) = .sealed d) :
    (storeMbDoorbell h w k v).1.ident = h.ident ∧ (storeMbDoorbell h w k v).1.safety = h.safety ∧
      (storeMbDoorbell h w k v).1.mailbox k =
        { h.mailbox k with
          hint := some (v.setWidth 32), unsealed := false, full := false, cmdHead := (h.mailbox k).cmdHead + 1
          rereads := 0, cmd := some d, busyLong := false } := by
  have hk := lt_of_mailbox_isOpen hopen
  set h1 := h.setMailbox k (fun m => { m with hint := some (v.setWidth 32), unsealed := false, rereads := 0 }) with hh1
  have hbox : h1.mailbox k = { h.mailbox k with hint := some (v.setWidth 32), unsealed := false, rereads := 0 } :=
    Hub.mailbox_setMailbox_self _ hk
  have hmay : mayTake h1 k = true := by
    have hr4 : fwRuns h1 4 = true := hruns
    simp [mayTake, hbox, hr4, hopen, hcmd, hclosing]
  have hfree1 : cplFree h1 w k = true := by
    rw [← hfree]
    simp only [cplFree, hbox]
  have hread : readMailbox h1 w k = takeSlot (h1.setMailbox k (fun m => { m with full := false })) w k (some d) :=
    readMailbox_takes hmay hfree1 (by rw [hbox]; exact hj)
  obtain ⟨hid, hsafe, -, htake⟩ := takeSlot_hub (h1.setMailbox k (fun m => { m with full := false })) w k (some d)
  rw [storeMbDoorbell_idle w v hopen hr, ← hh1, hread]
  refine ⟨hid, hsafe, ?_⟩
  rw [htake (by simpa [hh1] using hk), Hub.mailbox_setMailbox_self _ (by simpa [hh1] using hk), hbox]

/-- Settles O42: a doorbell discards, leaves its hint or has the ring read (`storeMbDoorbell_closed`,
`storeMbDoorbell_between_reads`, `storeMbDoorbell_takes`); the checks before a command are those of the frame that every
command is served in (`exec_serves`). -/
theorem mailboxCommandsAreTakenAndChecked : Obligations.MailboxCommandsAreTakenAndChecked := by
  refine ⟨fun s k => ⟨fun v hk hpow hstate => ⟨fun hopen => ?_, fun hopen hr hu => ?_, fun d hopen hr hruns hcmd hclosing hfree
    hj => ?_⟩, fun d hheld => ?_⟩, fun s c k op owner priv fields d hrow hheld => ?_⟩
  · rw [exec_mbDoorbell v hk hpow hstate, storeMbDoorbell_closed _ v hopen]
  · rw [exec_mbDoorbell v hk hpow hstate, storeMbDoorbell_between_reads _ v hopen hr hu]
  · obtain ⟨hid, hsafe, hbox⟩ := storeMbDoorbell_takes (w := s.work.reply 0 []) v hopen hr hruns hcmd hclosing hfree hj
    exact ⟨_, exec_mbDoorbell v hk hpow hstate, hid, hsafe, hbox⟩
  · change execMailboxUnknownOpcode k s = _
    rw [execMailboxUnknownOpcode, hheld]
    exact wholeCommand_eq _ _ _
  · obtain ⟨run, after, hexec⟩ := exec_serves hrow
    rw [hexec]
    exact ⟨serveCommandThen_failed hheld, serveCommandThen_unprivileged hheld, serveCommandThen_reserved hheld⟩

end Sys2Proof.Machine

/-! ### What the operations on memory and the logs leave alone -/

namespace Sys2Proof.Machine

/-- From `w` to `v` only memory, the coherent lines, the logs and the count of free values have changed. -/
structure MemStep (w v : Work) : Prop where
  engines : v.engines = w.engines
  upd : v.upd = w.upd
  copier : v.copier = w.copier
  fabric : v.fabric = w.fabric
  colls : v.colls = w.colls
  tables : v.tables = w.tables
  replies : v.replies = w.replies

namespace MemStep

theorem refl (w : Work) : MemStep w w := ⟨rfl, rfl, rfl, rfl, rfl, rfl, rfl⟩

theorem trans {u v w : Work} (h : MemStep u v) (k : MemStep v w) : MemStep u w :=
  ⟨k.engines.trans h.engines, k.upd.trans h.upd, k.copier.trans h.copier, k.fabric.trans h.fabric, k.colls.trans h.colls,
    k.tables.trans h.tables, k.replies.trans h.replies⟩

theorem engine {w v : Work} (h : MemStep w v) (e : Nat) : v.engine e = w.engine e := Work.engine_congr h.engines e

theorem stream {w v : Work} (h : MemStep w v) (e q : Nat) : v.stream e q = w.stream e q := by
  unfold Work.stream
  rw [h.engine]

theorem ite {w u v : Work} {c : Prop} [Decidable c] (hu : MemStep w u) (hv : MemStep w v) :
    MemStep w (if c then u else v) := by
  split
  · exact hu
  · exact hv

theorem foldl {α : Type} {f : Work → α → Work} (hf : ∀ w x, MemStep w (f w x)) (l : List α) (w : Work) :
    MemStep w (l.foldl f w) := by
  induction l generalizing w with
  | nil => exact refl w
  | cons x l ih => exact (hf w x).trans (ih _)

theorem of_logs {w v : Work} (h : ∃ l, v = { w with logs := l }) : MemStep w v := by
  obtain ⟨l, rfl⟩ := h
  exact ⟨rfl, rfl, rfl, rfl, rfl, rfl, rfl⟩

end MemStep

theorem memStep_emit (h : Hub) (w : Work) (r : LogSource) : MemStep w (emit h w r) := .of_logs (emit_spec h w r)

theorem memStep_trace (h : Hub) (w : Work) (event : Nat) (unit : BitVec 16) (ident : Nat) :
    MemStep w (trace h w event unit ident) := .of_logs (trace_spec h w event unit ident)

theorem memStep_faultLog (h : Hub) (w : Work) (e : Nat) (code : Code) (isn : Word) (addr : Nat) :
    MemStep w (faultLog h w e code isn addr) := .of_logs (faultLog_spec h w e code isn addr)

theorem memStep_setHome (w : Work) (i : Nat) (f : Home → Home) : MemStep w (w.setHome i f) :=
  ⟨rfl, rfl, rfl, rfl, rfl, rfl, rfl⟩

theorem memStep_dataToHome (w : Work) (ln : Nat) (d : List Byte) (bad : Bool) : MemStep w (dataToHome w ln d bad) := by
  unfold dataToHome
  exact .ite ⟨rfl, rfl, rfl, rfl, rfl, rfl, rfl⟩ ⟨rfl, rfl, rfl, rfl, rfl, rfl, rfl⟩

theorem memStep_flushLine (w : Work) (ln : Nat) : MemStep w (flushLine w ln) := by
  have step : ∀ v : Work, MemStep w v → MemStep w { v with coh := dropCopies v.coh ln none } := fun v hv =>
    hv.trans ⟨rfl, rfl, rfl, rfl, rfl, rfl, rfl⟩
  unfold flushLine
  cases dirtyCopy w.coh ln with
  | none => exact step w (.refl w)
  | some p => exact step _ (memStep_dataToHome w ln p.1 p.2)

theorem memStep_dirNote (h : Hub) (w : Work) (ln : Nat) : MemStep w (dirNote h w ln) := by
  unfold dirNote
  dsimp only
  split
  · split
    · exact memStep_setHome _ _ _
    · split
      · exact memStep_setHome _ _ _
      · exact (memStep_flushLine w _).trans (memStep_setHome _ _ _)
  · exact .refl w

theorem memStep_badLeaves (h : Hub) (w : Work) (own : Nat) (code : Code) (p : Nat) : MemStep w (badLeaves h w own code p) := by
  unfold badLeaves
  dsimp only
  split
  · exact .refl w
  · split
    · exact (memStep_flushLine w _).trans (memStep_dirNote h _ _)
    · exact .refl w

theorem memStep_evictLine (h : Hub) (w : Work) (l : CacheLine) : MemStep w (evictLine h w l) := by
  have home : MemStep w (if dirty l = true then dataToHome w l.line l.data l.bad else w) :=
    .ite (memStep_dataToHome w _ _ _) (.refl w)
  unfold evictLine
  dsimp only
  refine MemStep.trans ?_ (memStep_dirNote h _ _)
  exact home.trans ⟨rfl, rfl, rfl, rfl, rfl, rfl, rfl⟩

theorem memStep_makeRoom (h : Hub) (w : Work) (agent ln : Nat) : MemStep w (makeRoom h w agent ln) := by
  unfold makeRoom
  dsimp only
  split
  · exact .refl w
  · split
    · exact memStep_evictLine h w _
    · exact .refl w

theorem memStep_shareLine (h : Hub) (w : Work) (agent ln : Nat) : MemStep w (shareLine h w agent ln) := by
  unfold shareLine
  split
  · exact .refl w
  · dsimp only
    refine MemStep.trans ?_ (memStep_dirNote h _ ln)
    exact (memStep_makeRoom h w agent ln).trans ⟨rfl, rfl, rfl, rfl, rfl, rfl, rfl⟩

theorem memStep_ownLine (h : Hub) (w : Work) (agent ln a : Nat) (bs : List Byte) :
    MemStep w (ownLine h w agent ln a bs) := by
  unfold ownLine
  dsimp only
  refine MemStep.trans ?_ (memStep_dirNote h _ ln)
  exact (memStep_makeRoom h w agent ln).trans ⟨rfl, rfl, rfl, rfl, rfl, rfl, rfl⟩

theorem memStep_homeStore (h : Hub) (w : Work) (a : Nat) (bs : List Byte) : MemStep w (homeStore h w a bs) := by
  have write : MemStep w { flushLine w (lineOf a) with mem := memWrite (flushLine w (lineOf a)).mem a bs } :=
    (memStep_flushLine w (lineOf a)).trans ⟨rfl, rfl, rfl, rfl, rfl, rfl, rfl⟩
  unfold homeStore
  dsimp only
  exact (MemStep.ite (write.trans (memStep_setHome _ _ _)) write).trans (memStep_dirNote h _ _)

theorem memStep_physWrite (h : Hub) (w : Work) (a : Nat) (bs : List Byte) : MemStep w (physWrite h w a bs) := by
  unfold physWrite
  exact .ite (.foldl (fun w p => .ite (memStep_setHome _ _ _) (memStep_homeStore h w _ _)) _ w)
    ⟨rfl, rfl, rfl, rfl, rfl, rfl, rfl⟩

theorem memStep_cacheWrite (h : Hub) (w : Work) (agent a : Nat) (bs : List Byte) :
    MemStep w (cacheWrite h w agent a bs) := by
  unfold cacheWrite
  exact .ite (.foldl (fun w p => .ite (memStep_setHome _ _ _) (memStep_ownLine h w _ _ _ _)) _ w)
    ⟨rfl, rfl, rfl, rfl, rfl, rfl, rfl⟩

theorem memStep_rawStore {h : Hub} {w v : Work} {a : Nat} {bs : List Byte} (hs : rawStore h w a bs = .ok v) :
    MemStep w v := by
  unfold rawStore at hs
  split at hs
  · cases hs
  · split at hs
    · cases hs
    · cases hs
      exact .foldl (fun v (p : Nat × List Byte) => memStep_physWrite h v p.1 p.2) _ w

theorem memStep_closeAt {h : Hub} {w v : Work} {entry : Nat} (hs : closeAt h w entry = .ok v) : MemStep w v := by
  unfold closeAt at hs
  dsimp only at hs
  split at hs
  · cases hs
  · split at hs
    · cases hs
    · split at hs
      · cases hs
      · rename_i w1 hraw
        have raw := memStep_rawStore hraw
        split at hs
        · cases hs
          exact raw.trans (memStep_emit h w1 _)
        · cases hs
          exact raw

theorem memStep_storeClosing {h : Hub} {put : Work → Nat → List Byte → Work} (hput : ∀ w a bs, MemStep w (put w a bs))
    {ps : List (Nat × List Byte)} {w v : Work} (hs : storeClosing h put ps w = .ok v) : MemStep w v := by
  induction ps generalizing w with
  | nil => cases hs; exact .refl _
  | cons p ps ih =>
    unfold storeClosing at hs
    split at hs
    · exact (hput w p.1 p.2).trans (ih hs)
    · split at hs
      · cases hs
      · rename_i t bs _ _ w1 hclose
        exact ((hput w p.1 bs).trans (memStep_closeAt hclose)).trans (ih hs)

/-- A write of an engine changes memory, lines and logs only. -/
theorem memStep_engineStore {h : Hub} {w v : Work} {e a : Nat} {noAlloc : Bool} {bs : List Byte}
    (hs : engineStore h w e noAlloc a bs = .ok v) : MemStep w v := by
  unfold engineStore at hs
  split at hs
  · cases hs
  · dsimp only at hs
    split at hs
    · cases hs
    · exact memStep_storeClosing (fun w a bs => .ite (memStep_physWrite h w a bs) (memStep_cacheWrite h w _ a bs)) hs

theorem memStep_moduleStore {h : Hub} {w v : Work} {a : Nat} {bs : List Byte} (hs : moduleStore h w a bs = .ok v) :
    MemStep w v := by
  unfold moduleStore at hs
  split at hs
  · cases hs
  · split at hs
    · cases hs
    · exact memStep_storeClosing (fun w a bs => memStep_physWrite h w a bs) hs

theorem memStep_physStore {h : Hub} {w v : Work} {a : Nat} {bs : List Byte} (hs : physStore h w a bs = .ok v) :
    MemStep w v := by
  unfold physStore at hs
  split at hs
  · cases hs
  · exact memStep_storeClosing (fun w a bs => memStep_physWrite h w a bs) hs

theorem memStep_physPut (h : Hub) (w : Work) (a : Nat) (bs : List Byte) : MemStep w (physPut h w a bs) := by
  unfold physPut
  split
  · rename_i w1 hs
    exact memStep_physStore hs
  · exact .refl w

end Sys2Proof.Machine

/-! ### The sequencer: control instructions, ends, refusals and issue (07 R174 to R206) -/

namespace Sys2Proof.Machine

/-- The word that a stream may issue now goes to the instruction's own part. -/
theorem onWork_decides {s : State} {e q word : Nat} {mine : Nat → Bool} {run : Hub → Work → Nat → Work}
    (hf : Finds s e q mine word) :
    onWork s (fun h w => decideInstr h w e q mine (run h)) = .next { s with work := run s.hub (taken s e q) word } := by
  rw [onWork, decideInstr_finds s e q mine (run s.hub) word hf]

/-! #### Control instructions -/

/-- A register takes its value as the stream goes on to PC `pc`; D0 stays as it is. -/
theorem advance_setReg (st : Stream) (pc v : Word) (n : Nat) :
    (advance st pc).setReg n v = { st with isn := st.isn + 1, pc := pc, d := if n = 0 then st.d else st.d.set n v } := by
  unfold Stream.setReg
  split <;> rfl

theorem branchTaken_iff (a b : Word) :
    (branchTaken 0 a b = true ↔ a = b) ∧ (branchTaken 1 a b = true ↔ a ≠ b) ∧
    (branchTaken 2 a b = true ↔ a.toNat < b.toNat) ∧ (branchTaken 3 a b = true ↔ b.toNat ≤ a.toNat) ∧
    (branchTaken 4 a b = true ↔ a.toInt < b.toInt) ∧ (branchTaken 5 a b = true ↔ b.toInt ≤ a.toInt) := by
  simp [branchTaken, BitVec.ult, BitVec.ule, BitVec.slt, BitVec.sle]

/-- Settles O9: the sequencer hands the word over (`onWork_decides`), and each instruction is one update of its stream. -/
theorem controlInstructionsMoveTheStream : Obligations.ControlInstructionsMoveTheStream := by
  refine ⟨fun s e q word => ⟨fun hf => ?_, fun hf => ?_, fun hf => ?_, fun hf => ?_⟩, branchTaken_iff⟩
  · simp only [exec, execNop, onWork_decides hf, advance]
  · simp only [exec, execSetd, onWork_decides hf, advance_setReg]
  · simp only [exec, execAddd, onWork_decides hf, advance_setReg]
  · simp only [exec, execBranch, onWork_decides hf, advance, add_ite]

/-! #### Issue -/

/-- What an issued operation is (07 R180, R184, R186). -/
def issuedOp (en : Engine) (q word : Nat) (conv : Option ConvIssue) (release : Bool) (kind : OpKind) : Op :=
  { id := en.nextId, stream := q, isn := (en.stream q).isn + 1, pc := (en.stream q).pc, opcode := bitsOf word 0 8
    release := release, phase := .issued, planes := 0, trapEnable := en.trap.enable, trapRecord := en.trap.record
    word := word, conv := conv, kind := kind }

/-- The engine once an instruction is issued. -/
def issuedIn (en : Engine) (q word : Nat) (conv : Option ConvIssue) (acquire release : Bool) (kind : OpKind) : Engine :=
  { en.setStream q (fun s => { advance s (s.pc + 16) with acquire := if acquire then some en.nextId else s.acquire })
    with ops := en.ops ++ [issuedOp en q word conv release kind], nextId := en.nextId + 1 }

theorem issueOp_eq (w : Work) (e q word : Nat) (conv : Option ConvIssue) (acquire release : Bool) (kind : OpKind) :
    issueOp w e q word conv acquire release kind =
      w.setEngine e (fun en => issuedIn en q word conv acquire release kind) := rfl

theorem Engine.stream_setStream_self {en : Engine} {q : Nat} (f : Stream → Stream) (hq : q < en.streams.length) :
    (en.setStream q f).stream q = f (en.stream q) := by
  rw [Engine.stream_setStream, if_pos ⟨rfl, hq⟩]

theorem Engine.stream_setStream_other {en : Engine} {q x : Nat} (f : Stream → Stream) (hx : q ≠ x) :
    (en.setStream q f).stream x = en.stream x := by
  rw [Engine.stream_setStream, if_neg fun h => hx h.1]

theorem Work.stream_setStream_self {w : Work} {e q : Nat} (f : Stream → Stream) (he : e < w.engines.length)
    (hq : q < (w.engine e).streams.length) : (w.setStream e q f).stream e q = f (w.stream e q) := by
  rw [Work.stream_setStream, if_pos ⟨rfl, he, rfl, hq⟩]

theorem bitsOf_low_byte (word : Nat) : bitsOf word 0 8 = word % 256 := by simp [bitsOf]

/-- Issuing changes its own engine and stream as 07 R184 says, and nothing else. -/
theorem issueOp_spec (w : Work) (e q word : Nat) (conv : Option ConvIssue) (acq rel : Bool) (k : OpKind)
    (he : e < w.engines.length) (hq : q < (w.engine e).streams.length) :
    (issueOp w e q word conv acq rel k).engine e = issuedIn (w.engine e) q word conv acq rel k ∧
      (issueOp w e q word conv acq rel k).stream e q =
        { w.stream e q with
          isn := (w.stream e q).isn + 1, pc := (w.stream e q).pc + 16
          acquire := if acq then some (w.engine e).nextId else (w.stream e q).acquire } ∧
      (∀ q', q' ≠ q → (issueOp w e q word conv acq rel k).stream e q' = w.stream e q') ∧
      (∀ e', e' ≠ e → (issueOp w e q word conv acq rel k).engine e' = w.engine e') := by
  have hself := Work.engine_setEngine_self w e (fun en => issuedIn en q word conv acq rel k) he
  rw [issueOp_eq]
  refine ⟨hself, ?_, fun q' hq' => ?_, fun e' he' => Work.engine_setEngine_other _ _ _ _ he'.symm⟩
  · rw [Work.stream_setEngine_self _ he]
    exact Engine.stream_setStream_self _ hq
  · rw [Work.stream_setEngine_self _ he]
    exact Engine.stream_setStream_other _ hq'.symm

/-- A bulk transfer that passes its checks is issued, and a lossy store reserves its draws (10 R294). -/
theorem issueBulk_accepted {s : State} {e q word : Nat} {load : Bool} {p : BulkP} {conv : Option ConvIssue}
    (hcheck : checkBulk s.hub (taken s e q) e q word load = .ok (p, conv)) :
    issueBulk s.hub (taken s e q) e q word load = issuedBulk s e q word p conv := by
  cases hk : p.keep <;> cases conv <;> simp only [issueBulk, issuedBulk, hcheck, hk]

/-- Settles O11: issue is one update of its engine (`issueOp_spec`), and each instruction that passes its checks issues. -/
theorem instructionsIssueToTheirUnits : Obligations.InstructionsIssueToTheirUnits := by
  refine ⟨fun w e q word conv acq rel k he hq => ?_, fun s e q word => ⟨fun p hf hcheck => ?_, fun p claim hf hcheck =>
    ⟨fun hc => ?_, fun hc => ?_⟩⟩, fun s e q word => ⟨fun p conv hcheck hf => ?_, fun p conv hcheck hf => ?_, fun hf =>
    ⟨fun ha => ?_, fun ha => ?_⟩⟩⟩
  · obtain ⟨hen, hst, hother, heng⟩ := issueOp_spec w e q word conv acq rel k he hq
    refine ⟨issuedOp (w.engine e) q word conv rel k, ?_, rfl, rfl, rfl, rfl, bitsOf_low_byte word, rfl, rfl, rfl, rfl, ?_, hst,
      hother, heng, rfl⟩
    · rw [hen, issuedIn]
    · rw [hen, issuedIn]
  · simp only [exec, execWload, onWork_decides hf, hcheck]
    rfl
  · simp only [exec, execArray, onWork_decides hf, hcheck, hc]
    rfl
  · simp only [exec, execArray, onWork_decides hf, hcheck, hc]
    rfl
  · simp only [exec, execBulkLoad, onWork_decides hf, issueBulk_accepted hcheck]
  · simp only [exec, execBulkStore, onWork_decides hf, issueBulk_accepted hcheck]
  · simp only [exec, execAtomic, onWork_decides hf, ha]
    rfl
  · simp only [exec, execAtomic, onWork_decides hf, if_pos ha]

/-! #### Refusals at issue -/

/-- What the sequencer refuses in the turn of a ready stream (07 R181, R206, R557). -/
theorem decideInstr_refuses {h : Hub} {w : Work} {e q : Nat} {mine : Nat → Bool} {run : Work → Nat → Work} {c : Code}
    {op a t : Nat} (hturn : streamTurn h w e q = true) (hf : fetchAt h w e q mine = .refuse c op a t) :
    decideInstr h w e q mine run = refuseInstr h (serveStream w e q) e q c op a none t := by
  have hfetch : fetch h w e q mine = .refuse c op a t := by rw [fetch, if_pos hturn, hf]
  unfold decideInstr
  rw [hfetch]

theorem fetchAt_beyond_length {h : Hub} {w : Work} {e q : Nat} (mine : Nat → Bool) (hready : streamReady h w e q = true)
    (hpc : (w.stream e q).length ≤ (w.stream e q).pc.toNat) : fetchAt h w e q mine = .refuse 0x0203 0 0 0 := by
  unfold Work.stream at hpc
  simp only [fetchAt, hready, hpc, if_true, Bool.not_true, Bool.false_eq_true, if_false]

theorem fetchAt_unknown {h : Hub} {w : Work} {e q word : Nat} (mine : Nat → Bool) (hready : streamReady h w e q = true)
    (hpc : (w.stream e q).pc.toNat < (w.stream e q).length)
    (hword : engineNat h w e (fetchAddr (w.stream e q)) 16 = .ok word) (hop : knownOpcode (bitsOf word 0 8) = false) :
    fetchAt h w e q mine = .refuse 0x0201 (bitsOf word 0 8) 0 0 := by
  unfold Work.stream at hpc hword
  simp only [fetchAt, hready, if_neg (Nat.not_le.2 hpc), hword, hop, Bool.not_true, Bool.not_false, Bool.false_eq_true, if_false,
    if_true]

theorem fetchAt_reserved {h : Hub} {w : Work} {e q word : Nat} {mine : Nat → Bool} (hready : streamReady h w e q = true)
    (hpc : (w.stream e q).pc.toNat < (w.stream e q).length)
    (hword : engineNat h w e (fetchAddr (w.stream e q)) 16 = .ok word) (hop : knownOpcode (bitsOf word 0 8) = true)
    (hmine : mine word = true) (hatomic : atomicHazard (w.engine e) q word = false)
    (hunit : unitOfOpcode (bitsOf word 0 8) = .control ∨ unitFull (w.engine e) (unitOfOpcode (bitsOf word 0 8)) q = false)
    (hres : reservedBits word = true ∨ reservedValue word = true) :
    fetchAt h w e q mine = .refuse 0x0201 (bitsOf word 0 8) 0 (tensorOf (w.stream e q) word) := by
  have hfree : (unitOfOpcode (bitsOf word 0 8) != .control && unitFull (w.engine e) (unitOfOpcode (bitsOf word 0 8)) q) =
      false := by
    rcases hunit with hc | hfull
    · simp [hc]
    · simp [hfull]
  have hbad : (reservedBits word || reservedValue word) = true := by simpa using hres
  unfold Work.stream at hpc hword ⊢
  simp only [fetchAt, hready, if_neg (Nat.not_le.2 hpc), hword, hop, hmine, hatomic, hfree, hbad, Bool.not_true, Bool.or_self,
    Bool.false_eq_true, if_false, if_true]

/-! #### The record of a fault -/

/-- A stream once its first fault is recorded (07 R206 steps 1 to 3, R212). -/
def firstFault (code : Code) (f : FaultAt) (st : Stream) : Stream :=
  { st with
    faulting := some code
    record :=
      ⟨code, f.opcode, 0, f.isn, f.pc, BitVec.ofNat 64 f.addr, (f.detail.getD (0, 0, 0)).1, (f.detail.getD (0, 0, 0)).2.1,
        (f.detail.getD (0, 0, 0)).2.2, f.detail.isSome, f.tensorId⟩ }

/-- A stream once a later fault is counted. -/
def laterFault (st : Stream) : Stream := { st with record := { st.record with later := min (st.record.later + 1) 255 } }

/-- A fault is recorded in its stream and counted in its engine; operations and the other streams stay as they are. -/
theorem memStep_recordFault (h : Hub) (w : Work) (e q : Nat) (code : Code) (f : FaultAt) :
    MemStep
      (w.setEngine e (fun en =>
        { en.setStream q (fun st =>
            if (w.stream e q).faulting.isNone && !(w.stream e q).fault then firstFault code f st else laterFault st) with
          xl := countMemError en.xl code }))
      (recordFault h w e q code f) := by
  unfold recordFault
  dsimp only
  refine MemStep.trans ?_ (memStep_faultLog h _ e code f.isn f.addr)
  cases engineAddr h w e false f.addr with
  | ok p => exact .ite (memStep_badLeaves h _ _ _ _) (.refl _)
  | error c => exact .refl _

/-- The first fault of a stream. -/
theorem memStep_recordFault_first {h : Hub} {w : Work} {e q : Nat} {code : Code} {f : FaultAt}
    (hnone : (w.stream e q).faulting = none) (hfault : (w.stream e q).fault = false) :
    MemStep
      (w.setEngine e (fun en => { en.setStream q (firstFault code f) with xl := countMemError en.xl code }))
      (recordFault h w e q code f) := by
  have hrec := memStep_recordFault h w e q code f
  rw [hnone, hfault] at hrec
  exact hrec

/-! #### Keeping the page, and FENCE -/

theorem Work.setEngine_id (w : Work) (e : Nat) : w.setEngine e (fun en => en) = w := by
  have : w.engines.modify e (fun en => en) = w.engines := List.modify_id e w.engines
  rw [Work.setEngine, this]

/-- Keeping a page changes the kept translations of its engine only. -/
theorem keepPage_setEngine (h : Hub) (w : Work) (e a : Nat) :
    ∃ f : XlateState → XlateState, keepPage h w e a = w.setEngine e (fun g => { g with xl := f g.xl }) := by
  have same : ∃ f : XlateState → XlateState, w = w.setEngine e (fun g => { g with xl := f g.xl }) :=
    ⟨id, (Work.setEngine_id w e).symm⟩
  unfold keepPage
  dsimp only
  split
  · exact same
  · split
    · exact same
    · rename_i l _
      exact ⟨fun x =>
        { x with
          kept :=
            (x.kept ++
              [(a / 0x200000,
                BitVec.ofNat 64 (l.phys + a % l.size / 0x200000 * 0x200000 + 3 + (if l.writable then 4 else 0) +
                  (if l.sp then 8 else 0)))]).drop (x.kept.length - 255) }, rfl⟩

/-- What taking an instruction up changes: the stream served last, the kept page, and an earlier TILE_WAIT. -/
theorem taken_eq (s : State) (e q : Nat) :
    ∃ f : XlateState → XlateState, taken s e q = s.work.setEngine e (fun en =>
      { en.setStream q (fun st => { st with tileWait := [] }) with lastServed := q, xl := f en.xl }) := by
  obtain ⟨f, hf⟩ := keepPage_setEngine s.hub (serveStream s.work e q) e (fetchAddr (s.work.stream e q))
  refine ⟨f, ?_⟩
  rw [taken, hf, serveStream, Work.setStream, Work.setEngine_setEngine, Work.setEngine_setEngine]
  rfl

/-- A FENCE behind no operation of its stream is complete at once; behind one it stays, and the stream waits for it. -/
theorem clearFence_issued (en : Engine) (q word : Nat) (hq : q < en.streams.length)
    (hids : ∀ o ∈ en.ops, o.id < en.nextId ∧ o.kind ≠ .fence) :
    let t := clearFence (issuedIn en q word none true true .fence) q
    (t.stream q).isn = (en.stream q).isn + 1 ∧ (t.stream q).pc = (en.stream q).pc + 16 ∧
      (en.ops.any (fun o => o.stream == q) = false → (t.stream q).acquire = none ∧ t.ops = en.ops) ∧
      (en.ops.any (fun o => o.stream == q) = true → (t.stream q).acquire = some en.nextId) := by
  intro t
  set fence := issuedOp en q word none true .fence with hfence
  have hops : (issuedIn en q word none true true .fence).ops = en.ops ++ [fence] := rfl
  have hst : (issuedIn en q word none true true .fence).stream q =
      { advance (en.stream q) ((en.stream q).pc + 16) with acquire := some en.nextId } := Engine.stream_setStream_self _ hq
  by_cases hprior : en.ops.any (fun o => o.stream == q) = true
  · obtain ⟨x, hx, hxq⟩ : ∃ x ∈ en.ops, en.ops.find? (fun o => o.stream == q) = some x := by
      obtain ⟨x, hx, hxq⟩ := List.any_eq_true.1 hprior
      cases hfind : en.ops.find? (fun o => o.stream == q) with
      | none => exact absurd hxq (List.find?_eq_none.1 hfind x hx)
      | some y => exact ⟨y, List.mem_of_find?_eq_some hfind, rfl⟩
    have ht : t = issuedIn en q word none true true .fence := by
      have hkind : (x.kind == .fence) = false := by simpa using (hids x hx).2
      simp only [t, clearFence, hops, List.find?_append, hxq, Option.some_or, hkind, Bool.false_eq_true, if_false]
    rw [ht, hst]
    exact ⟨rfl, rfl, fun h => absurd hprior (by simp [h]), fun _ => rfl⟩
  · have hnone : en.ops.find? (fun o => o.stream == q) = none := by
      rw [List.find?_eq_none]
      intro x hx hxq
      exact hprior (List.any_eq_true.2 ⟨x, hx, hxq⟩)
    have hfind : (issuedIn en q word none true true .fence).ops.find? (fun o => o.stream == q) = some fence := by
      rw [hops, List.find?_append, hnone]
      simp [hfence, issuedOp]
    have ht : t = dropOp (issuedIn en q word none true true .fence) fence := by
      simp only [t, clearFence, hfind]
      rfl
    have hlen : q < (issuedIn en q word none true true .fence).streams.length := by
      simpa [issuedIn, Engine.setStream] using hq
    have hstt : t.stream q = { advance (en.stream q) ((en.stream q).pc + 16) with acquire := none } := by
      rw [ht]
      refine (Engine.stream_setStream_self _ hlen).trans ?_
      change ({ (issuedIn en q word none true true .fence).stream q with
        acquire := if ((issuedIn en q word none true true .fence).stream q).acquire = some fence.id then none
          else ((issuedIn en q word none true true .fence).stream q).acquire } : Stream) = _
      rw [hst]
      simp [hfence, issuedOp]
    have htops : t.ops = en.ops := by
      rw [ht]
      change (en.ops ++ [fence]).filter (fun o => o.id != fence.id) = en.ops
      rw [List.filter_append, List.filter_eq_self.2 (fun o ho => by
        have := (hids o ho).1
        simp only [bne_iff_ne, ne_eq, hfence, issuedOp]
        omega)]
      simp
    rw [hstt]
    exact ⟨rfl, rfl, fun _ => ⟨rfl, htops⟩, fun h => absurd h hprior⟩

/-- Settles O10: END, TILE_WAIT and FENCE are updates of their stream (`onWork_decides`, `clearFence_issued`), what the
sequencer refuses it refuses in `fetchAt`, and a fault is recorded in its stream alone (`memStep_recordFault_first`). -/
theorem streamsWaitEndAndFault : Obligations.StreamsWaitEndAndFault := by
  refine ⟨fun s e q word => ⟨fun hf => ?_, fun hf => ?_, fun hf => ?_, fun hf he hq hids => ?_, fun hw hrun hend hfault hstop
    hops => ?_⟩, fun s e q => ⟨fun hend => ?_, fun hwait => ?_⟩, fun h w e q mine run hready hturn => ⟨fun hpc => ?_,
    fun word hpc hword => ⟨fun hop => ?_, fun hop hmine hatomic hunit hres => ?_⟩⟩, fun h w e q code f he hq hnone hfault => ?_⟩
  · simp only [exec, execEndRun, onWork_decides hf, advance]
  · simp only [exec, execTileWait, onWork_decides hf, advance]
  · simp only [exec, execFence, onWork_decides hf]
  · obtain ⟨f, htaken⟩ := taken_eq s e q
    set g : Engine → Engine := fun en =>
      { en.setStream q (fun st => { st with tileWait := [] }) with lastServed := q, xl := f en.xl } with hg
    have hgq : q < (g (s.work.engine e)).streams.length := by simpa [hg, Engine.setStream] using hq
    have hgst : (g (s.work.engine e)).stream q = { s.work.stream e q with tileWait := [] } :=
      Engine.stream_setStream_self _ hq
    have hwork : (issueOp (taken s e q) e q word none true true .fence).setEngine e (fun en => clearFence en q) =
        s.work.setEngine e (fun en => clearFence (issuedIn (g en) q word none true true .fence) q) := by
      rw [htaken, issueOp_eq, Work.setEngine_setEngine, Work.setEngine_setEngine]
    obtain ⟨hisn, hpc, hfree, hheld⟩ := clearFence_issued (g (s.work.engine e)) q word hgq hids
    rw [hgst] at hisn hpc
    refine ⟨{ s with work := s.work.setEngine e (fun en => clearFence (issuedIn (g en) q word none true true .fence) q) }, ?_,
      rfl, rfl, ?_, ?_, fun hno => ?_, fun hyes => ?_⟩
    · simp only [exec, execFence, onWork_decides hf, hwork]
    · rw [Work.stream_setEngine_self _ he]; exact hisn
    · rw [Work.stream_setEngine_self _ he]; exact hpc
    · rw [Work.stream_setEngine_self _ he, Work.engine_setEngine_self _ _ _ he]; exact hfree hno
    · rw [Work.stream_setEngine_self _ he]; exact hheld hyes
  · unfold Work.stream at hrun hend hfault ⊢
    simp only [exec, execEndComplete, onWork, hw, hrun, hend, hfault, hstop, hops]
    rfl
  · unfold Work.stream at hend
    simp [streamReady, hend]
  · unfold Work.stream at hwait
    simp [streamReady, hwait]
  · exact decideInstr_refuses hturn (fetchAt_beyond_length mine hready hpc)
  · exact decideInstr_refuses hturn (fetchAt_unknown mine hready hpc hword hop)
  · exact decideInstr_refuses hturn (fetchAt_reserved hready hpc hword hop hmine hatomic hunit hres)
  · have hrec := memStep_recordFault_first (h := h) (code := code) (f := f) hnone hfault
    have hst : ((recordFault h w e q code f).stream e q) = firstFault code f (w.stream e q) := by
      rw [hrec.stream, Work.stream_setEngine_self _ he]
      exact Engine.stream_setStream_self _ hq
    rw [hrec.engine, Work.engine_setEngine_self _ _ _ he, hst]
    exact ⟨rfl, rfl, rfl, rfl, rfl, rfl⟩

end Sys2Proof.Machine

/-! ### The tile port: PRELOAD and DRAIN (05 R128 to R140, 07 R192) -/

namespace Sys2Proof.Machine

/-- What a tile operation that runs at its end has done by then: nothing more where it has run already. -/
theorem ranAlready_or_runs {α : Type} {o : Op} {run : Work × Option α} {w w1 : Work} {end1 : Option α}
    (hran : o.phase = .ran → w1 = w ∧ end1 = none) (hrun : o.phase ≠ .ran → run = (w1, end1)) :
    (if o.phase == .ran then (w, none) else run) = (w1, end1) := by
  by_cases h : o.phase = .ran
  · obtain ⟨rfl, rfl⟩ := hran h
    rw [h]
    rfl
  · rw [hrun h, if_neg (by simpa using h)]

/-! #### What a preload of zeros writes -/

/-- +0 in FP32 is +0 in A48 (02 R50). -/
theorem toA48_zero : toA48 (decodeVal .fp32 0) = 0 := by decide +kernel

theorem preloadElems_zeros (n : Nat) (c : Counts) : (preloadElems .fp32 c (List.replicate n 0)).2 = List.replicate n 0 := by
  induction n generalizing c with
  | zero => rfl
  | succ n ih =>
    rw [List.replicate_succ, preloadElems]
    exact congrArg₂ List.cons toA48_zero (ih _)

/-- A row of zeros over a tile. -/
theorem tileGet_tileSetRow_zeros (t : Tile) (m cols m' j' : Nat) (hc : cols ≤ 512) (hj' : j' < 512) :
    tileGet (tileSetRow t m 0 (List.replicate cols 0)) m' j' = if m' = m ∧ j' < cols then 0 else tileGet t m' j' := by
  rw [tileGet_tileSetRow _ _ _ _ _ _ (by simpa using hc) hj']
  simp only [List.length_replicate, Nat.zero_add, Nat.zero_le, true_and, Nat.sub_zero]
  split_ifs with h
  · simp [List.getD_eq_getElem?_getD, h.2]
  · rfl

/-- A preload with SRC_KIND = 0 writes +0 at every element of its rectangle and at no other (05 R132). -/
theorem tileGet_preloadRows_zeros (w : Work) (p : PreloadP) (hkind : p.srcKind = 0) (hfmt : p.srcFmt = .fp32)
    (hc : p.cols ≤ 512) (n first r j : Nat) (t : Tile) (c : Counts) (hj : j < 512) :
    tileGet (preloadRows w p n first t c).1 r j =
      if p.row0 + first ≤ r ∧ r < p.row0 + first + n ∧ j < p.cols then 0 else tileGet t r j := by
  induction n generalizing first t c with
  | zero => rw [preloadRows, if_neg (by omega)]
  | succ n ih =>
    have hrow : (preloadElems p.srcFmt c (preloadRow w p first)).2 = List.replicate p.cols 0 := by
      simp only [preloadRow, hkind, hfmt, preloadElems_zeros]
    rw [preloadRows]
    dsimp only
    rw [ih, hrow, tileGet_tileSetRow_zeros _ _ _ _ _ hc hj]
    by_cases hj : j < p.cols
    · simp only [hj, and_true]
      split_ifs <;> omega
    · simp only [hj, and_false, if_false]

/-- A preload with SRC_KIND = 0 meets no NaN, merges nothing and ends well. -/
theorem runPreload_zeros {w : Work} {p : PreloadP} (h : Hub) (e : Nat) (o : Op) (hempty : p.empty = false)
    (hkind : p.srcKind = 0) :
    runPreload h w e o p =
      (w.setEngine e (fun en => en.setTile p.tile (fun _ =>
        (preloadRows w p p.rows 0 ((w.engine e).tile p.tile) (emptyCounts .a48)).1)), none) := by
  have hnans : preloadNans w p = [] := by rw [preloadNans, if_pos hkind]
  have htrap : trapNans w e o 5 p.tensorId [] = w := by
    unfold trapNans
    split
    · rfl
    · rfl
  have hhalt : trapHalts o [] = false := by simp [trapHalts]
  unfold runPreload
  dsimp only
  rw [hnans, htrap, hhalt, hempty, hkind]
  rfl

/-- Settles O15: issue and refusal are those of every tile instruction (`onWork_decides`); what zeros are written follows row by
row (`tileGet_preloadRows_zeros`). -/
theorem preloadWritesTheTile : Obligations.PreloadWritesTheTile := by
  refine fun s e q word p => ⟨fun hf hcheck => ⟨fun hempty => ?_, fun hempty hc => ?_, fun hempty hc => ?_⟩,
    fun o w1 end1 hfront hkind hran hrun => ?_, fun w1 o hempty => ?_, fun o hempty hkind => runPreload_zeros _ _ _ hempty hkind,
    fun r j t c hkind hfmt hj hcols => ?_⟩
  · simp only [exec, execPreload, onWork_decides hf, hcheck, hempty, if_true]
  · simp only [exec, execPreload, onWork_decides hf, hcheck, hempty, hc, Bool.false_eq_true, if_false, holdTile]
  · simp only [exec, execPreload, onWork_decides hf, hcheck, hempty, hc, Bool.false_eq_true, if_false, if_true, countConflict]
  · simp only [exec, execPreloadComplete, onWork, hfront, hkind, ranAlready_or_runs hran hrun]
  · simp only [endPreload, hempty, Bool.false_eq_true, if_false, Option.isNone_none, Bool.and_true]
  · simpa using tileGet_preloadRows_zeros s.work p hkind hfmt hcols p.rows 0 r j t c hj

/-! #### What a drain leaves in its tile -/

theorem Engine.tile_setTile_self {en : Engine} {t : Nat} (f : Tile → Tile) (ht : t < en.tiles.length) :
    (en.setTile t f).tile t = f (en.tile t) := by
  rw [Engine.tile_setTile, if_pos ⟨rfl, ht⟩]

/-- The tile of a drain, where it is in `w`. -/
structure TileThere (w : Work) (e t : Nat) : Prop where
  engine : e < w.engines.length
  tile : t < (w.engine e).tiles.length

theorem TileThere.of_engines {w v : Work} {e t : Nat} (h : TileThere w e t) (hv : v.engines = w.engines) :
    TileThere v e t :=
  ⟨by rw [hv]; exact h.engine, by rw [Work.engine_congr hv]; exact h.tile⟩

/-- A row of a drain that no NaN halts: its row is cleared with CLEAR = 1, and its tile is unchanged else. -/
theorem drainRow_tile {w : Work} {e : Nat} {o : Op} {p : DrainP} {ci : ConvIssue} {stored r : Nat} {s : DrainState}
    (htrap : o.trapEnable = false ∨ o.trapRecord = true) (hthere : TileThere s.work e p.tile) (hgo : s.halted = false) :
    (drainRow e o p ci stored s r).halted = false ∧ TileThere (drainRow e o p ci stored s r).work e p.tile ∧
      ((drainRow e o p ci stored s r).work.engine e).tile p.tile =
        if p.clear then tileSetRow ((s.work.engine e).tile p.tile) (p.row0 + r) 0 (List.replicate p.cols 0)
        else (s.work.engine e).tile p.tile := by
  have hclear : TileThere (clearRow s.work e p r) e p.tile ∧
      ((clearRow s.work e p r).engine e).tile p.tile =
        if p.clear then tileSetRow ((s.work.engine e).tile p.tile) (p.row0 + r) 0 (List.replicate p.cols 0)
        else (s.work.engine e).tile p.tile := by
    unfold clearRow
    split
    · refine ⟨⟨by simpa using hthere.engine, ?_⟩, ?_⟩
      · rw [Work.engine_setEngine_self _ _ _ hthere.engine]
        simpa [Engine.setTile] using hthere.tile
      · rw [Work.engine_setEngine_self _ _ _ hthere.engine, Engine.tile_setTile_self _ hthere.tile]
    · exact ⟨hthere, rfl⟩
  have key : ∀ v : Work, v.engines = (clearRow s.work e p r).engines → TileThere v e p.tile ∧
      (v.engine e).tile p.tile =
        if p.clear then tileSetRow ((s.work.engine e).tile p.tile) (p.row0 + r) 0 (List.replicate p.cols 0)
        else (s.work.engine e).tile p.tile := fun v hv =>
    ⟨hclear.1.of_engines hv, by rw [Work.engine_congr hv]; exact hclear.2⟩
  have hhalt : ∀ ev, trapHalts o ev = false := by
    intro ev
    rcases htrap with h | h <;> simp [trapHalts, h]
  unfold drainRow
  dsimp only
  rw [hgo, hhalt, if_neg Bool.false_ne_true, if_neg Bool.false_ne_true]
  split
  · exact ⟨rfl, hclear⟩
  · split
    · exact ⟨rfl, hclear⟩
    · exact ⟨rfl, key _ (by split <;> rfl)⟩

/-- The rows of a drain that no NaN halts (05 R135). -/
theorem drainRows_tile {w : Work} {e : Nat} {o : Op} {p : DrainP} {ci : ConvIssue} {stored : Nat}
    (htrap : o.trapEnable = false ∨ o.trapRecord = true) (hthere : TileThere w e p.tile) (hc : p.cols ≤ 512) (n r j : Nat)
    (hj : j < 512) :
    (drainRows w e o p ci n stored).halted = false ∧ TileThere (drainRows w e o p ci n stored).work e p.tile ∧
      tileGet (((drainRows w e o p ci n stored).work.engine e).tile p.tile) r j =
        if p.clear = true ∧ p.row0 ≤ r ∧ r < p.row0 + n ∧ j < p.cols then 0
        else tileGet ((w.engine e).tile p.tile) r j := by
  induction n with
  | zero => exact ⟨rfl, hthere, by rw [if_neg (by omega)]; rfl⟩
  | succ n ih =>
    obtain ⟨hgo, hthere', htile⟩ := ih
    have hstep : drainRows w e o p ci (n + 1) stored = drainRow e o p ci stored (drainRows w e o p ci n stored) n := by
      simp only [drainRows, List.range_succ, List.foldl_append, List.foldl_cons, List.foldl_nil]
    obtain ⟨hgo1, hthere1, htile1⟩ := drainRow_tile (w := w) (ci := ci) (stored := stored) (r := n) htrap hthere' hgo
    rw [hstep]
    refine ⟨hgo1, hthere1, ?_⟩
    rw [htile1]
    by_cases hcl : p.clear = true
    · rw [if_pos hcl, tileGet_tileSetRow_zeros _ _ _ _ _ hc hj, htile]
      simp only [hcl, true_and]
      by_cases hjc : j < p.cols
      · simp only [hjc, and_true]
        split_ifs <;> omega
      · simp only [hjc, and_false, if_false]
    · rw [if_neg hcl, htile]
      simp only [hcl, false_and, Bool.false_eq_true, if_false]

/-- Settles O16: issue, binding and refusal are branches of the instruction (`onWork_decides`); what a drain clears follows
row by row (`drainRows_tile`). -/
theorem drainReadsAndClearsTheTile : Obligations.DrainReadsAndClearsTheTile := by
  refine ⟨fun s e q word p ci => ⟨fun hf hcheck => ⟨fun hempty => ?_, fun hempty hc => ?_, fun hempty hc =>
    ⟨fun hhand => ?_, fun b hhand hb => ?_, fun hhand hb => ?_⟩⟩, fun o b w1 end1 hfront hkind hran hrun => ?_,
    fun o b w1 hempty => ?_⟩, fun w e o p ci n stored r j he ht htrap hcols hj => ?_⟩
  · simp only [exec, execDrain, onWork_decides hf, hcheck, hempty, if_true, Bool.not_true, Bool.and_false, Bool.false_and]
  · simp only [exec, execDrain, onWork_decides hf, hcheck, hempty, hc, Bool.false_eq_true, if_false, if_true, countConflict]
  · cases hd : anyDraw p.conv ci.marks <;>
      simp only [exec, execDrain, onWork_decides hf, hcheck, hempty, hc, hhand, hd, Bool.false_eq_true, if_false, if_true,
        Bool.false_and, Bool.not_false, Bool.and_self, Bool.and_false, holdTile]
  · simp only [exec, execDrain, onWork_decides hf, hcheck, hempty, hc, hhand, hb, Bool.false_eq_true, if_false, if_true,
      Bool.not_true, Bool.false_and, Option.isNone_some, Bool.and_false, holdTile] <;> rfl
  · simp only [exec, execDrain, onWork_decides hf, hcheck, hempty, hc, hhand, hb, Bool.false_eq_true, if_false, if_true,
      Option.isNone_none, Bool.and_self]
  · simp only [exec, execDrainComplete, onWork, hfront, hkind, ranAlready_or_runs hran hrun]
  · simp only [endDrain, hempty, Bool.false_eq_true, if_false, Option.isNone_none, Option.isSome_none, Bool.and_true,
      Bool.or_false, Option.map_none]
  · exact (drainRows_tile htrap ⟨he, ht⟩ hcols n r j hj).2.2

end Sys2Proof.Machine

/-! ### Transfers and atomics (07 R185 to R196, 12 R375) -/

namespace Sys2Proof.Machine

/-- A transfer or an atomic that its unit may run is served by its completion command. -/
theorem exec_bulkLoadComplete {s : State} {e : Nat} {o : Op} {p : BulkP} (hop : (s.work.engine e).op o.id = some o)
    (hkind : o.kind = .bulk p) (hw : working s.hub s.work e = true) (hmay : mayTransfer (s.work.engine e) o = true)
    (hload : p.load = true) :
    exec (.bulkLoadComplete e o.id) s =
      .next { s with work := wholeStep s.work (1, e, o.id) (runLoad s.hub s.work e o p) } := by
  simp only [exec, execBulkLoadComplete, onWork, hop, hkind, hw, hmay, hload, Bool.and_self, if_true]

theorem exec_bulkStoreComplete {s : State} {e : Nat} {o : Op} {p : BulkP} (hop : (s.work.engine e).op o.id = some o)
    (hkind : o.kind = .bulk p) (hw : working s.hub s.work e = true) (hmay : mayTransfer (s.work.engine e) o = true)
    (hload : p.load = false) :
    exec (.bulkStoreComplete e o.id) s =
      .next { s with work := wholeStep s.work (1, e, o.id) (runStore s.hub s.work e o p) } := by
  simp only [exec, execBulkStoreComplete, onWork, hop, hkind, hw, hmay, hload, Bool.not_false, Bool.and_self, if_true]

theorem exec_atomicComplete {s : State} {e : Nat} {o : Op} {p : AtomicP} (hop : (s.work.engine e).op o.id = some o)
    (hkind : o.kind = .atomic p) (hw : working s.hub s.work e = true) (hmay : mayTransfer (s.work.engine e) o = true) :
    exec (.atomicComplete e o.id) s =
      .next { s with work := wholeStep s.work (1, e, o.id) (runAtomic s.hub s.work e o p) } := by
  simp only [exec, execAtomicComplete, onWork, hop, hkind, hw, hmay, Bool.and_self, if_true]

/-- Nothing is left to send: the packets have left, or no span lies in another module. -/
theorem nothing_to_send {α : Type} {h : Hub} {sent : Bool} {l : List α} {far : α → Nat}
    (hhere : sent = true ∨ ∀ x ∈ l, isRemote h (far x) = false) : (!sent && l.any (fun x => isRemote h (far x))) = false := by
  rcases hhere with rfl | hlocal
  · rfl
  · have hnone : l.any (fun x => isRemote h (far x)) = false := List.any_eq_false.2 fun x hx => by simp [hlocal x hx]
    rw [hnone, Bool.and_false]

section
variable {h : Hub} {w : Work} {e : Nat} {o : Op} {p : BulkP}

/-! #### Loads -/

theorem runLoad_empty (hempty : p.rowBytes = 0 ∨ p.rows = 0) : runLoad h w e o p = completeOp h w e o := by
  rw [runLoad, if_pos hempty]

/-- A plain load whose words are all here, or are on their way. -/
theorem runLoad_plain (hbytes : p.rowBytes ≠ 0) (hrows : p.rows ≠ 0) (hwait : p.waiting = []) (hkeep : p.keep = none) :
    runLoad h w e o p =
      if !p.sent && (bulkSpans p).any (fun x => isRemote h x.1) then
        (bulkSpans p).foldl (fun w x => sendBulk h e o p w x.1 x.2.2 []) (setBulk w e o (fun p => { p with sent := true }))
      else finishLoad2 h w e o p := by
  have hne : ¬ (p.rowBytes = 0 ∨ p.rows = 0) := by simp [hbytes, hrows]
  unfold runLoad
  rw [if_neg hne, hwait, hkeep]
  rfl

/-- A load through the codec goes on where no answer is out. -/
theorem runLoad_frame {u : KeepUse} (hbytes : p.rowBytes ≠ 0) (hrows : p.rows ≠ 0) (hwait : p.waiting = [])
    (hkeep : p.keep = some u) : runLoad h w e o p = runFrameLoad h w e o p := by
  have hne : ¬ (p.rowBytes = 0 ∨ p.rows = 0) := by simp [hbytes, hrows]
  unfold runLoad
  rw [if_neg hne, hwait, hkeep]
  rfl

/-- The frame of a load whose header and payload are here, and can be read, is decoded into the near rows. -/
theorem runFrameLoad_decodes {hd : List Byte} (hfail : p.fail = none)
    (hhere : isRemote h p.far = false ∨ ∀ a ∈ [p.far, p.far + 64], ∃ x ∈ p.got, x.1 = a)
    (hread : farRead h w e p p.far 64 = .ok hd) (hok : headerRefused hd p.rowBytes p.rows = false)
    (hload : loadFault h w e p (frameSpans p (some hd)) = none) :
    runFrameLoad h w e o p =
      completeOp h
        (((p.far, 0, 64) :: frameSpans p (some hd)).foldl (fun w x => allocFar h w e p x.1 x.2.2)
          (writeNear (keepFar h w e (((p.far, 0, 64) :: frameSpans p (some hd)).map (fun x => x.1))) p
            (decodeFrame hd ((frameSpans p (some hd)).flatMap (fun x => farBytes h w e p x.1 x.2.2)) p.rowBytes p.rows)))
        e o := by
  have here : ∀ a ∈ [p.far, p.far + 64], (!isRemote h p.far || p.got.any (fun x => x.1 == a)) = true := by
    intro a ha
    rcases hhere with hlocal | hgot
    · simp [hlocal]
    · obtain ⟨x, hx, hxa⟩ := hgot a ha
      have : p.got.any (fun x => x.1 == a) = true := List.any_eq_true.2 ⟨x, hx, by simpa using hxa⟩
      simp [this]
  unfold runFrameLoad
  simp only [hfail, here p.far (by simp), here (p.far + 64) (by simp), hread, hok, hload, Bool.not_true, Bool.false_eq_true,
    if_false]

/-! #### Stores -/

theorem runStore_empty (hempty : p.rowBytes = 0 ∨ p.rows = 0) : runStore h w e o p = completeOp h w e o := by
  rw [runStore, if_pos hempty]

theorem runStore_sends (hbytes : p.rowBytes ≠ 0) (hrows : p.rows ≠ 0) (hsent : p.sent = false)
    (hremote : ∃ x ∈ (storeSpans w o p).1, isRemote h x.1 = true) :
    runStore h w e o p =
      (storeSpans w o p).1.foldl (fun w x => sendBulk h e o p w x.1 x.2.length x.2)
        (setBulk w e o (fun p => { p with sent := true })) := by
  have hne : ¬ (p.rowBytes = 0 ∨ p.rows = 0) := by simp [hbytes, hrows]
  have hany : (!p.sent && (storeSpans w o p).1.any (fun x => isRemote h x.1)) = true := by
    rw [hsent]
    simpa using hremote
  unfold runStore
  dsimp only
  rw [if_neg hne, if_pos hany]

theorem runStore_writes (hbytes : p.rowBytes ≠ 0) (hrows : p.rows ≠ 0) (hwait : p.waiting = [])
    (hhere : p.sent = true ∨ ∀ x ∈ (storeSpans w o p).1, isRemote h x.1 = false) :
    runStore h w e o p =
      finishStore h w e o p (storeSpans w o p).1 ((p.keep.map (fun u => u.entry)).getD 0) (storeSpans w o p).2 := by
  have hne : ¬ (p.rowBytes = 0 ∨ p.rows = 0) := by simp [hbytes, hrows]
  unfold runStore
  dsimp only
  rw [if_neg hne, nothing_to_send hhere, hwait]
  rfl

end

/-! #### Atomics -/

/-- The operations of 12 R375 keep the width of their value. -/
theorem atomicNew_lt (aop width old operand compare : Nat) (hold : old < 2 ^ (8 * width)) :
    atomicNew aop width old operand compare < 2 ^ (8 * width) := by
  have hop : operand % 2 ^ (8 * width) < 2 ^ (8 * width) := Nat.mod_lt _ (Nat.two_pow_pos _)
  unfold atomicNew
  dsimp only
  split
  · exact Nat.mod_lt _ (Nat.two_pow_pos _)
  · exact hop
  · split
    · exact hop
    · exact hold
  · exact Nat.and_lt_two_pow _ hop
  · exact Nat.or_lt_two_pow hold hop
  · exact Nat.xor_lt_two_pow hold hop
  · split
    · exact hop
    · exact hold
  · split
    · exact hop
    · exact hold
  · exact lt_of_le_of_lt (min_le_left _ _) hold
  · exact max_lt hold hop

/-- Settles O19: each completion command runs its transfer (`exec_bulkLoadComplete`, `exec_bulkStoreComplete`,
`exec_atomicComplete`), and the transfer takes the branch that its block calls for. -/
theorem transfersMoveTheirBytes : Obligations.TransfersMoveTheirBytes := by
  refine ⟨fun s e o p hop hkind hw hmay => ⟨fun hempty => ⟨fun hload => ?_, fun hload => ?_⟩, fun hbytes hrows hload hwait hkeep =>
    ⟨fun hsent hremote => ?_, fun hhere hfault => ?_⟩, fun u hd hbytes hrows hload hwait hkeep hfail hhere hread hok hfault => ?_,
    fun hbytes hrows hload => ⟨fun hsent hremote => ?_, fun hwait hhere hfault => ⟨fun hcounts => ?_,
    fun c u w2 hcounts hkeep hmerge => ?_⟩⟩⟩, fun s e o p hop hkind hw hmay => ⟨fun a x b w1 hself haddr hread hstore => ?_,
    fun m a hremote => ⟨fun w1 hanswer hsent hsend => ?_, fun v hanswer => ?_, fun c v hanswer hc => ?_⟩⟩,
    fun aop width old operand compare _ hold => ⟨atomicNew_lt _ _ _ _ _ hold, ?_, rfl⟩⟩
  · rw [exec_bulkLoadComplete hop hkind hw hmay hload, runLoad_empty hempty]
  · rw [exec_bulkStoreComplete hop hkind hw hmay hload, runStore_empty hempty]
  · have hany : (!p.sent && (bulkSpans p).any (fun x => isRemote s.hub x.1)) = true := by
      rw [hsent]
      simpa using hremote
    rw [exec_bulkLoadComplete hop hkind hw hmay hload, runLoad_plain hbytes hrows hwait hkeep, if_pos hany]
  · rw [exec_bulkLoadComplete hop hkind hw hmay hload, runLoad_plain hbytes hrows hwait hkeep, nothing_to_send hhere]
    simp only [finishLoad2, hfault, Bool.false_eq_true, if_false]
  · rw [exec_bulkLoadComplete hop hkind hw hmay hload, runLoad_frame hbytes hrows hwait hkeep,
      runFrameLoad_decodes hfail hhere hread hok hfault]
  · rw [exec_bulkStoreComplete hop hkind hw hmay hload, runStore_sends hbytes hrows hsent hremote]
  · rw [exec_bulkStoreComplete hop hkind hw hmay hload, runStore_writes hbytes hrows hwait hhere, hcounts]
    simp only [finishStore, hfault] <;> rfl
  · rw [exec_bulkStoreComplete hop hkind hw hmay hload, runStore_writes hbytes hrows hwait hhere, hcounts, hkeep]
    simp only [finishStore, hfault, Option.map_some, Option.getD_some]
    generalize hmerged : mergeOp _ _ _ _ _ = r
    obtain rfl : r = .ok w2 := hmerged.symm.trans hmerge
    rfl
  · rw [exec_atomicComplete hop hkind hw hmay]
    simp only [runAtomic, hself, haddr, atomicAt, hread, hstore]
    rfl
  · rw [exec_atomicComplete hop hkind hw hmay]
    rw [hanswer] at hsend
    simp only [runAtomic, hremote, hanswer, hsent, hsend, Bool.false_eq_true, if_false, if_true]
  · rw [exec_atomicComplete hop hkind hw hmay]
    simp only [runAtomic, hremote, hanswer]
    rfl
  · rw [exec_atomicComplete hop hkind hw hmay]
    simp only [runAtomic, hremote, hanswer, if_neg hc]
  · change (old + operand % 2 ^ (8 * width)) % 2 ^ (8 * width) = _
    rw [Nat.add_mod_mod]

end Sys2Proof.Machine

/-! ### Descriptors: RUN, SET_GEN and the end of every descriptor (07 R173 to R176, R206) -/

namespace Sys2Proof.Machine

/-- A descriptor whose reserved bytes and COMPL_ADDR are in order opens, its completion address held. -/
theorem openDesc_runs {s : State} {e q : Nat} {d : Desc} {reserved : Bool} (run : Work → Work) (hc : ComplOk s d)
    (hres : reserved = false) : openDesc s.hub s.work e q d reserved run = run (opened s e q d) := by
  unfold ComplOk at hc
  simp only [openDesc, hc, hres, opened, Bool.not_true, Bool.false_eq_true, if_false, if_true]

/-- A held RUN on an engine that is not stopped, its address in order, has its header read. -/
theorem exec_run {s : State} {e q : Nat} {d : Desc} {b : List Byte} (hheld : Held s e q 0x0E01 d) (hc : ComplOk s d)
    (hstop : (s.work.engine e).stopped = false) (halign : fld d.payload 0 8 % 64 = 0)
    (hin : inOneRegion s.hub (fld d.payload 0 8) 64 = true)
    (hread : engineRead s.hub (keepPage s.hub (opened s e q d) e (fld d.payload 0 8)) e (fld d.payload 0 8) 64 = .ok b) :
    exec (.run e q) s =
      .next { s with
        work :=
          if headerBad b || !inOneRegion s.hub (fld d.payload 0 8) (64 + fld b 8 8) then
            refuseDescriptor s.hub (keepPage s.hub (opened s e q d) e (fld d.payload 0 8)) e q 0x020C (fld d.payload 0 8)
          else if argsBad b d.payload then
            refuseDescriptor s.hub (keepPage s.hub (opened s e q d) e (fld d.payload 0 8)) e q 0x020D 0
          else
            trace s.hub
              ((keepPage s.hub (opened s e q d) e (fld d.payload 0 8)).setStream e q (fun st =>
                runStart st (fld d.payload 0 8) (fld b 8 8) (fld b 16 8) d.payload))
              1 (unitOf 1 e) (fld d.payload 0 8) } := by
  have hplace : ¬ (fld d.payload 0 8 % 64 ≠ 0 ∨ (!inOneRegion s.hub (fld d.payload 0 8) 64) = true) := by
    simp [halign, hin]
  have hheld' : heldDesc s.hub s.work e q (fun k => k == 0x0E01) = some d := hheld
  simp only [exec, execRun, onWork, hheld', hstop, Bool.false_eq_true, if_false, openDesc_runs _ hc rfl, startRun, if_neg hplace,
    hread]

/-- Settles O6: RUN takes the branch of its header and arguments (`exec_run`); SET_GEN opens and applies. -/
theorem descriptorsStart : Obligations.DescriptorsStart := by
  refine ⟨fun s e q d b hheld hc hstop halign hin hread => ?_, fun s e q d => ⟨fun hheld hc hhold hr1 hr2 hunit => ?_,
    fun hhold hdraws hw hd => ?_⟩⟩
  · rw [exec_run hheld hc hstop halign hin hread]
    refine ⟨fun hbad => ?_, fun hhd hlen hargs => ?_, fun hhd hlen hargs => ?_⟩
    · have : (headerBad b || !inOneRegion s.hub (fld d.payload 0 8) (64 + fld b 8 8)) = true := by
        rcases hbad with h | h <;> simp [h]
      rw [if_pos this]
    · simp only [hhd, hlen, hargs, Bool.not_true, Bool.or_self, Bool.false_eq_true, if_false, if_true]
    · simp only [hhd, hlen, hargs, Bool.not_true, Bool.or_self, Bool.false_eq_true, if_false, runStart]
  · have hheld' : heldDesc s.hub s.work e q (fun k => k == 0x0E02) = some d := hheld
    have hres : (rangeSet d.payload 0x12 6 || rangeSet d.payload 0x20 24 || decide (4096 ≤ fld d.payload 0x10 2)) = false := by
      simp [hr1, hr2, hunit]
    simp only [exec, execSetGen, onWork, hheld', hhold, Option.isSome_none, Bool.false_eq_true, if_false,
      openDesc_runs _ hc hres]
  · unfold Work.stream at hd
    simp only [exec, execSetGenApply, onWork, hhold, hdraws, hw, hd, Bool.not_true, Bool.or_self, Bool.false_eq_true, if_false]

/-- A descriptor whose completion record is written ends with a code: its stream faults and holds no descriptor. -/
theorem finishDescriptor_fault_record {h : Hub} {w w1 : Work} {e q : Nat} {isn : Word} {code : Code}
    (ha : (w.stream e q).complAddr ≠ 0)
    (hstore : engineStore h w e false (w.stream e q).complAddr.toNat (completionBytes e q isn code) = .ok w1) (hc : code ≠ 0) :
    finishDescriptor h w e q isn code =
      w1.setStream e q (fun s =>
        { s with
          desc := none, running := false, endIssued := false, acquire := none, tileWait := [], faulting := none
          fault := true }) := by
  have hb : (code != 0) = true := by simpa using hc
  have h0 : ¬ (w.stream e q).complAddr.toNat = 0 := fun h => ha (BitVec.eq_of_toNat_eq h)
  unfold finishDescriptor
  simp only [if_neg h0, hstore, hb, if_neg hc]

/-- Settles O7: the end of a descriptor with and without a record (`finishDescriptor_fault`, `finishDescriptor_fault_record`);
an unknown type is refused as every descriptor is. -/
theorem descriptorsEndWithTheirRecord : Obligations.DescriptorsEndWithTheirRecord := by
  refine ⟨fun h w e q isn code hc => ⟨fun ha => finishDescriptor_fault h w e q isn code ha hc,
    fun w1 ha hstore => finishDescriptor_fault_record ha hstore hc, rfl, length_completionBytes e q isn code⟩,
    fun s e q d hheld => ?_⟩
  simp only [exec, execUnknownDescriptor, onWork, hheld]

end Sys2Proof.Machine

/-! ### Context save and restore, and RESUME (05 R142 to R146, 07 R177) -/

namespace Sys2Proof.Machine

theorem Work.engine_setStream (w : Work) (e q : Nat) (f : Stream → Stream) (x : Nat) :
    ∃ ss, (w.setStream e q f).engine x = { w.engine x with streams := ss } := by
  rw [Work.setStream, Work.engine_setEngine]
  split
  · exact ⟨_, rfl⟩
  · exact ⟨(w.engine x).streams, rfl⟩

/-- Holding a completion address changes the streams of the engine only. -/
theorem opened_engine (s : State) (e q : Nat) (d : Desc) :
    ∃ ss, (opened s e q d).engine e = { s.work.engine e with streams := ss } := Work.engine_setStream _ _ _ _ _

/-! #### CTX_SAVE and RESUME -/

theorem exec_ctxSave {s : State} {e q n : Nat} {d : Desc} (hheld : Held s e q 0x0E03 d) (hc : ComplOk s d)
    (hstop : (s.work.engine e).stopped = false) (hres : rangeSet d.payload 0x10 40 = false) :
    exec (.ctxSave e q n) s =
      .next { s with
        work :=
          match ctxAddr s.hub (fld d.payload 0 8) with
          | none => refuseDescriptor s.hub (opened s e q d) e q 0x0203 (fld d.payload 0 8)
          | some a =>
            if contextConflict (s.work.engine e) then
              refuseDescriptor s.hub (countConflict (opened s e q d) e) e q 0x0208 0
            else
              (takeTokens s.hub (opened s e q d) e n).setEngine e (fun en =>
                { holdFree (stopLoad en) with stopped := true, saving := some ⟨q, a, interruptAt en n⟩ }) } := by
  have hheld' : heldDesc s.hub s.work e q (fun k => k == 0x0E03) = some d := hheld
  have hconf : contextConflict ((opened s e q d).engine e) = contextConflict (s.work.engine e) := by
    obtain ⟨ss, hss⟩ := opened_engine s e q d
    rw [hss]
    rfl
  simp only [exec, execCtxSave, onWork, hheld', hstop, Bool.false_eq_true, if_false, openDesc_runs _ hc hres, hconf] <;>
    cases ctxAddr s.hub (fld d.payload 0 8) <;> rfl

theorem exec_resume {s : State} {e q : Nat} {d : Desc} (hheld : Held s e q 0x0E05 d) (hc : ComplOk s d)
    (hsave : (s.work.engine e).saving = none) (hr1 : rangeSet d.payload 0 8 = false)
    (hr2 : rangeSet d.payload 0x10 40 = false) :
    exec (.resume e q) s =
      .next { s with
        work :=
          if (s.work.engine e).stopped then
            wakeStreams s.hub (finishDescriptor s.hub ((opened s e q d).setEngine e restart) e q 0 0) e
          else finishDescriptor s.hub (opened s e q d) e q 0 0 } := by
  have hheld' : heldDesc s.hub s.work e q (fun k => k == 0x0E05) = some d := hheld
  have hres : (rangeSet d.payload 0 8 || rangeSet d.payload 0x10 40) = false := by simp [hr1, hr2]
  have hstop : ((opened s e q d).engine e).stopped = (s.work.engine e).stopped := by
    obtain ⟨ss, hss⟩ := opened_engine s e q d
    rw [hss]
  simp only [exec, execResume, onWork, hheld', hsave, Option.isSome_none, Bool.false_eq_true, if_false,
    openDesc_runs _ hc hres, hstop]

/-! #### CTX_SAVE completes -/

theorem exec_ctxSaveComplete {s : State} {e : Nat} {j : CtxJob} (hj : (s.work.engine e).saving = some j)
    (hw : working s.hub s.work e = true) (hstay : (s.work.engine e).ops.all (mayStay (s.work.engine e)) = true) :
    exec (.ctxSaveComplete e) s =
      .next { s with work := wholeStep s.work (6, e, 0) (endSave s.hub s.work e j) } := by
  simp only [exec, execCtxSaveComplete, onWork, hj, hw, hstay, Bool.not_true, Bool.or_self, Bool.false_eq_true, if_false]

/-- An area that can be written ends the save well. -/
theorem finishSave_written {h : Hub} {w w1 : Work} {e : Nat} {j : CtxJob}
    (hstore : engineStore h w e false j.addr (ctxBytes (w.engine e) e j.resume) = .ok w1) :
    finishSave h w e j =
      finishDescriptor h (w1.setEngine e (fun en => { releaseContext en with saving := none })) e j.stream 0 0 := by
  simp only [finishSave, hstore]

theorem endSave_uninterrupted {h : Hub} {w : Work} {e : Nat} {j : CtxJob} (hj : j.resume = none) :
    endSave h w e j = finishSave h w e j := by
  obtain ⟨stream, addr, resume⟩ := j
  subst hj
  rfl

/-- The NaNs of an operation are none: the trap stays as it is. -/
theorem trapNans_nil (w : Work) (e : Nat) (o : Op) (source tid : Nat) : trapNans w e o source tid [] = w := by
  unfold trapNans
  split <;> rfl

theorem trapHalts_nil (o : Op) : trapHalts o [] = false := by simp [trapHalts]

/-- An interrupted operation keeps the tokens that had not entered. -/
theorem endSave_interrupted {h : Hub} {w : Work} {e : Nat} {j : CtxJob} {o : Op} {n t : Nat} {p : ArrayP} {c : Option Nat}
    {set : WeightSet} {acts : List (List Nat × List Nat)} (hj : j.resume = some (o.id, n))
    (hop : (w.engine e).op o.id = some o) (hkind : o.kind = .array p c (some set) acts t)
    (hev : tokenEvents p set t t (acts.take (n - t)) = []) :
    endSave h w e j = finishSave h (cutOperation w e n o p set acts t) e j := by
  simp only [endSave, hj, hop, Option.bind_some, Option.map_some, hkind, hev, trapNans_nil, trapHalts_nil,
    Bool.false_eq_true, if_false]

/-! #### What the reading of rings leaves of a restored context -/

/-- The two states of an engine have the same operations, sets, tiles, tokens and generator, and their streams the same
registers and PC. -/
structure SameContext (en en' : Engine) : Prop where
  stopped : en'.stopped = en.stopped
  ops : en'.ops = en.ops
  gen : en'.gen = en.gen
  arr : en'.arr = en.arr
  tokens : en'.tokens = en.tokens
  tiles : en'.tiles = en.tiles
  d : ∀ i, (en'.stream i).d = (en.stream i).d
  pc : ∀ i, (en'.stream i).pc = (en.stream i).pc

namespace SameContext

theorem refl (en : Engine) : SameContext en en := ⟨rfl, rfl, rfl, rfl, rfl, rfl, fun _ => rfl, fun _ => rfl⟩

theorem trans {a b c : Engine} (h : SameContext a b) (k : SameContext b c) : SameContext a c :=
  ⟨k.stopped.trans h.stopped, k.ops.trans h.ops, k.gen.trans h.gen, k.arr.trans h.arr, k.tokens.trans h.tokens,
    k.tiles.trans h.tiles, fun i => (k.d i).trans (h.d i), fun i => (k.pc i).trans (h.pc i)⟩

theorem setStream (en : Engine) (q : Nat) {f : Stream → Stream} (hd : ∀ s, (f s).d = s.d) (hpc : ∀ s, (f s).pc = s.pc) :
    SameContext en (en.setStream q f) := by
  refine ⟨rfl, rfl, rfl, rfl, rfl, rfl, fun i => ?_, fun i => ?_⟩
  · rw [Engine.stream_setStream]
    split
    · exact hd _
    · rfl
  · rw [Engine.stream_setStream]
    split
    · exact hpc _
    · rfl

end SameContext

/-- From `w` to `v` the engine keeps its context. -/
def ContextKept (w v : Work) (e : Nat) : Prop := SameContext (w.engine e) (v.engine e)

namespace ContextKept

theorem refl (w : Work) (e : Nat) : ContextKept w w e := SameContext.refl _

theorem trans {u v w : Work} {e : Nat} (h : ContextKept u v e) (k : ContextKept v w e) : ContextKept u w e :=
  SameContext.trans h k

theorem of_memStep {w v : Work} (h : MemStep w v) (e : Nat) : ContextKept w v e := by
  unfold ContextKept
  rw [h.engine]
  exact .refl _

theorem setEngine (w : Work) (e : Nat) {f : Engine → Engine} (hf : ∀ en, SameContext en (f en)) :
    ContextKept w (w.setEngine e f) e := by
  unfold ContextKept
  rw [Work.engine_setEngine]
  split
  · exact hf _
  · exact .refl _

theorem setStream (w : Work) (e q : Nat) {f : Stream → Stream} (hd : ∀ s, (f s).d = s.d) (hpc : ∀ s, (f s).pc = s.pc) :
    ContextKept w (w.setStream e q f) e := setEngine w e fun en => .setStream en q hd hpc

theorem foldl {α : Type} {f : Work → α → Work} {e : Nat} (hf : ∀ w x, ContextKept w (f w x) e) (l : List α) (w : Work) :
    ContextKept w (l.foldl f w) e := by
  induction l generalizing w with
  | nil => exact refl w e
  | cons x l ih => exact (hf w x).trans (ih _)

end ContextKept

theorem contextKept_recordFault (h : Hub) (w : Work) (e q : Nat) (code : Code) (f : FaultAt) :
    ContextKept w (recordFault h w e q code f) e := by
  refine ContextKept.trans ?_ (.of_memStep (memStep_recordFault h w e q code f) e)
  refine .setEngine w e fun en => ?_
  have hst := SameContext.setStream en q
    (f := fun st => if (w.stream e q).faulting.isNone && !(w.stream e q).fault then firstFault code f st else laterFault st)
    (fun st => by split <;> rfl) (fun st => by split <;> rfl)
  exact ⟨hst.stopped, hst.ops, hst.gen, hst.arr, hst.tokens, hst.tiles, hst.d, hst.pc⟩

theorem contextKept_keepPage (h : Hub) (w : Work) (e a : Nat) : ContextKept w (keepPage h w e a) e := by
  obtain ⟨f, hf⟩ := keepPage_setEngine h w e a
  rw [hf]
  exact .setEngine w e fun en => ⟨rfl, rfl, rfl, rfl, rfl, rfl, fun _ => rfl, fun _ => rfl⟩

theorem contextKept_ringFault (h : Hub) (w : Work) (e q : Nat) (code : Code) (a : Nat) :
    ContextKept w (ringFault h w e q code a) e :=
  (contextKept_recordFault h w e q code _).trans (.setStream _ e q (fun _ => rfl) (fun _ => rfl))

/-- The reading of a ring keeps the context of its engine. -/
theorem contextKept_readQueue (h : Hub) (w : Work) (e q : Nat) : ContextKept w (readQueue h w e q) e := by
  unfold readQueue
  dsimp only
  split
  · exact .refl w e
  · refine (contextKept_keepPage h w e
      (slotAddr (w.stream e q).base (w.stream e q).log2 (w.stream e q).nextSeq)).trans ?_
    generalize keepPage h w e (slotAddr (w.stream e q).base (w.stream e q).log2 (w.stream e q).nextSeq) = v
    split
    · exact contextKept_ringFault h v e q _ _
    · exact contextKept_ringFault h v e q _ _
    · split
      · exact .setStream v e q (fun _ => rfl) (fun _ => rfl)
      · split
        · exact .setStream v e q (fun _ => rfl) (fun _ => rfl)
        · refine ContextKept.trans ?_ (.of_memStep (memStep_emit h _ _) e)
          exact .setStream v e q (fun _ => rfl) (fun _ => rfl)
    · split
      · exact .setStream v e q (fun _ => rfl) (fun _ => rfl)
      · exact .setStream v e q (fun _ => rfl) (fun _ => rfl)

theorem contextKept_wakeStreams (h : Hub) (w : Work) (e : Nat) : ContextKept w (wakeStreams h w e) e := by
  unfold wakeStreams
  split
  · exact .refl w e
  · refine .foldl (fun v q => ?_) _ w
    dsimp only
    split
    · refine ContextKept.trans ?_ (contextKept_readQueue h _ e q)
      exact .setStream v e q (fun _ => rfl) (fun _ => rfl)
    · exact .refl v e

/-! #### CTX_RESTORE -/

/-- A CTX_RESTORE of a stopped engine whose area can be read. -/
theorem exec_ctxRestore {s : State} {e q a : Nat} {d : Desc} {b : List Byte} (hheld : Held s e q 0x0E04 d)
    (hc : ComplOk s d) (hsave : (s.work.engine e).saving = none) (hres : rangeSet d.payload 0x10 40 = false)
    (ha : ctxAddr s.hub (fld d.payload 0 8) = some a) (hstop : (s.work.engine e).stopped = true)
    (hconf : contextConflict (s.work.engine e) = false)
    (hread : engineRead s.hub (opened s e q d) e a ctxSize = .ok b) :
    (ctxBad b = true →
      exec (.ctxRestore e q) s = .next { s with work := refuseDescriptor s.hub (opened s e q d) e q 0x020A a }) ∧
    (∀ x, ctxBad b = false → reloads s.hub (opened s e q d) e b = .ok x →
      exec (.ctxRestore e q) s = .next { s with work := restoreContext s.hub (opened s e q d) e q b x }) := by
  have hheld' : heldDesc s.hub s.work e q (fun k => k == 0x0E04) = some d := hheld
  obtain ⟨ss, hss⟩ := opened_engine s e q d
  have hstop1 : ((opened s e q d).engine e).stopped = true := by rw [hss]; exact hstop
  have hconf1 : contextConflict ((opened s e q d).engine e) = false := by rw [hss]; exact hconf
  constructor
  · intro hbad
    simp only [exec, execCtxRestore, onWork, hheld', hsave, Option.isSome_none, Bool.false_eq_true, if_false,
      openDesc_runs _ hc hres, ha, hstop1, hconf1, Bool.or_true, Bool.not_true, Bool.false_and, Bool.or_self, hread, hbad, if_true]
  · intro x hbad hx
    simp only [exec, execCtxRestore, onWork, hheld', hsave, Option.isSome_none, Bool.false_eq_true, if_false,
      openDesc_runs _ hc hres, ha, hstop1, hconf1, Bool.or_true, Bool.not_true, Bool.false_and, Bool.or_self, hread, hbad, hx]

/-- A descriptor without a completion record ends well in a stream that reads no ring. -/
theorem finishDescriptor_silent {h : Hub} {w : Work} {e q : Nat} (isn : Word) (ha : (w.stream e q).complAddr = 0)
    (hen : (w.stream e q).enable = false) :
    finishDescriptor h w e q isn 0 =
      w.setStream e q (fun s =>
        { s with
          desc := none, running := false, endIssued := false, acquire := none, tileWait := [], faulting := none
          fault := false }) := by
  have h0 : BitVec.toNat (0 : Word) = 0 := rfl
  have hoff : ∀ f : Stream → Stream, (∀ st, (f st).enable = st.enable) →
      readQueue h (w.setStream e q f) e q = w.setStream e q f := by
    intro f hf
    have : ((w.setStream e q f).stream e q).enable = false := by
      rw [Work.stream_setStream]
      split
      · rw [hf]; exact hen
      · exact hen
    simp only [readQueue, this, Bool.not_false, Bool.true_or, if_true]
  unfold finishDescriptor
  simp only [ha, h0, if_true]
  exact hoff _ fun _ => rfl

/-- What a restore leaves in its engine before the interrupted operation goes on (05 R146). -/
def loadedEngine (h : Hub) (w : Work) (e : Nat) (b : List Byte) (act sh : Option WeightSet) (en : Engine) : Engine :=
  { en with
    ops := []
    stopped := false
    saving := none
    selfParked := false
    gen := restoreGen b
    tokens := (List.range 64).map (fun c => BitVec.ofNat 32 (fld b (0x1C00 + 4 * c) 4))
    tiles := [restoreTile b 0x30000 (bitOf (fld b 8 8) 3), restoreTile b 0xF0000 (bitOf (fld b 8 8) 4)]
    streams := en.streams.mapIdx (fun q st => restoreStream h w e b q st)
    arr := { en.arr with active := act, shadow := sh } }

/-- What a restore has put into an engine: everything of the area but the interrupted operation. -/
structure Restored (b : List Byte) (act sh : Option WeightSet) (n : Nat) (en : Engine) : Prop where
  stopped : en.stopped = false
  gen : en.gen = restoreGen b
  active : en.arr.active = act
  shadow : en.arr.shadow = sh
  tokens : en.tokens = (List.range 64).map (fun c => BitVec.ofNat 32 (fld b (0x1C00 + 4 * c) 4))
  tile0 : (en.tile 0).elems = (restoreTile b 0x30000 (bitOf (fld b 8 8) 3)).elems
  tile1 : (en.tile 1).elems = (restoreTile b 0xF0000 (bitOf (fld b 8 8) 4)).elems
  d : ∀ i, i < n → (en.stream i).d = (List.range 32).map (fun k => BitVec.ofNat 64 (fld b (0x1000 + i * 0x300 + 0x100 + 8 * k) 8))
  pc : ∀ i, i < n → (en.stream i).pc = BitVec.ofNat 64 (fld b (0x1000 + i * 0x300) 8)

theorem Restored.of_same {b : List Byte} {act sh : Option WeightSet} {n : Nat} {en en' : Engine}
    (h : Restored b act sh n en) (k : SameContext en en') : Restored b act sh n en' := by
  have htile : ∀ t, en'.tile t = en.tile t := fun t => by simp only [Engine.tile, k.tiles]
  exact
    { stopped := k.stopped.trans h.stopped
      gen := k.gen.trans h.gen
      active := by rw [k.arr]; exact h.active
      shadow := by rw [k.arr]; exact h.shadow
      tokens := k.tokens.trans h.tokens
      tile0 := by rw [htile]; exact h.tile0
      tile1 := by rw [htile]; exact h.tile1
      d := fun i hi => (k.d i).trans (h.d i hi)
      pc := fun i hi => (k.pc i).trans (h.pc i hi) }

theorem restored_loadedEngine (h : Hub) (w : Work) (e : Nat) (b : List Byte) (act sh : Option WeightSet) (en : Engine) :
    Restored b act sh en.streams.length (loadedEngine h w e b act sh en) := by
  have hst : ∀ i, i < en.streams.length → (loadedEngine h w e b act sh en).stream i = restoreStream h w e b i (en.stream i) := by
    intro i hi
    simp [Engine.stream, loadedEngine, List.getD_eq_getElem?_getD, hi]
  refine ⟨rfl, rfl, rfl, rfl, rfl, rfl, rfl, fun i hi => ?_, fun i hi => ?_⟩
  · rw [hst i hi]
    simp only [restoreStream, Nat.add_assoc]
  · rw [hst i hi]
    rfl

/-- The engine once its interrupted operation `kind` goes on in stream `q`, which keeps its PC and ISN. -/
def resumedEngine (q word tile : Nat) (acq rel : Bool) (kind : OpKind) (en : Engine) : Engine :=
  (((issuedIn en q word none acq rel kind).setOp en.nextId (fun o =>
      { o with phase := .started, isn := (en.stream q).isn, pc := (en.stream q).pc - 16 })).setStream q (fun x =>
    { x with pc := (en.stream q).pc, isn := (en.stream q).isn })).setTile tile (fun t => holdTile t .array q)

theorem resumeArray_engine {w : Work} {e : Nat} (b : List Byte) (s : WeightSet) (p : ArrayP)
    (toks : List (List Nat × List Nat)) (he : e < w.engines.length) :
    (resumeArray w e b s p toks).engine e =
      resumedEngine (fld b 0x192 1) (fld b 0x180 16) p.tile (acquireOf (fld b 0x180 16)) (releaseOf (fld b 0x180 16))
        (.array p none (some s) toks (fld b 0x190 2)) (w.engine e) := by
  unfold resumeArray
  dsimp only
  rw [issueOp_eq, Work.setEngine_setEngine, Work.engine_setEngine_self _ _ _ he]
  rfl

theorem restored_resumedEngine {b : List Byte} {act sh : Option WeightSet} {n : Nat} {en : Engine}
    (h : Restored b act sh n en) (q word tile : Nat) (acq rel : Bool) (kind : OpKind) :
    Restored b act sh n (resumedEngine q word tile acq rel kind en) := by
  have hst : ∀ i, ((resumedEngine q word tile acq rel kind en).stream i).d = (en.stream i).d ∧
      ((resumedEngine q word tile acq rel kind en).stream i).pc = (en.stream i).pc := by
    intro i
    change (((en.setStream q _).setStream q _).stream i).d = _ ∧ (((en.setStream q _).setStream q _).stream i).pc = _
    rw [Engine.setStream_setStream, Engine.stream_setStream]
    split
    · rename_i hi
      obtain ⟨rfl, -⟩ := hi
      exact ⟨rfl, rfl⟩
    · exact ⟨rfl, rfl⟩
  have htile : ∀ t, ((resumedEngine q word tile acq rel kind en).tile t).elems = (en.tile t).elems := by
    intro t
    change ((en.setTile tile (fun t => holdTile t .array q)).tile t).elems = _
    rw [Engine.tile_setTile]
    split <;> rfl
  exact
    { stopped := h.stopped
      gen := h.gen
      active := h.active
      shadow := h.shadow
      tokens := h.tokens
      tile0 := (htile 0).trans h.tile0
      tile1 := (htile 1).trans h.tile1
      d := fun i hi => (hst i).1.trans (h.d i hi)
      pc := fun i hi => (hst i).2.trans (h.pc i hi) }

/-- The interrupted operation is the one operation of a restored engine. -/
theorem resumedEngine_ops {en : Engine} (q word tile : Nat) (acq rel : Bool) (kind : OpKind) (hops : en.ops = []) :
    ∃ o : Op, (resumedEngine q word tile acq rel kind en).ops = [o] ∧ o.kind = kind ∧ o.phase = .started ∧ o.stream = q := by
  refine ⟨{ issuedOp en q word none rel kind with
    phase := .started, isn := (en.stream q).isn, pc := (en.stream q).pc - 16 }, ?_, rfl, rfl, rfl⟩
  change (en.ops ++ [issuedOp en q word none rel kind]).map (fun o =>
    if o.id == en.nextId then { o with phase := .started, isn := (en.stream q).isn, pc := (en.stream q).pc - 16 } else o) = _
  rw [hops]
  simp [issuedOp]

/-- What an accepted restore leaves in its engine, by the sets and the operation that it has read. -/
theorem loadContext_engine {h : Hub} {w : Work} {e : Nat} (b : List Byte)
    (x : Option WeightSet × Option WeightSet × Option (ArrayP × List (List Nat × List Nat))) (he : e < w.engines.length) :
    Restored b x.1 x.2.1 (w.engine e).streams.length ((loadContext h w e b x).engine e) ∧
      (x.2.2 = none → ((loadContext h w e b x).engine e).ops = []) ∧
      (∀ (set : WeightSet) (p : ArrayP) (toks : List (List Nat × List Nat)), x.1 = some set → x.2.2 = some (p, toks) →
        ∃ o : Op, ((loadContext h w e b x).engine e).ops = [o] ∧ o.kind = .array p none (some set) toks (fld b 0x190 2) ∧
          o.phase = .started ∧ o.stream = fld b 0x192 1) := by
  obtain ⟨act, sh, res⟩ := x
  have hload : (w.setEngine e (loadedEngine h w e b act sh)).engine e = loadedEngine h w e b act sh (w.engine e) :=
    Work.engine_setEngine_self _ _ _ he
  have hrest := restored_loadedEngine h w e b act sh (w.engine e)
  rcases res with _ | ⟨p, toks⟩
  · have hw : loadContext h w e b (act, sh, none) = w.setEngine e (loadedEngine h w e b act sh) := by
      cases act <;> rfl
    rw [hw, hload]
    exact ⟨hrest, fun _ => rfl, fun _ _ _ _ hnone => by cases hnone⟩
  · rcases act with _ | set
    · have hw : loadContext h w e b (none, sh, some (p, toks)) = w.setEngine e (loadedEngine h w e b none sh) := rfl
      rw [hw, hload]
      exact ⟨hrest, fun _ => rfl, fun _ _ _ hnone => by cases hnone⟩
    · have hw : loadContext h w e b (some set, sh, some (p, toks)) =
          resumeArray (w.setEngine e (loadedEngine h w e b (some set) sh)) e b set p toks := rfl
      rw [hw, resumeArray_engine b set p toks (by simpa using he), hload]
      refine ⟨restored_resumedEngine hrest _ _ _ _ _ _, fun hnone => (by cases hnone), fun set' p' toks' hset hres => ?_⟩
      cases hset
      cases hres
      exact resumedEngine_ops _ _ _ _ _ _ rfl

/-- After an accepted restore the engine holds the context of the area, whatever rings its streams go on to read. -/
theorem restoreContext_engine {h : Hub} {w : Work} {e q : Nat} (b : List Byte)
    (x : Option WeightSet × Option WeightSet × Option (ArrayP × List (List Nat × List Nat))) (he : e < w.engines.length)
    (hq : q < (w.engine e).streams.length) (ha : (w.stream e q).complAddr = 0) :
    ∃ w1 : Work, e < w1.engines.length ∧ (w1.engine e).streams.length = (w.engine e).streams.length ∧
      ContextKept (loadContext h w1 e b x) (restoreContext h w e q b x) e := by
  set off := w.setStream e q (fun s => { s with enable := false }) with hoff
  have hst : off.stream e q = { w.stream e q with enable := false } := Work.stream_setStream_self _ he hq
  set done : Stream → Stream := fun s =>
    { s with
      desc := none, running := false, endIssued := false, acquire := none, tileWait := [], faulting := none
      fault := false } with hdone
  have hend : finishDescriptor h off e q 0 0 = off.setStream e q done :=
    finishDescriptor_silent 0 (by rw [hst]; exact ha) (by rw [hst])
  have hlen : (off.engine e).streams.length = (w.engine e).streams.length := by
    rw [hoff, Work.setStream, Work.engine_setEngine_self _ _ _ he, Engine.setStream, List.length_modify]
  have heoff : e < off.engines.length := by simpa [hoff, Work.setStream] using he
  have hfault : ((off.setStream e q done).stream e q).fault = false := by
    rw [Work.stream_setStream_self _ heoff (by rw [hlen]; exact hq)]
  refine ⟨off.setStream e q done, by simpa [Work.setStream] using heoff, ?_, ?_⟩
  · rw [← hlen, Work.setStream, Work.engine_setEngine_self _ _ _ heoff, Engine.setStream, List.length_modify]
  · unfold restoreContext
    dsimp only
    rw [← hoff, hend, hfault, if_neg Bool.false_ne_true]
    refine ContextKept.trans ?_ (contextKept_wakeStreams h _ e)
    refine ContextKept.trans ?_ (.foldl (fun v i => ?_) _ _)
    · exact .setStream _ e q (fun _ => rfl) (fun _ => rfl)
    · split
      · exact contextKept_readQueue h v e i
      · exact .refl v e

/-- A stream that holds a descriptor is one of its engine's. -/
theorem lt_of_held {s : State} {e q kind : Nat} {d : Desc} (hheld : Held s e q kind d) :
    q < (s.work.engine e).streams.length := by
  by_contra hq
  have hst : s.work.stream e q = resetStream := by
    unfold Work.stream Engine.stream
    exact List.getD_eq_default _ _ (Nat.le_of_not_lt hq)
  have hnone : heldDesc s.hub s.work e q (fun k => k == kind) = none := by
    unfold heldDesc
    rw [hst]
    rfl
  rw [Held, hnone] at hheld
  cases hheld

/-- Settles O8: each command's effect is its branch (`exec_ctxSave`, `exec_resume`, `exec_ctxSaveComplete`, `exec_ctxRestore`);
what a restore leaves is what `loadContext` puts into the engine, which no later reading of a ring changes
(`restoreContext_engine`). -/
theorem contextIsSavedAndRestored : Obligations.ContextIsSavedAndRestored := by
  refine ⟨fun s e q d => ⟨fun n hheld hc hstop hres => ?_, fun hheld hc hsave hr1 hr2 => ?_⟩,
    fun s e => ⟨fun j hj hw hstay => ⟨fun w1 hresume hstore => ?_, fun o n t p c set acts w1 hresume hop hkind hev hstore => ?_⟩,
    fun q a d b hheld hc hsave hres ha hstop hconf he hread => ?_⟩⟩
  · rw [exec_ctxSave hheld hc hstop hres]
    refine ⟨fun hnone => by rw [hnone], fun a ha => ⟨fun hconf => by rw [ha, hconf]; rfl, fun hconf => ?_⟩⟩
    rw [ha, hconf]
    rfl
  · rw [exec_resume hheld hc hsave hr1 hr2]
    exact ⟨fun hstop => by rw [if_pos hstop], fun hstop => by rw [hstop]; rfl⟩
  · rw [exec_ctxSaveComplete hj hw hstay, endSave_uninterrupted hresume,
      finishSave_written (by rw [hresume]; exact hstore)]
  · rw [exec_ctxSaveComplete hj hw hstay, endSave_interrupted hresume hop hkind hev, finishSave_written hstore]
  · obtain ⟨hbad, hgood⟩ := exec_ctxRestore hheld hc hsave hres ha hstop hconf hread
    refine ⟨hbad, fun x hctx hx h0 => ?_⟩
    obtain ⟨ss, hss⟩ := opened_engine s e q d
    have he1 : e < (opened s e q d).engines.length := by simpa [opened, Work.setStream] using he
    have hlen : ((opened s e q d).engine e).streams.length = (s.work.engine e).streams.length := by
      rw [opened, Work.setStream, Work.engine_setEngine_self _ _ _ he, Engine.setStream, List.length_modify]
    have haddr : ((opened s e q d).stream e q).complAddr = 0 := by
      rw [opened, Work.stream_setStream_self _ he (lt_of_held hheld), h0]
      rfl
    obtain ⟨w1, hew1, hlen1, hkept⟩ := restoreContext_engine (h := s.hub) b x he1 (by rw [hlen]; exact lt_of_held hheld) haddr
    obtain ⟨hrest, hnone, hsome⟩ := loadContext_engine (h := s.hub) b x hew1
    have hfin := hrest.of_same hkept
    refine ⟨_, hgood x hctx hx, rfl, hfin.stopped, hfin.gen, hfin.active, hfin.shadow, fun hx2 => ?_, fun set p toks h1 h2 => ?_,
      hfin.tokens, hfin.tile0, hfin.tile1, fun i st hi _ => ?_⟩
    · exact hkept.ops.trans (hnone hx2)
    · obtain ⟨o, hops, hrest⟩ := hsome set p toks h1 h2
      exact ⟨o, hkept.ops.trans hops, hrest⟩
    · have hilt : i < (w1.engine e).streams.length := by
        rw [hlen1, hlen]
        exact (List.getElem?_eq_some_iff.1 hi).1
      exact ⟨hfin.d i hilt, hfin.pc i hilt⟩

end Sys2Proof.Machine

/-! ### Weight loads and array operations (04 R100 to R123) -/

namespace Sys2Proof.Machine

/-! #### Two updates of one operation -/

theorem map_at_id (l : List Op) (id : Nat) (f g : Op → Op) (hf : ∀ x, x.id = id → (f x).id = id) :
    (l.map (fun o => if o.id == id then f o else o)).map (fun o => if o.id == id then g o else o) =
      l.map (fun o => if o.id == id then g (f o) else o) := by
  rw [List.map_map]
  refine List.map_congr_left fun x _ => ?_
  by_cases hx : x.id = id
  · simp [hx, hf x hx]
  · simp [hx]

theorem Engine.setOp_setOp (en : Engine) (id : Nat) (f g : Op → Op) (hf : ∀ x, x.id = id → (f x).id = id) :
    (en.setOp id f).setOp id g = en.setOp id (fun x => g (f x)) := by
  simp only [Engine.setOp, map_at_id _ _ _ _ hf]

/-! #### What the feeders read does not depend on the operations -/

theorem readRows_congr {w v : Work} (h : Hub) (e : Nat) (f : Fmt) (stride cols n : Nat) (hm : v.mem = w.mem)
    (hc : v.coh = w.coh) (ht : v.tables = w.tables) (hx : (v.engine e).xl = (w.engine e).xl) (a : Nat) :
    readRows h v e f a stride cols n = readRows h w e f a stride cols n := by
  induction n generalizing a with
  | zero => rfl
  | succ n ih => simp only [readRows, engineRead_congr h e _ _ hm hc ht hx, ih]

theorem readByteRows_congr {w v : Work} (h : Hub) (e stride len n : Nat) (hm : v.mem = w.mem) (hc : v.coh = w.coh)
    (ht : v.tables = w.tables) (hx : (v.engine e).xl = (w.engine e).xl) (a : Nat) :
    readByteRows h v e a stride len n = readByteRows h w e a stride len n := by
  induction n generalizing a with
  | zero => rfl
  | succ n ih => simp only [readByteRows, engineRead_congr h e _ _ hm hc ht hx, ih]

theorem readTokens_congr {w v : Work} (h : Hub) (e : Nat) (p : ArrayP) (s : WeightSet) (t n : Nat) (hm : v.mem = w.mem)
    (hc : v.coh = w.coh) (ht : v.tables = w.tables) (hx : (v.engine e).xl = (w.engine e).xl) :
    readTokens h v e p s t n = readTokens h w e p s t n := by
  simp only [readTokens, readScales, readRows_congr h e _ _ _ _ hm hc ht hx, readByteRows_congr h e _ _ _ hm hc ht hx]

/-- An update of an engine that keeps its translation leaves what its feeders read. -/
theorem fillFeeders_setEngine (h : Hub) (w : Work) (e : Nat) (f : Engine → Engine) (hf : ∀ en, (f en).xl = en.xl)
    (p : ArrayP) (s : WeightSet) (t : Nat) (acts : List (List Nat × List Nat)) (upto : Nat) :
    fillFeeders h (w.setEngine e f) e p s t acts upto = fillFeeders h w e p s t acts upto := by
  have hx : ((w.setEngine e f).engine e).xl = (w.engine e).xl := by
    rw [Work.engine_setEngine]
    split
    · exact hf _
    · rfl
  simp only [fillFeeders, readTokens_congr (w := w) (v := w.setEngine e f) h e p s _ _ rfl rfl rfl hx]

theorem feedOp_reads {h : Hub} {w : Work} {e : Nat} {o : Op} {p : ArrayP} {c : Option Nat} {s : WeightSet}
    {acts more : List (List Nat × List Nat)} {t upto : Nat} (hkind : o.kind = .array p c (some s) acts t)
    (hfill : fillFeeders h w e p s t acts upto = .ok more) :
    feedOp h w e o upto =
      (w.setEngine e (fun en => en.setOp o.id (fun x => { x with kind := .array p c (some s) more t })), true) := by
  simp only [feedOp, hkind, hfill]

/-! #### The commands on their engines -/

theorem startLoad_goes_on {h : Hub} {w : Work} {e : Nat} {o : Op} {p : WloadP} {s0 : WeightSet} {rows : Nat}
    (hfront : frontLoad (w.engine e) = some o) (hkind : o.kind = .wload p (some s0)) (hwork : working h w e = true)
    (hrun : (w.engine e).stopped = false)
    (hgo : o.phase = .started ∨
      (o.phase = .issued ∧ (w.engine e).arr.shadow = none ∧ mayStart (w.engine e) o = true)) :
    startLoad h w e rows =
      match loadRows h w e s0 rows with
      | .error (c, a) => faultLoad h w e o c a
      | .ok set =>
        w.setEngine e (fun en => en.setOp o.id (fun x => { x with phase := .started, kind := .wload p (some set) })) := by
  have hcond : (working h w e && !(w.engine e).stopped &&
      ((o.phase == .issued && (w.engine e).arr.shadow.isNone && mayStart (w.engine e) o) || o.phase == .started)) =
        true := by
    rcases hgo with hph | ⟨hph, hshadow, hmay⟩
    · simp [hwork, hrun, hph]
    · simp [hwork, hrun, hph, hshadow, hmay]
  simp only [startLoad, hfront, hkind, hcond, if_true] <;> rfl

theorem finishLoad_ends {h : Hub} {w : Work} {e : Nat} {o : Op} {p : WloadP} {s0 set : WeightSet}
    (hfront : frontLoad (w.engine e) = some o) (hkind : o.kind = .wload p (some s0)) (hwork : working h w e = true)
    (hrun : (w.engine e).stopped = false) (hphase : o.phase = .started) (hload : loadRows h w e s0 p.kRows = .ok set) :
    finishLoad h w e =
      completeOp h
        (w.setEngine e (fun en =>
          { en with arr := { en.arr with shadow := some set }, ops := en.ops.map (reclaim o.id) })) e o := by
  simp [finishLoad, hfront, hkind, hwork, hrun, hphase, hload]

/-- The front operation may enter: what is left is the plane of the operation before it. -/
theorem startArray_enters {h : Hub} {w : Work} {e : Nat} {o : Op} {p : ArrayP} {claim : Option Nat}
    {st0 : Option WeightSet} {a0 : List (List Nat × List Nat)} {t0 : Nat} (hwork : working h w e = true)
    (hfront : frontArray (w.engine e) = some o) (hkind : o.kind = .array p claim st0 a0 t0)
    (hrun : (w.engine e).stopped = false) (hmay : mayStart (w.engine e) o = true)
    (hswap : p.wset = true → claim = some 0 ∧ (w.engine e).arr.shadow ≠ none) :
    startArray h w e = if (lastPlaneIn h w e).2 then enterArray h (lastPlaneIn h w e).1 e o else (lastPlaneIn h w e).1 := by
  have hready : (p.wset && (claim != some 0 || (w.engine e).arr.shadow.isNone)) = false := by
    cases hw : p.wset with
    | false => rfl
    | true =>
      obtain ⟨hclaim, hshadow⟩ := hswap hw
      simp [hclaim, Option.isSome_iff_ne_none.mpr hshadow]
  simp only [startArray, hfront, hkind, hwork, hrun, hmay, hready, Bool.not_true, Bool.or_self, Bool.false_eq_true,
    if_false]
  split <;> simp_all

theorem enterArray_starts {h : Hub} {w : Work} {e : Nat} {o : Op} {p : ArrayP} {claim : Option Nat}
    {st0 : Option WeightSet} {a0 : List (List Nat × List Nat)} {t0 : Nat} {set : WeightSet}
    {toks : List (List Nat × List Nat)} (hkind : o.kind = .array p claim st0 a0 t0)
    (hset : (swapIn (w.engine e).arr p.wset).active = some set)
    (htoks : readTokens h w e p set 0 (min 64 p.m) = .ok toks) :
    enterArray h w e o =
      w.setEngine e (fun en =>
        { en.setOp o.id (fun _ =>
            { o with phase := .started, planes := max o.planes 1, kind := .array p none (some set) toks 0 }) with
          arr :=
            { swapIn (w.engine e).arr p.wset with
              steps := (swapIn (w.engine e).arr p.wset).steps + BitVec.ofNat 64 (1 - o.planes) } }) := by
  have hfill : fillFeeders h w e p set 0 [] feederDepth = .ok toks := by
    simp only [fillFeeders, List.length_nil, Nat.add_zero, feederDepth, Nat.sub_zero, htoks, List.nil_append]
  simp only [enterArray, hkind, hset]
  rw [feedOp_reads (more := toks) rfl]
  · simp only [enterPlanes, Work.setEngine_setEngine, Engine.setOp]
    simp +contextual only [map_at_id, implies_true, hset]
  · rw [fillFeeders_setEngine _ _ _ _ (by intro; rfl)]
    exact hfill

theorem swapIn_steps (a : ArrayUnit) (wset : Bool) : (swapIn a wset).steps = a.steps := by
  unfold swapIn
  split <;> rfl

theorem exec_feederEntryArrival {s : State} {e : Nat} {o : Op} {p : ArrayP} {planes waited n t : Nat} {claim : Option Nat}
    {set : WeightSet} {acts more : List (List Nat × List Nat)} (hwork : working s.hub s.work e = true)
    (hrun : (s.work.engine e).stopped = false) (hrunning : runningArray (s.work.engine e) = some o)
    (hkind : o.kind = .array p claim (some set) acts t)
    (hn : n = max o.planes (min planes (acts.length * stepsPerToken p set)))
    (hfill : fillFeeders s.hub s.work e p set t acts (t + n / stepsPerToken p set + 64) = .ok more) :
    exec (.feederEntryArrival e ⟨planes, waited⟩) s =
      .next { s with
        work := s.work.setEngine e (fun en =>
          { en.setOp o.id (fun x =>
              { x with planes := max x.planes n, kind := .array p claim (some set) more t }) with
            arr :=
              { en.arr with
                steps := en.arr.steps + BitVec.ofNat 64 (n - o.planes)
                starved := en.arr.starved + BitVec.ofNat 64 waited } }) } := by
  simp only [exec, execFeederEntryArrival, onWork, hwork, hrun, hrunning, hkind, Bool.not_false, Bool.and_self, if_true,
    ← hn]
  rw [feedOp_reads (more := more) rfl]
  · simp only [enterPlanes, Work.setEngine_setEngine, Engine.setOp]
    simp +contextual only [map_at_id, implies_true]
  · rw [fillFeeders_setEngine _ _ _ _ (by intro; rfl), enterPlanes, fillFeeders_setEngine _ _ _ _ (by intro; rfl)]
    exact hfill

/-- A started operation that no context save holds reads the rest of its tokens and ends with all of them. -/
theorem finishArray_ends {h : Hub} {w : Work} {e : Nat} {o : Op} {p : ArrayP} {claim : Option Nat} {s : WeightSet}
    {acts more : List (List Nat × List Nat)} {t : Nat} (hwork : working h w e = true)
    (hfind : (w.engine e).ops.find? isArray = some o) (hop : (w.engine e).op o.id = some o) (he : e < w.engines.length)
    (hkind : o.kind = .array p claim (some s) acts t) (hphase : o.phase = .started)
    (hrun : (w.engine e).saving = none → (w.engine e).stopped = false)
    (hsave : ∀ j, (w.engine e).saving = some j → j.resume.map (fun x => x.1) ≠ some o.id)
    (hfill : fillFeeders h w e p s t acts 256 = .ok more) :
    finishArray h w e =
      endArray h (w.setEngine e (fun en => en.setOp o.id (withTokens p claim s more t))) e
        (withTokens p claim s more t o) p s more t := by
  have hfeed : feedOp h w e o 256 =
      (w.setEngine e (fun en => en.setOp o.id (withTokens p claim s more t)), true) := feedOp_reads hkind hfill
  have hop' := Engine.op_setOp _ _ (withTokens p claim s more t) _ hop fun _ => rfl
  cases hj : (w.engine e).saving with
  | none => simp [finishArray, hfind, hwork, hphase, hj, hrun hj, hfeed, he, hop', withTokens]
  | some j =>
    have hfree : (j.resume.map (fun x => x.1) == some o.id) = false := by simpa using hsave j hj
    simp [finishArray, hfind, hwork, hphase, hj, hfree, hfeed, he, hop', withTokens, -Option.map_eq_some_iff]

/-- Settles O12: a load and an operation that are not kept from it start, go on and end as their machine function says
(`startLoad_goes_on`, `finishLoad_ends`, `startArray_enters`, `finishArray_ends`). -/
theorem weightsLoadAndArrayOperationsRun : Obligations.WeightsLoadAndArrayOperationsRun := by
  refine ⟨fun s e o p s0 hfront hkind hwork hrun => ⟨fun rows hgo => ?_, fun set hphase hload => ?_⟩,
    fun s e o p hwork => ⟨?_, ?_, ?_⟩, fun o ev => ?_⟩
  · have hstart := startLoad_goes_on (rows := rows) hfront hkind hwork hrun hgo
    refine ⟨fun set hload => ?_, fun c a hload => ?_⟩ <;>
      simp only [exec, execWloadStart, onWork, hstart, hload]
  · simp only [exec, execWloadComplete, onWork, finishLoad_ends hfront hkind hwork hrun hphase hload]
  · intro claim st0 a0 t0 hfront hkind hrun hmay hswap
    have hstart := startArray_enters hwork hfront hkind hrun hmay hswap
    refine ⟨fun set toks hset hnone htoks => ?_, fun w1 hlast => ?_, fun w1 hlast => ?_⟩
    · have hlast : lastPlaneIn s.hub s.work e = (s.work, true) := by simp only [lastPlaneIn, hnone]
      simp only [exec, execArrayStart, onWork, hstart, hlast, if_true, enterArray_starts hkind hset htoks, swapIn_steps]
    · simp only [exec, execArrayStart, onWork, hstart, hlast, if_true]
    · simp only [exec, execArrayStart, onWork, hstart, hlast, Bool.false_eq_true, if_false]
  · exact fun planes waited n t claim set acts more hrun hrunning hkind hn hfill =>
      exec_feederEntryArrival hwork hrun hrunning hkind hn hfill
  · intro claim set acts more t hfind hop he hkind hphase hrun hsave hfill
    have hend := finishArray_ends hwork hfind hop he hkind hphase hrun hsave hfill
    refine ⟨fun hgo => ?_, fun hhalt => ?_⟩
    · have hgo' : trapHalts (withTokens p claim set more t o) (tokenEvents p set t t more) = false := hgo
      simp only [exec, execArrayComplete, onWork, hend, endArray, hgo', Bool.false_eq_true, if_false]
      rfl
    · have hhalt' : trapHalts (withTokens p claim set more t o) (tokenEvents p set t t more) = true := hhalt
      simp only [exec, execArrayComplete, onWork, hend, endArray, hhalt', if_true]
      rfl
  · rw [← Bool.not_eq_false, trapHalts_eq_false_iff]
    simp only [not_or, Bool.not_eq_false, Bool.not_eq_true, ne_eq]

end Sys2Proof.Machine

/-! ### Inset operations (06 R148 to R168) -/

namespace Sys2Proof.Machine

/-- A started inset operation with elements reads its operands, and its NaNs meet the trap. -/
theorem finishInset_reads {h : Hub} {w : Work} {e waited : Nat} {o : Op} {p : InsetP} {set : WeightSet}
    {toks : List (List Nat × List Nat)} (hfind : (w.engine e).ops.find? isInset = some o)
    (hwork : working h w e = true) (hphase : o.phase = .started) (hkind : o.kind = .inset p) (hempty : p.empty = false)
    (hread : readInset h (addInsetWaits w e waited) e p = .ok (set, toks)) :
    finishInset h w e waited =
      if trapHalts o (tokensNans p.aFmt set (fun _ _ => 0) p.row0 toks) then
        faultInset h
          (trapNans (addInsetWaits w e waited) e o 2 0 (tokensNans p.aFmt set (fun _ _ => 0) p.row0 toks)) e o p 0x0301 0
          none
      else
        completeOp h
          ((trapNans (addInsetWaits w e waited) e o 2 0
            (tokensNans p.aFmt set (fun _ _ => 0) p.row0 toks)).setEngine e (fun en =>
              en.setTile p.tile (fun t => releaseTile (addTokens p.aFmt set p.row0 toks t)))) e o := by
  simp [finishInset, hfind, hkind, hwork, hphase, hempty, hread]

/-- Settles O14: the three issues by the checks that decide them, and the start and the end of the operation in front. -/
theorem insetOperationRuns : Obligations.InsetOperationRuns := by
  intro s e q word p
  refine ⟨fun hf hc => ⟨fun hempty => ?_, fun hempty hfree => ?_, fun hempty hconf => ?_⟩,
    fun o hfind hwork => ⟨fun hphase hmay => ?_, fun waited hphase hkind hempty => ?_,
      fun waited set toks hphase hkind hempty hread => ?_⟩⟩
  · simp only [exec, execInset, onWork_decides hf, hc, hempty, if_true]
  · simp only [exec, execInset, onWork_decides hf, hc, hempty, hfree, Bool.false_eq_true, if_false]
    rfl
  · simp only [exec, execInset, onWork_decides hf, hc, hempty, hconf, Bool.false_eq_true, if_false, if_true]
    rfl
  · have hgo : (working s.hub s.work e && o.phase == .issued && mayStart (s.work.engine e) o) = true := by
      simp [hwork, hphase, hmay]
    simp only [exec, execInsetStart, onWork, hfind, hgo, if_true]
  · have hgo : (!working s.hub s.work e || o.phase != .started) = false := by simp [hwork, hphase]
    simp only [exec, execInsetComplete, onWork, finishInset, hfind, hkind, hgo, hempty, if_true, Bool.false_eq_true,
      if_false]
  · have hend := finishInset_reads hfind hwork hphase hkind hempty hread
    refine ⟨fun hgo => ?_, fun hhalt => ?_⟩
    · simp only [exec, execInsetComplete, onWork, hend, hgo, Bool.false_eq_true, if_false]
    · simp only [exec, execInsetComplete, onWork, hend, hhalt, if_true]

end Sys2Proof.Machine

/-! ### Element-unit operations (06 R156 to R168) -/

namespace Sys2Proof.Machine

theorem issueEu_accepted {s : State} {e q word : Nat} {p : EuP} {ci : ConvIssue}
    (hc : checkEu s.hub (taken s e q) e q word = .ok (p, ci)) :
    issueEu s.hub (taken s e q) e q word = issuedEu s e q word p ci := by
  have hdraws : (!p.empty && p.op != 0x28 && anyDraw p.conv ci.marks) = true ↔
      p.empty = false ∧ p.op ≠ 0x28 ∧ anyDraw p.conv ci.marks = true := by
    rw [Bool.and_eq_true, Bool.and_eq_true, Bool.not_eq_true', bne_iff_ne, and_assoc]
  simp only [issueEu, hc, issuedEu]
  cases hd : (!p.empty && p.op != 0x28 && anyDraw p.conv ci.marks) with
  | true => rw [if_pos rfl, if_pos (hdraws.mp hd)]
  | false => rw [if_neg Bool.false_ne_true, if_neg (fun hyes => by rw [hdraws.mpr hyes] at hd; cases hd)]

/-- The operation in front of the unit ends by its run, or by the run that it had before. -/
theorem exec_euComplete {s : State} {e waited : Nat} {o : Op} {p : EuP} {b : Option Nat} {handed : List (List Nat)}
    {closed : Bool} {f : Option Code} {w1 : Work} {end1 : Option (Code × Nat)}
    (hfront : frontEu s.hub s.work e = some o) (hkind : o.kind = .eu p b handed closed f)
    (hran : o.phase = .ran → w1 = addEuWaits s.work e waited ∧ end1 = none)
    (hrun : o.phase ≠ .ran →
      runEu s.hub (addEuWaits s.work e waited) e o p handed (if p.aHandoff then handed.length else p.rows) 0 = (w1, end1)) :
    exec (.euComplete e waited) s =
      .next { s with
        work := wholeStep s.work (1, e, o.id) (endEu s.hub w1 e o p.tensorId (end1.or (f.map (fun c => (c, 0))))) } := by
  have hends := ranAlready_or_runs hran hrun
  simp only [exec, execEuComplete, onWork, hfront, hkind, euRows, hends]
  cases end1 <;> rfl

/-- Settles O17: the three commands issue what passes the checks (`issueEu_accepted`), and the operation in front ends by
its run (`exec_euComplete`). -/
theorem elementUnitOperationRuns : Obligations.ElementUnitOperationRuns := by
  intro s e q word p ci
  refine ⟨fun hc => ⟨fun hf => ?_, fun hf => ?_, fun hf => ?_⟩,
    fun o waited b handed closed f w1 end1 hfront hkind hran hrun => ?_⟩
  · have hf' : Finds s e q (euOpIs (fun op => !isSmax op)) word := by
      simpa only [isSmax, Bool.not_or, bne] using hf
    simp only [exec, execEu, onWork_decides hf', issueEu_accepted hc]
  · simp only [exec, execSmaxUpdate, onWork_decides hf, issueEu_accepted hc]
  · simp only [exec, execSmaxFinal, onWork_decides hf, issueEu_accepted hc]
  · have hend := exec_euComplete hfront hkind hran hrun
    refine ⟨fun hnone hf => ?_, fun c a hfault => ?_⟩
    · rw [hend, hnone, hf]
      rfl
    · rcases hfault with hsome | ⟨hnone, hf, ha⟩
      · rw [hend, hsome]
        rfl
      · rw [hend, hnone, hf, ha]
        rfl

end Sys2Proof.Machine

/-! ### Legends merge, and uses close (08 R217 to R227) -/

namespace Sys2Proof.Machine

theorem execLegendMerge_eq {s : State} {e id : Nat} {w : Work} (h : mergeEarly s.hub s.work e id = w) :
    exec (.legendMerge e id) s = .next { s with work := wholeStep s.work (2, e, id) w } := by
  simp only [exec, execLegendMerge, onWork, h]

/-- The close of an entry that can be read, with the store that it makes. -/
theorem closeAt_closes {h : Hub} {w w1 : Work} {entry : Nat} {b : List Byte}
    (hread : moduleRead h w (entryAddr w.tables.ttBase entry) 256 = .ok b)
    (hctrl : scaleCtrlBad (scaleCtrlOf (fld b 0x80 8)) = false)
    (hstore : rawStore h w (entryAddr w.tables.ttBase entry) (setFld (closeEntry b).1 0xB8 8 0) = .ok w1) :
    ((closeEntry b).2 = false → closeAt h w entry = .ok w1) ∧
      ((closeEntry b).2 = true → ∃ r : LogSource, r.code = 0x0305 ∧ closeAt h w entry = .ok (emit h w1 r)) := by
  simp only [closeAt, hread, hctrl, hstore, Bool.false_eq_true, if_false]
  exact ⟨fun hkept => if_neg (by rw [hkept]; exact Bool.false_ne_true), fun hcorr => ⟨_, by rfl, if_pos hcorr⟩⟩

/-- Settles O18: the operation that merges is the one in front of its unit, and a store to USE_CLOSE is one close of its
entry (`closeAt_closes`). -/
theorem legendsMergeAndUsesClose : Obligations.LegendsMergeAndUsesClose := by
  refine ⟨fun s e o w1 end1 hop hphase => ?_, fun s entry => ⟨fun hout => ?_, fun b pa hne hlt hlog haddr => ?_⟩⟩
  · have hran : (o.phase == Phase.ran) = false := by simpa using hphase
    refine ⟨fun p hkind hfront hrun => execLegendMerge_eq ?_, fun p b hkind hfront hrun => execLegendMerge_eq ?_,
      fun p b hd cl f hkind hfront hrun => execLegendMerge_eq ?_⟩
    · simp only [mergeEarly, hop, hran, hkind, hfront, hrun, bne_self_eq_false, Bool.false_eq_true, if_false]
      cases end1 <;> rfl
    · simp only [mergeEarly, hop, hran, hkind, hfront, hrun, bne_self_eq_false, Bool.false_eq_true, if_false]
      cases end1 <;> rfl
    · simp only [mergeEarly, hop, hran, hkind, hfront, euRows, hrun, bne_self_eq_false, Bool.false_eq_true, if_false]
      cases end1 <;> rfl
  · simp only [exec, execUseClose, onWork, if_pos hout]
  · have hin : ¬ (entry = 0 ∨ 2 ^ s.work.tables.ttLog2 ≤ entry ∨ s.work.tables.ttLog2 = 0) := by
      simp only [not_or, not_le]
      exact ⟨hne, hlt, hlog⟩
    refine ⟨fun hheld => ?_, fun hfree hread => ⟨fun hbad => ?_, fun w1 hctrl hstore => ?_⟩⟩
    · simp only [exec, execUseClose, onWork, if_neg hin, haddr, hheld, if_true]
    · simp only [exec, execUseClose, onWork, if_neg hin, haddr, hfree, Bool.false_eq_true, if_false, closeUse, closeAt,
        hread, hbad, if_true]
    · obtain ⟨hkeeps, hcorrects⟩ := closeAt_closes hread hctrl hstore
      refine ⟨fun hkept => ?_, fun hcorr => ?_⟩
      · simp only [exec, execUseClose, onWork, if_neg hin, haddr, hfree, Bool.false_eq_true, if_false, closeUse,
          hkeeps hkept]
      · obtain ⟨r, hcode, hclose⟩ := hcorrects hcorr
        refine ⟨r, hcode, ?_⟩
        simp only [exec, execUseClose, onWork, if_neg hin, haddr, hfree, Bool.false_eq_true, if_false, closeUse, hclose]

end Sys2Proof.Machine

/-! ### Sync tokens and reductions (07 R198 to R204) -/

namespace Sys2Proof.Machine

/-! #### SIGNAL -/

theorem signalHere_taken {h : Hub} {w : Work} {e : Nat} (c inc : Nat) (htakes : takesTokens h w e = true) :
    signalHere h w e c inc = (serveTokens h (w.setEngine e (fun en => addToken32 en c inc)) e, 0) := by
  rw [signalHere, htakes]
  rfl

theorem signalHere_refused {h : Hub} {w : Work} {e : Nat} (c inc : Nat) (htakes : takesTokens h w e = false) :
    signalHere h w e c inc = (w, 0x020E) := by
  rw [signalHere, htakes]
  rfl

/-- A SIGNAL before which everything of its stream is complete runs. -/
theorem exec_signalArrival_engineOp {s : State} {e : Nat} {o : Op} {p : SignalP}
    (hop : (s.work.engine e).op o.id = some o) (hkind : o.kind = .signal p) (hwork : working s.hub s.work e = true)
    (hprior : priorDone (s.work.engine e) o = true) :
    exec (.signalArrival (.engineOp e o.id)) s = .next { s with work := runSignal s.hub s.work e o p } := by
  simp only [exec, execSignalArrival, onWork, hop, hkind, hwork, hprior, Bool.and_self, if_true]

theorem runSignal_here {h : Hub} {w : Work} {e : Nat} {o : Op} {p : SignalP} (hself : isSelf h p.module = true) :
    (takesTokens h w p.engine = true →
      runSignal h w e o p =
        completeOp h (serveTokens h (w.setEngine p.engine (fun en => addToken32 en p.counter p.inc)) p.engine) e o) ∧
      (takesTokens h w p.engine = false → runSignal h w e o p = faultOp h w e o 0x020E 0 none 0) := by
  refine ⟨fun htakes => ?_, fun htakes => ?_⟩
  · simp only [runSignal, hself, if_true, signalHere_taken _ _ htakes]
  · simp only [runSignal, hself, if_true, signalHere_refused _ _ htakes]
    rfl

theorem runSignal_answered {h : Hub} {w : Work} {e : Nat} {o : Op} {p : SignalP} {c : Code}
    (hself : isSelf h p.module = false) (hnumber : h.ident.numberValid = true) (hanswer : p.answer = some c) :
    runSignal h w e o p = if c = 0 then completeOp h w e o else faultOp h w e o c 0 none 0 := by
  simp only [runSignal, hself, hnumber, hanswer, Bool.false_eq_true, if_false, Bool.not_true]

/-- A SIGNAL packet that no reset keeps out raises its counter, or its engine takes no token. -/
theorem exec_signalArrival_packet {s : State} {k : Nat} {p : Packet}
    (hinbox : inboxAt s.work k (fun x => x.op == 0x04) = some p) :
    exec (.signalArrival (.packet k)) s = .next { s with work := remoteSignal s.hub s.work k p } := by
  simp only [exec, execSignalArrival, onWork, hinbox]

theorem signals_raise_counters (s : State) :
    (∀ e q word : Nat, Finds s e q (opcodeIs 0x60) word →
      (bitsOf word 64 32 = 0 →
        exec (.signal e q) s =
          .next { s with work := (taken s e q).setStream e q (fun st => { st with isn := st.isn + 1, pc := st.pc + 16 }) }) ∧
      (bitsOf word 64 32 ≠ 0 →
        exec (.signal e q) s =
          .next { s with
            work := issueOp (taken s e q) e q word none (acquireOf word) true
              (.signal ⟨regN ((taken s e q).stream e q) word 16 % 2 ^ 17, bitsOf word 21 7, bitsOf word 28 6, bitsOf word 64 32,
                false, none⟩) })) := by
  intro e q word hf
  refine ⟨fun hinc => ?_, fun hinc => ?_⟩
  · simp only [exec, execSignal, onWork_decides hf, if_pos hinc, advance]
  · simp only [exec, execSignal, onWork_decides hf, if_neg hinc]

/-! #### WAIT -/

theorem metWait_spec {en : Engine} {o : Op} {p : WaitP} (hmet : metWait en = some (o, p)) :
    o ∈ en.ops ∧ o.kind = .wait p ∧ p.threshold ≤ (en.tokens.getD p.counter 0).toNat ∧ queueMayStart en o = true ∧
      (∀ x ∈ en.ops, ∀ y : WaitP, x.kind = .wait y → y.counter = p.counter → o.id ≤ x.id) := by
  obtain ⟨x, hx, hfound⟩ := List.exists_of_findSome?_eq_some hmet
  cases hkind : x.kind with
  | wait y =>
    simp only [hkind] at hfound
    split_ifs at hfound with hcond
    obtain ⟨rfl, rfl⟩ : x = o ∧ y = p := by simpa using hfound
    simp only [Bool.and_eq_true, decide_eq_true_eq, Bool.not_eq_true', List.any_eq_false, not_and] at hcond
    obtain ⟨⟨hstart, hthreshold⟩, hearlier⟩ := hcond
    refine ⟨hx, hkind, hthreshold, hstart, fun z hz y' hkz hcounter => ?_⟩
    by_contra hlt
    exact hearlier z hz (by omega) (by simp [hkz, hcounter])
  | _ => simp [hkind] at hfound

@[simp] theorem clearFence_tokens (en : Engine) (q : Nat) : (clearFence en q).tokens = en.tokens := by
  unfold clearFence
  split
  · rfl
  · split <;> rfl

theorem meetWait_tokens (en : Engine) (o : Op) (p : WaitP) :
    (meetWait en o p).tokens =
      if p.consume then en.tokens.modify p.counter (fun t => t - BitVec.ofNat 32 p.threshold) else en.tokens := by
  rw [meetWait, clearFence_tokens]
  rfl

/-- Settles O20: a SIGNAL that may run arrives, leaves or ends (`runSignal_here`, `runSignal_answered`), a WAIT that is met is
the first on its counter (`metWait_spec`), and a timeout ends what still waits. -/
theorem signalsRaiseCountersAndWaitsWait : Obligations.SignalsRaiseCountersAndWaitsWait := by
  refine ⟨fun s => ⟨signals_raise_counters s, ?_, ?_, ?_⟩, fun s e => ⟨?_, ?_, meetWait_tokens, ?_⟩⟩
  · intro e o p hop hkind hwork hprior hself
    obtain ⟨htaken, hrefused⟩ := runSignal_here (h := s.hub) (w := s.work) (e := e) (o := o) hself
    have hexec := exec_signalArrival_engineOp hop hkind hwork hprior
    exact ⟨fun htakes => by rw [hexec, htaken htakes]; rfl, fun htakes => by rw [hexec, hrefused htakes]⟩
  · intro e o p hop hkind hwork hprior hself hnumber
    have hexec := exec_signalArrival_engineOp hop hkind hwork hprior
    refine ⟨fun w1 hanswer hsent hsend => ?_, fun hanswer => ?_, fun c hanswer hc => ?_⟩
    · rw [hexec, runSignal]
      simp only [hsend]
      simp only [hself, hnumber, hanswer, hsent, Bool.false_eq_true, if_false, Bool.not_true, if_true]
    · rw [hexec, runSignal_answered hself hnumber hanswer, if_pos rfl]
    · rw [hexec, runSignal_answered hself hnumber hanswer, if_neg hc]
  · intro k p hinbox
    have hexec := exec_signalArrival_packet hinbox
    refine ⟨fun hdown => ?_, fun hup htakes => ?_, fun hup htakes => ?_⟩
    · rw [hexec, remoteSignal, if_pos hdown]
    · simp only [hexec, remoteSignal, hup, Bool.false_eq_true, if_false, signalHere_refused _ _ htakes]
    · simp only [hexec, remoteSignal, hup, Bool.false_eq_true, if_false, signalHere_taken _ _ htakes]
  · intro q word hf
    refine ⟨fun hzero => ?_, fun hpos => ?_⟩
    · simp only [exec, execWait, onWork_decides hf, if_pos hzero, advance]
    · simp only [exec, execWait, onWork_decides hf, if_neg hpos]
  · exact fun en o p hmet => metWait_spec hmet
  · intro o hop hwork
    refine ⟨fun p hkind htimeout hrun => ?_, fun p hkind htimeout => ?_⟩
    · have hgo : (working s.hub s.work e && !(s.work.engine e).stopped && p.timeout != 0) = true := by
        rw [hwork, hrun, bne_iff_ne.mpr htimeout]
        rfl
      simp only [exec, execWaitTimeout, onWork, hop, hkind, hgo, if_true, waitOut]
    · have hgo : (working s.hub s.work e && p.timeout != 0) = true := by
        rw [hwork, bne_iff_ne.mpr htimeout]
        rfl
      simp only [exec, execWaitTimeout, onWork, hop, hkind, hgo, if_true]

/-! #### REDUCE -/

theorem exec_reduceComplete {s : State} {e : Nat} {o : Op} {p : ReduceP} (hop : (s.work.engine e).op o.id = some o)
    (hkind : o.kind = .reduce p) (hwork : working s.hub s.work e = true)
    (hstart : queueMayStart (s.work.engine e) o = true) :
    exec (.reduceComplete e o.id) s =
      .next { s with work := wholeStep s.work (1, e, o.id) (runReduce s.hub s.work e o p) } := by
  simp only [exec, execReduceComplete, onWork, hop, hkind, hwork, hstart, Bool.and_self, if_true]

/-- Below the root a member goes to its parent, where that is there. -/
theorem runReduce_climbs {h : Hub} {w : Work} {e : Nat} {o : Op} {p : ReduceP} (hbelow : 2 ^ nextLevel p < p.members) :
    (p.member % 2 ^ (nextLevel p + 1) = 0 ∨
        parentReduce h w (p.table.getD (p.member - 2 ^ nextLevel p) 0) p.reduceId = none →
      runReduce h w e o p = w) ∧
    (∀ x : LiveReduce, p.member % 2 ^ (nextLevel p + 1) ≠ 0 →
      parentReduce h w (p.table.getD (p.member - 2 ^ nextLevel p) 0) p.reduceId = some x →
      (sameHeader x.par p = true → nextLevel x.par = nextLevel p →
        runReduce h w e o p = joinSubtrees h w ⟨e, o, p⟩ x (nextLevel p)) ∧
      (sameHeader x.par p = false →
        runReduce h w e o p = endReduction h w p.reduceId 0x0210 (x.par.table ++ p.table).eraseDups [])) := by
  have hnotRoot : ¬ p.members ≤ 2 ^ nextLevel p := by omega
  refine ⟨fun hnone => ?_, fun x hchild hparent => ⟨fun hsame hlevel => ?_, fun hother => ?_⟩⟩
  · by_cases hown : p.member % 2 ^ (nextLevel p + 1) = 0
    · rw [runReduce, if_neg hnotRoot, if_pos hown]
    · simp only [runReduce, if_neg hnotRoot, if_neg hown, hnone.resolve_left hown]
  · simp only [runReduce, if_neg hnotRoot, if_neg hchild, hparent, hsame, hlevel, Bool.not_true, Bool.false_eq_true,
      if_false, if_true]
  · simp only [runReduce, if_neg hnotRoot, if_neg hchild, hparent, hother, Bool.not_false, if_true]

/-- Settles O21: an accepted REDUCE is issued, and its member writes the root, joins its parent or waits
(`runReduce_climbs`). -/
theorem reduceClimbsTheMemberTree : Obligations.ReduceClimbsTheMemberTree := by
  intro s e
  refine ⟨fun q word p conv hf hc => ⟨fun hnone => ?_, fun o n hnotice hop => ?_⟩, fun o p hop hkind hwork hstart => ?_⟩
  · simp only [exec, execReduce, onWork_decides hf, hc, hnone]
  · simp only [exec, execReduce, onWork_decides hf, hc, hnotice, hop]
  · have hexec := exec_reduceComplete hop hkind hwork hstart
    refine ⟨fun hroot => ?_, fun hbelow hnone => ?_, fun x hbelow hchild hparent => ?_⟩
    · rw [hexec, runReduce, if_pos hroot]
    · rw [hexec, (runReduce_climbs hbelow).1 hnone, wholeStep_done _ _ _ (newlyHeld_coh _ _ rfl)]
    · obtain ⟨hjoins, hends⟩ := (runReduce_climbs (e := e) (o := o) hbelow).2 x hchild hparent
      exact ⟨fun hsame hlevel => by rw [hexec, hjoins hsame hlevel]; rfl, fun hother => by rw [hexec, hends hother]⟩

end Sys2Proof.Machine

/-! ### Memory errors reach their consumer (11 R330 to R332) -/

namespace Sys2Proof.Machine

/-- A core of a module with power meets bad data: the code goes back to it, and the transaction that fetches the line for it,
or acts at the home, ends without a grant. -/
theorem coreError_cases {h : Hub} {w w1 : Work} {n : Nat} {code : Code} {addr : Nat}
    (hw1 : w1 = (emitMemError h (badLeaves h w n code addr) code (unitOf 6 n) addr).reply code []) :
    (activeTxn w1.coh (lineOf addr) = none → coreError h w n code addr = w1) ∧
      (∀ t, activeTxn w1.coh (lineOf addr) = some t → (t.agent = n ∨ isUncached t.kind = true) →
        coreError h w n code addr =
          releaseHome h
            (advanceLine h
              (dirNote h (grantLine (freeTracker (returnSupply w1 t) t) none code) (lineOf addr)) (lineOf addr))
            (lineHome (lineOf addr))) := by
  subst hw1
  refine ⟨fun hnone => ?_, fun t htxn hown => ?_⟩
  · simp only [coreError, hnone]
  · simp only [coreError, htxn, if_pos hown]

/-- Settles O22: each consumer that the model asks is the one that the statement names, in the state it names. -/
theorem memoryErrorReachesItsConsumer : Obligations.MemoryErrorReachesItsConsumer := by
  intro s e o addr re
  refine ⟨fun hop hwork hphase => ⟨fun n p set hkind => ?_, fun p c set acts t row col hkind hlow hrow hcol => ?_⟩,
    fun q hwork hdesc hen hfault hseal => ?_, fun n hpow => ⟨fun hnone => ?_, fun t htxn hown => ?_⟩, fun agent => rfl⟩
  · simp only [exec, execMemoryParityError, onWork, consumeError, hop, hwork, if_true, operationError, hkind, hphase,
      beq_self_eq_true, errorCode]
  · have hin : t ≤ row ∧ row < p.m ∧ col < set.nCols := ⟨hlow, hrow, hcol⟩
    simp only [exec, execMemoryParityError, onWork, consumeError, hwork, if_true, tileElemError, hop, tileOperand, hkind,
      hphase, beq_self_eq_true, hin, and_self, decide_true, Bool.and_self, errorCode]
  · simp only [exec, execMemoryParityError, onWork, consumeError, hwork, if_true, streamError, hdesc, Option.isNone_none,
      hen, hfault, hseal, Bool.not_false, Bool.and_self, errorCode]
  · simp only [exec, execMemoryParityError, onWork, consumeError, hpow, if_true, errorCode]
    exact congrArg (fun w => Host.Outcome.next { s with work := noteRetries re s.work w }) ((coreError_cases rfl).1 hnone)
  · simp only [exec, execMemoryParityError, onWork, consumeError, hpow, if_true, errorCode]
    exact congrArg (fun w => Host.Outcome.next { s with work := noteRetries re s.work w })
      ((coreError_cases rfl).2 t htxn hown)

end Sys2Proof.Machine

/-! ### Self-park and single-engine reset (15 R484, 07 R214) -/

namespace Sys2Proof.Machine

theorem tileGet_resetTile (m j : Nat) : tileGet resetTile m j = 0 := rfl

theorem clearEngine_tile (e : Nat) (en : Engine) (t : Nat) : (clearEngine e en).tile t = resetTile := by
  match t with
  | 0 => rfl
  | 1 => rfl
  | t + 2 => rfl

theorem clearEngine_stream (e : Nat) (en : Engine) (q : Nat) :
    (clearEngine e en).stream q = resetStreamOf (en.stream q) := by
  simp only [Engine.stream, clearEngine, List.getD_eq_getElem?_getD, List.getElem?_map]
  cases en.streams[q]? <;> rfl

theorem bitOf_eq (n i : Nat) : bitOf n i = decide (n / 2 ^ i % 2 = 1) := rfl

theorem bitOf_zero (n : Nat) : bitOf n 0 = decide (n % 2 = 1) := by
  rw [bitOf_eq, Nat.pow_zero, Nat.div_one]

/-- Settles O23: the two commands are the model's own, and the cleared engine is read field by field (`clearEngine_stream`,
`clearEngine_tile`). -/
theorem engineParksAndResets : Obligations.EngineParksAndResets := by
  refine ⟨fun s e => ⟨fun hwork hidle => ?_, fun v hv => ?_, fun v he hv hres hpow hready => ⟨_, rfl, ?_⟩, rfl⟩,
    fun e en => ?_⟩
  · simp only [exec, execEngineSelfPark, onWork, hwork, hidle, Bool.and_self, if_true]
  · have hnot : bitOf v.toNat 0 = false := by rw [bitOf_zero, decide_eq_false]; omega
    simp only [exec, execSingleEngineReset, onWork, hnot, Bool.and_false, Bool.false_and, Bool.false_eq_true, if_false]
  · simp only [exec, execSingleEngineReset, onWork, he, bitOf_zero, hv, hres, hpow, hready, decide_true, Bool.not_false,
      Bool.and_self, if_true, resetEngineNow] <;> rfl
  · refine ⟨rfl, rfl, rfl, rfl, rfl, rfl, rfl, rfl, rfl, rfl, rfl, rfl, rfl, rfl, fun t m j => ?_,
      List.length_map resetStreamOf, fun q => ?_⟩
    · rw [clearEngine_tile]
      exact ⟨tileGet_resetTile m j, rfl, rfl⟩
    · rw [clearEngine_stream]
      exact ⟨rfl, rfl, rfl, rfl, rfl, rfl, rfl⟩

end Sys2Proof.Machine

/-! ### Engine registers act when written (07 R211, R212) -/

namespace Sys2Proof.Machine

/-- What a write of QCFG leaves of a queue (07 R172, R211). -/
structure QcfgWritten (h : Hub) (v : Word) (st st' : Stream) : Prop where
  disabled : v.toNat / 32 % 2 = 0 → st'.enable = false
  kept : st.enable = true → st'.base = st.base ∧ st'.log2 = st.log2 ∧ (v.toNat / 32 % 2 = 1 → st' = st)
  set : st.enable = false →
    st'.log2 = v.toNat % 32 ∧ st'.base = v.toNat / 4096 % 2 ^ 35 * 4096 ∧
      (st'.enable = true ↔
        v.toNat / 32 % 2 = 1 ∧ 4 ≤ v.toNat % 32 ∧ v.toNat % 32 ≤ 16 ∧
          v.toNat / 4096 % 2 ^ 35 * 4096 + 2 ^ (v.toNat % 32) * 64 ≤ lpddrEnd h)
  nextSeq : st'.nextSeq = st.nextSeq
  d : st'.d = st.d

theorem writeQcfg_spec (h : Hub) (st : Stream) (v : Word) : QcfgWritten h v st (writeQcfg h st v) := by
  have hbit : bitOf v.toNat 5 = decide (v.toNat / 32 % 2 = 1) := rfl
  have hlog : bitsOf v.toNat 0 5 = v.toNat % 32 := by simp [bitsOf]
  have hbase : bitsOf v.toNat 12 35 = v.toNat / 4096 % 2 ^ 35 := rfl
  by_cases hset : v.toNat / 32 % 2 = 1
  · cases hen : st.enable with
    | true =>
      have heq : writeQcfg h st v = st := by simp [writeQcfg, hbit, hset, hen]
      rw [heq]
      exact ⟨fun hzero => by omega, fun _ => ⟨rfl, rfl, fun _ => rfl⟩, fun hdis => (by rw [hen] at hdis; cases hdis), rfl,
        rfl⟩
    | false =>
      by_cases hring : 4 ≤ v.toNat % 32 ∧ v.toNat % 32 ≤ 16 ∧
          v.toNat / 4096 % 2 ^ 35 * 4096 + 2 ^ (v.toNat % 32) * 64 ≤ lpddrEnd h
      · have heq : writeQcfg h st v =
            { st with
              log2 := v.toNat % 32, base := v.toNat / 4096 % 2 ^ 35 * 4096, enable := true, hint := none, rereads := 0,
              unsealed := false, ringWaits := false } := by
          have hring' : 4 ≤ v.toNat % 32 ∧ v.toNat % 32 ≤ 16 ∧
              inLpddr h (v.toNat / 4096 % 2 ^ 35 * 4096) (2 ^ (v.toNat % 32) * 64) = true := by
            simpa only [inLpddr, decide_eq_true_eq] using hring
          simp only [writeQcfg, hbit, hset, hen, hlog, hbase, decide_true, Bool.not_true, Bool.false_eq_true, if_false,
            if_pos hring']
        rw [heq]
        exact ⟨fun hzero => by omega, fun hyes => (by rw [hen] at hyes; cases hyes),
          fun _ => ⟨rfl, rfl, fun _ => ⟨hset, hring⟩, fun _ => rfl⟩, rfl, rfl⟩
      · have heq : writeQcfg h st v =
            { st with log2 := v.toNat % 32, base := v.toNat / 4096 % 2 ^ 35 * 4096, enable := false } := by
          have hring' : ¬ (4 ≤ v.toNat % 32 ∧ v.toNat % 32 ≤ 16 ∧
              inLpddr h (v.toNat / 4096 % 2 ^ 35 * 4096) (2 ^ (v.toNat % 32) * 64) = true) := by
            simpa only [inLpddr, decide_eq_true_eq] using hring
          simp only [writeQcfg, hbit, hset, hen, hlog, hbase, decide_true, Bool.not_true, Bool.false_eq_true, if_false,
            if_neg hring']
        rw [heq]
        exact ⟨fun hzero => by omega, fun hyes => (by rw [hen] at hyes; cases hyes),
          fun _ => ⟨rfl, rfl, fun hon => (by cases hon), fun hall => absurd hall.2 hring⟩, rfl, rfl⟩
  · cases hen : st.enable with
    | true =>
      have heq : writeQcfg h st v = { st with enable := false } := by simp [writeQcfg, hbit, hset, hen]
      rw [heq]
      exact ⟨fun _ => rfl, fun _ => ⟨rfl, rfl, fun hone => absurd hone hset⟩,
        fun hdis => (by rw [hen] at hdis; cases hdis), rfl, rfl⟩
    | false =>
      have heq : writeQcfg h st v =
          { st with log2 := v.toNat % 32, base := v.toNat / 4096 % 2 ^ 35 * 4096, enable := false } := by
        simp [writeQcfg, hbit, hset, hen, hlog, hbase]
      rw [heq]
      exact ⟨fun _ => rfl, fun hyes => (by rw [hen] at hyes; cases hyes),
        fun _ => ⟨rfl, rfl, fun hon => (by cases hon), fun hall => absurd hall.1 hset⟩, rfl, rfl⟩

/-- Settles O24: QCFG is `writeQcfg_spec` on its stream, and each of the other registers is one test of the bit written. -/
theorem engineRegistersActWhenWritten : Obligations.EngineRegistersActWhenWritten := by
  have hfault : ∀ n : Nat, bitOf n 4 = decide (n / 16 % 2 = 1) := fun _ => rfl
  refine ⟨fun s e q v st he hst => ?_, fun s e q v => ⟨?_, ?_, ?_, fun hv => ⟨?_, ?_⟩, fun hv => ⟨?_, ?_⟩,
    fun _ => rfl, fun hpend => ?_⟩⟩
  · have hq : q < (s.work.engine e).streams.length := List.getElem?_eq_some_iff.mp hst |>.1
    have hst' : (s.work.setStream e q (fun st => writeQcfg s.hub st v)).stream e q = writeQcfg s.hub st v := by
      rw [Work.stream_setStream_self _ he hq, Work.stream_of_getElem hst]
    obtain ⟨hdis, hkept, hset, hseq, hd⟩ := writeQcfg_spec s.hub st v
    refine ⟨{ s with work := s.work.setStream e q (fun st => writeQcfg s.hub st v) }, rfl, rfl, rfl, rfl, ?_⟩
    dsimp only
    rw [hst']
    exact ⟨hdis, hkept, hset, hseq, hd⟩
  · intro hf hv hwork
    simp only [exec, execStreamFaultClear, onWork, hf, hfault, hv, decide_true, Bool.and_self, if_true, hwork]
  · intro hf hv hwork
    simp only [exec, execStreamFaultClear, onWork, hf, hfault, hv, decide_true, Bool.and_self, if_true, hwork,
      Bool.false_eq_true, if_false]
  · intro hnone
    have hnot : ((s.work.stream e q).fault && bitOf v.toNat 4) = false := by
      rcases hnone with hf | hv
      · rw [hf, Bool.false_and]
      · rw [hfault, decide_eq_false (by omega), Bool.and_false]
    simp only [exec, execStreamFaultClear, onWork, hnot, Bool.false_eq_true, if_false]
  · simp only [exec, execTrapRearm, onWork, bitOf_zero, hv, decide_true, if_true]
  · simp only [exec, execXlateInval, onWork, bitOf_zero, hv, decide_true, if_true]
  · simp only [exec, execTrapRearm, onWork, bitOf_zero, hv, Nat.zero_ne_one, decide_false, Bool.false_eq_true, if_false]
  · simp only [exec, execXlateInval, onWork, bitOf_zero, hv, Nat.zero_ne_one, decide_false, Bool.false_eq_true, if_false]
  · refine ⟨_, rfl, ?_⟩
    dsimp only
    rw [Work.engine_setEngine]
    split
    · rw [hpend, if_neg Bool.false_ne_true]
    · rfl

end Sys2Proof.Machine

/-! ### Register stores and reads (01 R28, R29, 19 R543) -/

namespace Sys2Proof.Machine

/-- A 64-bit store to a mapped register is that register's own store, and the core is answered 0. -/
theorem exec_registerWrite_mapped {s : State} {o : Nat} {v : Word} (href : s.hub.safety.refFail = false)
    (h8 : o % 8 = 0) (hmap : (readRegister s.hub s.work o).isSome = true) :
    exec (.registerWrite o 8 v) s = .next { s with work := (storeRegister s.hub s.work o v).reply 0 [] } := by
  have hok : ¬ (8 ≠ 8 ∨ o % 8 ≠ 0 ∨ (readRegister s.hub s.work o).isNone = true) := by
    rintro (h | h | h)
    · exact h rfl
    · exact h h8
    · rw [Option.isNone_iff_eq_none.mp h] at hmap
      cases hmap
  simp only [exec, execRegisterWrite, onWork, href, Bool.false_eq_true, if_false, writeRegister, if_neg hok]

/-- The block of an engine in register space (01 R28). -/
theorem exec_registerWrite_engine {s : State} {e x : Nat} {v : Word} (href : s.hub.safety.refFail = false) (he : e < 72)
    (hx : x < 0x1000) (h8 : x % 8 = 0) (hmap : (engineRegister s.hub s.work e x).isSome = true) :
    exec (.registerWrite (0x2000000 + e * 0x1000 + x) 8 v) s =
      .next { s with work := (storeEngineReg s.hub s.work e x v).reply 0 [] } := by
  have hdiv : (0x2000000 + e * 0x1000 + x - 0x2000000) / 0x1000 = e := by omega
  have hmod : (0x2000000 + e * 0x1000 + x) % 0x1000 = x := by omega
  rw [exec_registerWrite_mapped href (by omega), storeRegister, if_neg (by omega), if_pos (by omega), hdiv, hmod]
  rw [readRegister, if_neg (by omega), if_neg (by omega), if_neg (by omega), if_neg (by omega), if_pos (by omega), hdiv,
    hmod]
  exact hmap

theorem bitOf_toNat (v : Word) (i : Nat) : bitOf v.toNat i = v.getLsbD i := by
  rw [bitOf_eq, BitVec.getLsbD, Nat.testBit_eq_decide_div_mod_eq]

theorem storeUpdateReg_locked {u : Update} {x : Nat} (v : Word) (hphase : u.phase ≠ 0) (hx : x ≠ 0x048) :
    storeUpdateReg u x v = u := by
  rw [storeUpdateReg, if_neg hx, if_pos hphase]

/-- The registers of the keep windows are mapped (10 R311). -/
theorem keepRegister_isSome {h : Hub} {w : Work} {e x : Nat} (hlow : 0x640 ≤ x) (hhigh : x < 0x670) (h8 : x % 8 = 0) :
    (engineRegister h w e x).isSome = true := by
  have hx : x = 0x640 ∨ x = 0x648 ∨ x = 0x650 ∨ x = 0x658 ∨ x = 0x660 ∨ x = 0x668 := by omega
  rcases hx with rfl | rfl | rfl | rfl | rfl | rfl <;> rfl

/-- Settles O25: a mapped 64-bit store is its register's own (`exec_registerWrite_mapped`, `exec_registerWrite_engine`). -/
theorem registersAreWrittenAndRead : Obligations.RegistersAreWrittenAndRead := by
  intro s o v
  refine ⟨fun href width => ?_, fun href => ⟨fun width hbad => ?_, fun e he => ⟨?_, ?_, ?_, ?_⟩, fun ho h8 hmap => ?_,
    fun x hx h8 ho hmap => ⟨?_, storeUpdateReg_locked v⟩, fun x hlow hx h8 ho hmap => ?_⟩, fun hi2c => ⟨fun x hin hread => ?_,
    fun hout => ?_⟩⟩
  · simp only [exec, execRegisterWrite, onWork, href, if_true]
  · have hbad' : width ≠ 8 ∨ o % 8 ≠ 0 ∨ (readRegister s.hub s.work o).isNone = true := by
      simpa only [Option.isNone_iff_eq_none] using hbad
    simp only [exec, execRegisterWrite, onWork, href, Bool.false_eq_true, if_false, writeRegister, if_pos hbad']
  · rintro c hc rfl
    rw [Nat.add_assoc _ 0x200, exec_registerWrite_engine href he (by omega) (by omega), storeEngineReg, if_neg (by omega),
      if_neg (by omega), if_pos (by omega), show (0x200 + 8 * c - 0x200) / 8 = c by omega]
    · rfl
    · rw [engineRegister, if_neg (by omega), if_neg (by omega), if_neg (by omega), if_pos (by omega)]
      rfl
  · rintro rfl
    rw [exec_registerWrite_engine href he (by omega) (by omega) rfl, storeEngineReg, if_neg (by omega), if_neg (by omega),
      if_neg (by omega), if_pos rfl, bitOf_toNat, bitOf_toNat]
  · rintro k f hk hf rfl
    have hoff : 0x2000000 + e * 0x1000 + 0x640 + 0x18 * k + 8 * f =
        0x2000000 + e * 0x1000 + (0x640 + 0x18 * k + 8 * f) := by omega
    have hfield : (0x640 + 0x18 * k + 8 * f - 0x640) % 0x18 = 8 * f := by omega
    rw [hoff, exec_registerWrite_engine href he (by omega) (by omega), storeEngineReg, if_neg (by omega),
      if_neg (by omega), if_neg (by omega), if_neg (by omega), if_pos (by omega), hfield,
      show (0x640 + 0x18 * k + 8 * f - 0x640) / 0x18 = k by omega]
    exact keepRegister_isSome (by omega) (by omega) (by omega)
  · rintro q hq rfl
    rw [Nat.add_assoc _ 0x048, exec_registerWrite_engine href he (by omega) (by omega), storeEngineReg, if_neg (by omega),
      if_pos (by omega), show (0x048 + 0x40 * q - 0x40) / 0x40 = q by omega]
    rw [engineRegister, if_neg (by omega), if_neg (by omega), if_pos (by omega), show (0x048 + 0x40 * q - 0x40) % 0x40 = 8 by omega]
    rfl
  · rw [exec_registerWrite_mapped href h8 hmap, storeRegister, if_pos ho]
    rfl
  · subst ho
    rw [exec_registerWrite_mapped href (by omega) hmap, storeRegister, if_neg (by omega), if_neg (by omega),
      if_pos (by omega), Nat.add_sub_cancel_left]
  · subst ho
    rw [exec_registerWrite_mapped href (by omega) hmap, storeRegister, if_neg (by omega), if_neg (by omega),
      if_neg (by omega), if_pos (by omega), Nat.add_sub_cancel_left]
  · simp only [exec, execReadReg, onWork, hi2c, if_true, i2cRead, if_pos hin, hread]
  · simp only [exec, execReadReg, onWork, hi2c, if_true, i2cRead, if_neg hout]

end Sys2Proof.Machine

/-! ### GO, the pre-check and the end of a step (09 R264 to R274) -/

namespace Sys2Proof.Machine

theorem enterPhase_upd (h : Hub) (w : Work) (p : Nat) : (enterPhase h w p).upd = { w.upd with phase := p } :=
  (memStep_trace h (w.setUpd (fun u => { u with phase := p })) 3 (unitOf 0 0) p).upd

theorem traceVote_upd (h : Hub) (w : Work) : (traceVote h w).upd = w.upd := by
  unfold traceVote
  split
  · exact (memStep_trace h w.tick 5 _ _).upd
  · rfl

/-- The end of a step shows its number, its outcome and its status. -/
theorem finishStep_upd (h : Hub) (w : Work) (r : UpdRun) (outcome : Nat) (status : Code) (el na fr : Nat) :
    (finishStep h w r outcome status el na fr).upd.phase = 0 ∧
      (finishStep h w r outcome status el na fr).upd.lastOutcome = outcome ∧
      (finishStep h w r outcome status el na fr).upd.lastStatus = status ∧
      (finishStep h w r outcome status el na fr).upd.lastStep = r.desc.step ∧
      (finishStep h w r outcome status el na fr).upd.run = none := by
  simp only [finishStep, endStep, enterPhase_upd, Work.setUpd, and_self]

/-! #### The bits of UPD_GO -/

theorem bits_of_mod_four {n k : Nat} (hn : n % 4 = k) :
    bitOf n 0 = decide (k % 2 = 1) ∧ bitOf n 1 = decide (k / 2 = 1) := by
  have h0 : n % 2 = k % 2 := by omega
  have h1 : n / 2 % 2 = k / 2 := by omega
  exact ⟨by rw [bitOf_zero, h0], by rw [bitOf_eq, Nat.pow_one, h1]⟩

theorem abortBit_idle {h : Hub} {w : Work} (hphase : w.upd.phase ≠ 2) : abortBit h w = w := by
  unfold abortBit
  split
  · rw [if_neg hphase]
  · rfl

/-- A store of GO without ABORT. -/
theorem exec_go {s : State} {v : Word} (hready : updReady s.hub = true) (hv : v.toNat % 4 = 1) :
    exec (.go v) s = .next { s with work := goBit s.hub s.work s.work.upd.phase none } := by
  obtain ⟨hgo, habort⟩ := bits_of_mod_four hv
  simp only [exec, execGo, onWork, hready, hgo, storeGo, habort, Nat.reduceMod, Nat.reduceDiv, decide_true,
    Nat.zero_ne_one, decide_false, Bool.and_self, Bool.false_eq_true, if_true, if_false]

/-- A store of GO and ABORT: a GO of the PHASE before it. -/
theorem exec_go_abort {s : State} {v : Word} (hready : updReady s.hub = true) (hv : v.toNat % 4 = 3) :
    exec (.go v) s = .next { s with work := goBit s.hub (abortBit s.hub s.work) s.work.upd.phase none } := by
  obtain ⟨hgo, habort⟩ := bits_of_mod_four hv
  simp only [exec, execGo, onWork, hready, hgo, storeGo, habort, Nat.reduceMod, Nat.reduceDiv, decide_true,
    Bool.and_self, if_true]

theorem exec_updAbort {s : State} {v : Word} (hready : updReady s.hub = true) (hv : v.toNat % 4 = 2) :
    exec (.updAbort v) s = .next { s with work := abortBit s.hub s.work } := by
  obtain ⟨hgo, habort⟩ := bits_of_mod_four hv
  simp only [exec, execUpdAbort, onWork, hready, hgo, storeGo, habort, Nat.reduceMod, Nat.reduceDiv, decide_true,
    Nat.zero_ne_one, decide_false, Bool.and_self, Bool.false_eq_true, if_true, if_false]

theorem goBit_refused {h : Hub} {w : Work} {phase : Nat} {forced : Option (Code × Nat)}
    (hbad : phase ≠ 0 ∨ w.copier.phase = 1 ∨ w.copier.restoreBad = true ∨ w.copier.verifyFail = true ∨
      inLpddr h w.upd.stepDesc 64 = false) :
    goBit h w phase forced = w.setUpd (fun u => { u with goRefused := true }) :=
  if_pos (by simpa only [Bool.not_eq_true'] using hbad)

theorem goBit_accepted {h : Hub} {w : Work} {forced : Option (Code × Nat)} (hcopier : w.copier.phase ≠ 1)
    (hbad : w.copier.restoreBad = false) (hfail : w.copier.verifyFail = false)
    (hdesc : inLpddr h w.upd.stepDesc 64 = true) : goBit h w 0 forced = startStep h w forced :=
  if_neg (by simp [hcopier, hbad, hfail, hdesc])

/-! #### A step starts -/

/-- A descriptor whose record can be kept: COMMIT of its slot is cleared, and the step is judged. -/
theorem startStep_judges {h : Hub} {w w1 w2 : Work} {b : List Byte} {d : StepDesc} {bank : Nat}
    (hread : moduleRead h w w.upd.stepDesc 64 = .ok b) (hd : d = stepDescOf b)
    (hw1 : w1 = enterPhase h (w.setUpd (fun u => { u with accepted := d.step })) 1) (halign : d.recAddr % 128 = 0)
    (hplace : inLpddr h d.recAddr 128 = true)
    (hstore : moduleStore h w1 (recordSlot d + 0x38) (leBytes 8 0) = .ok w2)
    (hbank : currentBank h w2 d.recAddr = .ok bank) : startStep h w none = judgeStep h w2 d bank none := by
  subst hd hw1
  have hok : ¬ ((stepDescOf b).recAddr % 128 ≠ 0 ∨ (!inLpddr h (stepDescOf b).recAddr 128) = true) := by
    simp [halign, hplace]
  simp only [startStep, hread, if_neg hok, hstore, hbank]

/-- A step without a vote group. -/
theorem judgeStep_alone {h : Hub} {w : Work} {d : StepDesc} {bank : Nat} (hvote : d.voteGroup = noVote) :
    (∀ plan, preCheck h w d bank false = .ok (0, plan) →
      judgeStep h w d bank none =
        beginUnits h (w.setUpd (fun u => { u with run := some ⟨d, bank, plan, true, 0, 0, 0⟩ }))) ∧
    (∀ f plan, f ≠ 0 → preCheck h w d bank false = .ok (f, plan) →
      judgeStep h w d bank none =
        finishStep h (w.setUpd (fun u => { u with run := some ⟨d, bank, plan, false, f, 0, 0⟩ }))
          ⟨d, bank, plan, false, f, 0, 0⟩ 2 0 0 0 0) ∧
    (∀ (c : Code) (a : Nat), preCheck h w d bank false = .error (c, a) →
      judgeStep h w d bank none =
        finishStep h (noteReadError h w c (unitOf 0 0) a) ⟨d, bank, [], false, 0, 0, 0⟩ 5 c 0 0 0) := by
  refine ⟨fun plan hcheck => ?_, fun f plan hf hcheck => ?_, fun c a hcheck => ?_⟩
  · simp only [judgeStep, if_pos hvote, hcheck, if_true, beq_self_eq_true]
  · simp only [judgeStep, if_pos hvote, hcheck, if_neg hf, beq_false_of_ne hf]
  · simp only [judgeStep, if_pos hvote, hcheck]

/-- A master that runs again a step that it has ended opens a fresh vote. -/
def freshVote (w : Work) (d : StepDesc) (ix : Nat) : Work :=
  if ix = 0 ∧ w.upd.lastOutcome ≠ 0 ∧ w.upd.lastStep = d.step then
    w.setUpd (fun u => { u with decided := u.decided.filter (fun x => x != (d.voteGroup, d.step)) })
  else w

theorem freshVote_early (w : Work) (d : StepDesc) (ix : Nat) : (freshVote w d ix).upd.early = w.upd.early := by
  unfold freshVote
  split <;> rfl

/-- A step with a vote group whose members can be read. -/
theorem judgeStep_votes {h : Hub} {w : Work} {d : StepDesc} {bank ix master : Nat} (hvote : d.voteGroup ≠ noVote)
    (hgroup : voteGroupOf h w d = .ok (ix, master)) :
    (∀ f plan, preCheck h w d bank (ix == 0) = .ok (f, plan) → w.upd.early.find? (fun x => x.1 == d.step) = none →
      judgeStep h w d bank none =
        postFlag h
          (enterPhase h
            ((freshVote w d ix).setUpd (fun u =>
              { u with
                run := some ⟨d, bank, plan, f == 0, f, ix, master⟩, early := u.early.filter (fun x => x.1 != d.step) })) 2)
          ⟨d, bank, plan, f == 0, f, ix, master⟩ (f == 0)) ∧
    (∀ (c : Code) (a : Nat), preCheck h w d bank (ix == 0) = .error (c, a) →
      judgeStep h w d bank none =
        finishStep h
          (noteReadError h (postFlag h (freshVote w d ix) ⟨d, bank, [], false, 0, ix, master⟩ false) c (unitOf 0 0) a)
          ⟨d, bank, [], false, 0, ix, master⟩ 5 c 0 0 0) := by
  refine ⟨fun f plan hcheck hearly => ?_, fun c a hcheck => ?_⟩
  · have hkept : (freshVote w d ix).upd.early.find? (fun x => x.1 == d.step) = none := by rw [freshVote_early, hearly]
    unfold freshVote at hkept ⊢
    simp only [judgeStep, if_neg hvote, hgroup, hcheck, hkept]
  · simp only [judgeStep, if_neg hvote, hgroup, hcheck, freshVote]

theorem judgeStep_no_group {h : Hub} {w : Work} {d : StepDesc} {bank : Nat} {c : Code} {a : Nat}
    (hvote : d.voteGroup ≠ noVote) (hgroup : voteGroupOf h w d = .error (c, a)) :
    judgeStep h w d bank none =
      finishStep h (noteReadError h w c (unitOf 0 0) a) ⟨d, bank, [], false, 0, 0, 0⟩ 5 c 0 0 0 := by
  simp only [judgeStep, if_neg hvote, hgroup]

/-- Settles O26: the bits of the store decide what it is (`exec_go`, `exec_go_abort`), a GO that is not refused judges its
step (`startStep_judges`), and every end goes through `finishStep_upd`. -/
theorem stepsRunTheirPreCheckAndEnd : Obligations.StepsRunTheirPreCheckAndEnd := by
  refine ⟨fun s v hready hodd => ⟨fun hv hphase => ?_, fun hv hphase => ⟨_, exec_updAbort hready rfl, ?_⟩,
    fun hv hbad => ?_, fun hv hphase hcopier hbad hfail hdesc => ?_⟩, finishStep_upd⟩
  · rw [exec_go_abort hready hv, exec_go (v := 1) hready rfl, abortBit_idle hphase]
  · rw [exec_go_abort hready hv, goBit_refused (.inl (by omega))]
    rfl
  · rw [exec_go hready hv, goBit_refused hbad]
    rfl
  have hexec : exec (.go v) s = .next { s with work := startStep s.hub s.work none } := by
    rw [exec_go hready hv, hphase, goBit_accepted hcopier hbad hfail hdesc]
  refine ⟨fun c a hread => ?_, fun b d w1 hread hd hw1 => ⟨fun hrec => ?_, fun w2 bank halign hplace hstore hbank => ?_⟩⟩
  · simp only [hexec, startStep, hread]
  · subst hd hw1
    have hrec' : (stepDescOf b).recAddr % 128 ≠ 0 ∨ (!inLpddr s.hub (stepDescOf b).recAddr 128) = true := by
      simpa only [Bool.not_eq_true'] using hrec
    simp only [hexec, startStep, hread, if_pos hrec']
  · have hjudge := startStep_judges hread hd hw1 halign hplace hstore hbank
    refine ⟨fun hvote => ?_, fun hvote => ⟨fun c a hgroup => ?_, fun ix master w0 hgroup hw0 => ?_⟩⟩
    · obtain ⟨hclean, hdirty, herror⟩ := judgeStep_alone (h := s.hub) (w := w2) (bank := bank) hvote
      exact ⟨fun plan hcheck => by rw [hexec, hjudge, hclean plan hcheck],
        fun f plan hf hcheck => by rw [hexec, hjudge, hdirty f plan hf hcheck],
        fun c a hcheck => by rw [hexec, hjudge, herror c a hcheck]⟩
    · rw [hexec, hjudge, judgeStep_no_group hvote hgroup]
    · obtain rfl : w0 = freshVote w2 d ix := hw0
      obtain ⟨hpasses, hfails⟩ := judgeStep_votes (bank := bank) hvote hgroup
      exact ⟨fun f plan hcheck hearly => ⟨_, rfl, by rw [hexec, hjudge, hpasses f plan hcheck hearly]⟩,
        fun c a hcheck => ⟨_, rfl, by rw [hexec, hjudge, hfails c a hcheck]⟩⟩

/-! #### Votes -/

theorem abortBit_ends {h : Hub} {w : Work} {r : UpdRun} (hrun : w.upd.run = some r) (hphase : w.upd.phase = 2) :
    abortBit h w =
      finishStep h
        (if r.index = 0 then
          w.setUpd (fun u =>
            { u with
              decided := (r.desc.voteGroup, r.desc.step) :: u.decided
              boxes := u.boxes.filter (fun b => !(b.group == r.desc.voteGroup && b.step == r.desc.step)) })
         else w) r 6 0 0 0 0 := by
  simp only [abortBit, hrun, if_pos hphase]

theorem exec_cleanFlag {s : State} (group member : Nat) (step : Word) (clean : Bool) (hup : targetDown s.hub = false)
    (hpow : s.hub.ident.powered = true) :
    exec (.cleanFlag group member step clean) s =
      .next { s with work := takeFlag s.hub (traceVote s.hub s.work) group member step clean } := by
  simp only [exec, execCleanFlag, onWork, hup, hpow, Bool.not_true, Bool.or_self, Bool.false_eq_true, if_false]

theorem takeFlag_decided {h : Hub} {w : Work} {group : Nat} {step : Word} (member : Nat) (clean : Bool)
    (hdecided : w.upd.decided.contains (group, step) = true) : takeFlag h w group member step clean = w := if_pos hdecided

theorem takeFlag_open {h : Hub} {w : Work} {group : Nat} {step : Word} (member : Nat) (clean : Bool)
    (hopen : w.upd.decided.contains (group, step) = false) :
    takeFlag h w group member step clean =
      match openBox h w group step with
      | none => w
      | some (w1, b) =>
        if !clean then decideVote h w1 group step 3
        else
          let w2 := w1.setUpd (fun u =>
            { u with
              boxes := u.boxes.map (fun x =>
                if x.group == group && x.step == step then { x with flags := addOnce b.flags member } else x) })
          if b.members.length ≤ (addOnce b.flags member).length then decideVote h w2 group step 1 else w2 := by
  refine (if_neg (by rw [hopen]; exact Bool.false_ne_true)).trans ?_
  cases openBox h w group step <;> rfl

theorem exec_voteOutcome {s : State} {o : Nat} (step : Word) (ho : o = 1 ∨ o = 3 ∨ o = 4)
    (hpow : s.hub.ident.powered = true) (hup : targetDown s.hub = false) :
    exec (.voteOutcome step o) s = .next { s with work := takeOutcome s.hub (traceVote s.hub s.work) step o } := by
  have hgo : (o = 1 ∨ o = 3 ∨ o = 4) ∧ s.hub.ident.powered = true ∧ (!targetDown s.hub) = true :=
    ⟨ho, hpow, by rw [hup]; rfl⟩
  simp only [exec, execVoteOutcome, onWork, if_pos hgo]

theorem takeOutcome_waiting {h : Hub} {w : Work} {step : Word} {o : Nat} {r : UpdRun} (hrun : w.upd.run = some r)
    (hwait : w.upd.phase = 2 ∧ r.desc.step = step) : takeOutcome h w step o = applyOutcome h w r o := by
  simp only [takeOutcome, hrun, if_pos hwait]

/-- An outcome for a step that does not wait for it is disregarded where its step is over or under way, and kept else. -/
theorem takeOutcome_not_waiting {h : Hub} {w : Work} {step : Word} {o : Nat}
    (hnot : ∀ r : UpdRun, w.upd.run = some r → w.upd.phase ≠ 2 ∨ r.desc.step ≠ step) :
    (w.upd.lastStep = step → (w.upd.run.isSome = true ∨ w.upd.lastOutcome ≠ 0) → takeOutcome h w step o = w) ∧
      ((w.upd.lastStep ≠ step ∨ (w.upd.run = none ∧ w.upd.lastOutcome = 0)) →
        takeOutcome h w step o = w.setUpd (fun u => { u with early := (step, o) :: u.early })) := by
  cases hrun : w.upd.run with
  | none =>
    refine ⟨fun hlast hover => ?_, fun hfresh => ?_⟩
    · have hout : w.upd.lastOutcome ≠ 0 := hover.resolve_left (by simp)
      simp only [takeOutcome, hrun, if_pos (And.intro hout hlast)]
    · have hopen : ¬ (w.upd.lastOutcome ≠ 0 ∧ w.upd.lastStep = step) := fun ⟨hout, hlast⟩ =>
        hfresh.elim (fun hne => hne hlast) (fun ⟨_, hzero⟩ => hout hzero)
      simp only [takeOutcome, hrun, if_neg hopen]
  | some r =>
    have hwait : ¬ (w.upd.phase = 2 ∧ r.desc.step = step) := fun ⟨hphase, hstep⟩ =>
      (hnot r hrun).elim (fun hne => hne hphase) (fun hne => hne hstep)
    refine ⟨fun hlast _ => ?_, fun hfresh => ?_⟩
    · simp only [takeOutcome, hrun, if_neg hwait, if_pos hlast]
    · have hlast : w.upd.lastStep ≠ step := hfresh.resolve_right (by simp)
      simp only [takeOutcome, hrun, if_neg hwait, if_neg hlast]

theorem exec_updateUnitsDone {s : State} {r : UpdRun} (hrun : s.work.upd.run = some r) (hphase : s.work.upd.phase = 3)
    (hready : updReady s.hub = true) :
    exec .updateUnitsDone s = .next { s with work := wholeStep s.work unitsStep (unitsDone s.hub s.work r) } := by
  simp only [exec, execUpdateUnitsDone, onWork, hrun, if_pos (And.intro hphase hready)]

/-- Settles O27: abort, time-out, flags and outcomes, each on the state that its trace event leaves (`traceVote_upd`), and the
end of the units. -/
theorem votesDecideTheStep : Obligations.VotesDecideTheStep := by
  refine ⟨fun s hready hphase v hv => ?_, fun s r hrun hphase => ⟨fun v hready hv => ?_, fun hix hpow => ?_⟩,
    fun s group member step w hup hpow hw => ⟨fun hdecided clean => ?_, fun hopen => ⟨fun hnone clean => ?_,
      fun w1 b hbox => ⟨?_, fun w2 hw2 => ⟨fun hless => ?_, fun hall => ?_⟩⟩⟩⟩,
    fun s o step w ho hpow hup hw => ⟨fun r hrun hphase hstep => ⟨_, rfl, ?_⟩, fun hnot => ?_⟩,
    fun s r hrun hphase hready => ⟨fun hnone => ?_, fun c a hfault => ?_⟩⟩
  · rw [exec_updAbort hready hv, abortBit_idle hphase]
  · rw [exec_updAbort hready hv, abortBit_ends hrun hphase]
  · have hgo : s.work.upd.phase = 2 ∧ r.index = 0 ∧ s.hub.ident.powered = true := ⟨hphase, hix, hpow⟩
    simp only [exec, execVoteTimeout, onWork, hrun, if_pos hgo]
  · subst hw
    rw [exec_cleanFlag _ _ _ _ hup hpow, takeFlag_decided _ _ (by rw [traceVote_upd]; exact hdecided)]
  · subst hw
    rw [exec_cleanFlag _ _ _ _ hup hpow, takeFlag_open _ _ (by rw [traceVote_upd]; exact hopen), hnone]
  · subst hw
    rw [exec_cleanFlag _ _ _ _ hup hpow, takeFlag_open _ _ (by rw [traceVote_upd]; exact hopen), hbox]
    rfl
  · subst hw hw2
    rw [exec_cleanFlag _ _ _ _ hup hpow, takeFlag_open _ _ (by rw [traceVote_upd]; exact hopen), hbox]
    dsimp only
    rw [if_neg (by decide), if_neg (by omega)]
  · subst hw hw2
    rw [exec_cleanFlag _ _ _ _ hup hpow, takeFlag_open _ _ (by rw [traceVote_upd]; exact hopen), hbox]
    dsimp only
    rw [if_neg (by decide), if_pos hall]
  · have hrun' : (traceVote s.hub s.work).upd.run = some r := by rw [traceVote_upd]; exact hrun
    have hwait : (traceVote s.hub s.work).upd.phase = 2 ∧ r.desc.step = step := by
      rw [traceVote_upd]
      exact ⟨hphase, hstep⟩
    subst hw
    rw [exec_voteOutcome _ ho hpow hup, takeOutcome_waiting hrun' hwait, ← hstep]
    rfl
  · subst hw
    have hupd := traceVote_upd s.hub s.work
    obtain ⟨hover, hkept⟩ := takeOutcome_not_waiting (h := s.hub) (w := traceVote s.hub s.work) (o := o)
      (by rw [hupd]; exact hnot)
    rw [hupd] at hover hkept
    exact ⟨fun hlast hdone => by rw [exec_voteOutcome _ ho hpow hup, hover hlast hdone],
      fun hfresh => by rw [exec_voteOutcome _ ho hpow hup, hkept hfresh]⟩
  · simp only [exec_updateUnitsDone hrun hphase hready, unitsDone, hnone]
  · simp only [exec_updateUnitsDone hrun hphase hready, unitsDone, hfault]

end Sys2Proof.Machine

/-! ### Requests of the caches reach their home (11 R335 to R338) -/

namespace Sys2Proof.Machine

/-! #### READ_SHARED -/

theorem exec_readShared {s : State} {agent addr a : Nat} (hagent : agent < 80) (hwork : homesWork s.hub = true)
    (hplace : placeOf s.hub addr = .lpddr a) :
    exec (.readShared agent addr) s = .next { s with work := readSharedNow s.hub s.work agent a } := by
  simp only [exec, execReadShared, onWork, hwork, hagent, decide_true, Bool.and_self, if_true, hplace]

/-- A request of an agent that holds the line, or has a message of its own on the way, asks for nothing new. -/
theorem readSharedNow_known {h : Hub} {w : Work} {agent a : Nat}
    (hknown : (stateOf w.coh agent (lineOf a)).isSome = true ∨ ownWriteBack w.coh agent (lineOf a) = true ∨
      hasTxn w.coh agent (lineOf a) = true) : readSharedNow h w agent a = w := by
  refine if_neg ?_
  rcases hknown with hst | hwb | htxn
  · rw [← Option.not_isSome, hst]
    exact Bool.false_ne_true
  · rw [hwb, Bool.not_true, Bool.and_false, Bool.false_and]
    exact Bool.false_ne_true
  · rw [htxn, Bool.not_true, Bool.and_false]
    exact Bool.false_ne_true

theorem readSharedNow_new {h : Hub} {w : Work} {agent a : Nat} (hst : stateOf w.coh agent (lineOf a) = none)
    (hwb : ownWriteBack w.coh agent (lineOf a) = false) (htxn : hasTxn w.coh agent (lineOf a) = false) :
    readSharedNow h w agent a =
      if homeUp h (lineOf a) then acceptTxn w .readShared agent a (.store []) else coreFault h w agent a := by
  simp only [readSharedNow, hst, hwb, htxn, Option.isNone_none, Bool.not_false, Bool.and_self, if_true]

/-! #### Stores, AMO, LR and SC: where the operation lies -/

section Ownership

variable {h : Hub} {w : Work} {kind : TxnKind} {agent addr a : Nat} {op : LineOp} {cmd : Nat → LineOp → Instr}
  (hagent : agent < 80) (hwork : homesWork h = true) (hplace : placeOf h addr = .lpddr a)

include hagent hwork hplace

theorem ownershipAt_outside (hlen : 0 < opLength op) (hin : inLpddr h a (opLength op) = false) :
    ownershipAt h w kind agent addr op cmd = grantLine w none 0x0401 := by
  simp only [ownershipAt, hwork, hagent, decide_true, Bool.not_true, Bool.or_self, Bool.false_eq_true, if_false, hplace,
    if_neg (Nat.ne_of_gt hlen), hin, Bool.not_false, if_true]

theorem ownershipAt_illegal (hlen : 0 < opLength op) (hin : inLpddr h a (opLength op) = true)
    (hbad : opLegal agent op = false ∨ (agent < 8 ∧ 128 < a % 128 + opLength op)) :
    ownershipAt h w kind agent addr op cmd = grantLine w none 0x0408 := by
  cases hlegal : opLegal agent op with
  | false =>
    simp only [ownershipAt, hwork, hagent, decide_true, Bool.not_true, Bool.or_self, Bool.false_eq_true, if_false, hplace,
      if_neg (Nat.ne_of_gt hlen), hin, hlegal, Bool.not_false, if_true]
  | true =>
    obtain ⟨hcore, hcross⟩ := hbad.resolve_left (by simp [hlegal])
    simp only [ownershipAt, hwork, hagent, decide_true, Bool.not_true, Bool.or_self, Bool.false_eq_true, if_false, hplace,
      if_neg (Nat.ne_of_gt hlen), hin, hlegal, if_neg (Nat.not_le.mpr hcross), if_pos hcore]

/-- An engine's store across a line's end is split. -/
theorem ownershipAt_split {bs : List Byte} (hop : op = .store bs) (hin : inLpddr h a bs.length = true) (hengine : 8 ≤ agent)
    (hcross : 128 < a % 128 + bs.length) :
    ownershipAt h w kind agent addr op cmd =
      (lineParts a bs).foldl (fun w x => ownershipNow h w kind agent x.1 (.store x.2) (cmd x.1 (.store x.2))) w := by
  have hlen : ¬ bs.length = 0 := by omega
  subst hop
  simp only [ownershipAt, hwork, hagent, decide_true, Bool.not_true, Bool.or_self, Bool.false_eq_true, if_false, hplace,
    opLength, opLegal, hlen, hin, if_neg (Nat.not_le.mpr hcross), if_neg (Nat.not_lt.mpr hengine)]

theorem ownershipAt_line (hlen : 0 < opLength op) (hin : inLpddr h a (opLength op) = true)
    (hlegal : opLegal agent op = true) (hline : a % 128 + opLength op ≤ 128) :
    ownershipAt h w kind agent addr op cmd = ownershipNow h w kind agent a op (cmd a op) := by
  simp only [ownershipAt, hwork, hagent, decide_true, Bool.not_true, Bool.or_self, Bool.false_eq_true, if_false, hplace,
    if_neg (Nat.ne_of_gt hlen), hin, hlegal, if_pos hline]

end Ownership

/-! #### Stores, AMO, LR and SC: what the line's state makes of the operation -/

section OwnershipNow

variable {h : Hub} {w : Work} {kind : TxnKind} {agent a : Nat} {op : LineOp} {i : Instr}

theorem ownershipNow_known
    (hknown : ownWriteBack w.coh agent (lineOf a) = true ∨ hasTxn w.coh agent (lineOf a) = true ∨
      holdsRequest w agent (lineOf a) = true) : ownershipNow h w kind agent a op i = w := by
  refine if_neg ?_
  rcases hknown with hwb | htxn | hheld
  · rw [hwb, Bool.not_true, Bool.false_and, Bool.false_and]
    exact Bool.false_ne_true
  · rw [htxn, Bool.not_true, Bool.and_false, Bool.false_and]
    exact Bool.false_ne_true
  · rw [hheld, Bool.not_true, Bool.and_false]
    exact Bool.false_ne_true

variable (hwb : ownWriteBack w.coh agent (lineOf a) = false) (htxn : hasTxn w.coh agent (lineOf a) = false)
  (hheld : holdsRequest w agent (lineOf a) = false)

include hwb htxn hheld

theorem ownershipNow_held (hup : homeUp h (lineOf a) = true) (hmust : mustHold h w (lineOf a) = true) :
    ownershipNow h w kind agent a op i = holdReq w (lineOf a) (.command i) := by
  simp only [ownershipNow, hwb, htxn, hheld, Bool.not_false, Bool.and_self, hup, hmust, if_true]

theorem ownershipNow_hit (hfree : homeUp h (lineOf a) = false ∨ mustHold h w (lineOf a) = false)
    (hst : stateOf w.coh agent (lineOf a) = some .m ∨ stateOf w.coh agent (lineOf a) = some .e) :
    ownershipNow h w kind agent a op i = storeHit h w agent a op := by
  cases hup : homeUp h (lineOf a) with
  | false =>
    rcases hst with hst | hst <;>
      simp only [ownershipNow, hwb, htxn, hheld, Bool.not_false, Bool.and_self, hup, hst, Bool.false_eq_true, if_false,
        if_true]
  | true =>
    have hmust : mustHold h w (lineOf a) = false := hfree.resolve_left (by simp [hup])
    rcases hst with hst | hst <;>
      simp only [ownershipNow, hwb, htxn, hheld, Bool.not_false, Bool.and_self, hup, hmust, hst, askOwnership,
        Bool.false_eq_true, if_false, if_true]

theorem ownershipNow_asks (hup : homeUp h (lineOf a) = true) (hmust : mustHold h w (lineOf a) = false)
    (hst : stateOf w.coh agent (lineOf a) = none ∨ stateOf w.coh agent (lineOf a) = some .s ∨
      stateOf w.coh agent (lineOf a) = some .o) :
    ownershipNow h w kind agent a op i = acceptTxn w kind agent a op := by
  rcases hst with hst | hst | hst <;>
    simp only [ownershipNow, hwb, htxn, hheld, Bool.not_false, Bool.and_self, hup, hmust, hst, askOwnership,
      Bool.false_eq_true, if_false, if_true]

theorem ownershipNow_faults (hup : homeUp h (lineOf a) = false)
    (hst : stateOf w.coh agent (lineOf a) = none ∨ stateOf w.coh agent (lineOf a) = some .s ∨
      stateOf w.coh agent (lineOf a) = some .o) :
    ownershipNow h w kind agent a op i = coreFault h w agent a := by
  rcases hst with hst | hst | hst <;>
    simp only [ownershipNow, hwb, htxn, hheld, Bool.not_false, Bool.and_self, hup, hst, Bool.false_eq_true, if_false,
      if_true]

end OwnershipNow

/-- A store that closes no use, to a line that its cache holds, makes the line M. -/
theorem stateOf_storeHit {h : Hub} {w : Work} {agent a : Nat} {bs : List Byte} (hbs : bs ≠ [])
    (hclose : closeTarget h w a bs = none) (hheld : (stateOf w.coh agent (lineOf a)).isSome = true) :
    stateOf (storeHit h w agent a (.store bs)).coh agent (lineOf a) = some .m := by
  have hne : bs.isEmpty = false := by simpa using hbs
  rw [stateOf, Option.isSome_map, Option.isSome_iff_exists] at hheld
  obtain ⟨l, hl⟩ := hheld
  have hkey : ∀ x : CacheLine,
      ((if x.agent == agent && x.line == lineOf a then hitLine x a bs false else x).agent == agent &&
        (if x.agent == agent && x.line == lineOf a then hitLine x a bs false else x).line == lineOf a) =
        (x.agent == agent && x.line == lineOf a) := fun x => by split <;> rfl
  have hl' : (l.agent == agent && l.line == lineOf a) = true :=
    List.find?_some (p := fun l : CacheLine => l.agent == agent && l.line == lineOf a) hl
  simp only [storeHit, hl, lineOpEffect, hne, Bool.false_eq_true, if_false, hclose, keptBytes, closeAfter, replyOf, stateOf,
    List.find?_map, Function.comp_def, hkey, Option.map_some, hl', if_true]
  simp only [hitLine, hne, Bool.false_eq_true, if_false]

/-! #### Trackers -/

theorem takeTracker_spec (hm : Home) (key other : Nat) (t : Txn) :
    (hm.txns.length < 512 → hm.reserved = none → (takeTracker hm key t).txns = hm.txns ++ [t]) ∧
    (512 ≤ hm.txns.length → (takeTracker hm key t).txns = hm.txns) ∧
    (512 ≤ hm.txns.length → hm.reserved = none → (takeTracker hm key t).reserved = some key) ∧
    (hm.txns.length = 511 → hm.reserved = some other → other ≠ key → (takeTracker hm key t).txns = hm.txns) ∧
    (hm.txns.length = 511 → hm.reserved = some key →
      (takeTracker hm key t).txns = hm.txns ++ [t] ∧ (takeTracker hm key t).reserved = none) ∧
    (hm.txns.length ≤ 512 → (takeTracker hm key t).txns.length ≤ 512) := by
  have hfull : 512 ≤ hm.txns.length → trackerFree hm key = false := fun hlen => by
    rw [trackerFree, decide_eq_false]
    simp only [homeTrackers]
    omega
  have hnote : ∀ hm' : Home, noteReserved hm key = hm' → hm'.txns = hm.txns := fun hm' hn => by
    rw [← hn, noteReserved]
    split <;> rfl
  refine ⟨fun hlen hres => ?_, fun hlen => ?_, fun hlen hres => ?_, fun hlen hres hne => ?_, fun hlen hres => ?_,
    fun hlen => ?_⟩
  · have hfree : trackerFree hm key = true := by
      rw [trackerFree, hres, decide_eq_true_eq]
      exact Nat.sub_pos_of_lt hlen
    rw [takeTracker, if_pos hfree]
  · rw [takeTracker, hfull hlen, if_neg Bool.false_ne_true, hnote _ rfl]
  · rw [takeTracker, hfull hlen, if_neg Bool.false_ne_true, noteReserved, hfull hlen, if_neg Bool.false_ne_true, hres]
    rfl
  · have hkept : trackerFree hm key = false := by
      rw [trackerFree, hres, hlen]
      simp [hne, homeTrackers]
    rw [takeTracker, hkept, if_neg Bool.false_ne_true, hnote _ rfl]
  · have hfree : trackerFree hm key = true := by
      rw [trackerFree, hres, hlen]
      simp [homeTrackers]
    rw [takeTracker, if_pos hfree, noteReserved, if_pos hfree, if_pos hres]
    exact ⟨rfl, rfl⟩
  · by_cases hlen' : hm.txns.length < 512
    · rw [takeTracker]
      split
      · simp only [List.length_append, List.length_singleton]
        omega
      · rw [hnote _ rfl]
        exact hlen
    · rw [takeTracker, hfull (by omega), if_neg Bool.false_ne_true, hnote _ rfl]
      exact hlen

/-- Settles O28: the place of an operation decides whether it reaches its line (`ownershipAt_line`), and the state of the line
what it asks for there (`ownershipNow_held`, `ownershipNow_hit`, `ownershipNow_asks`, `ownershipNow_faults`). -/
theorem requestsReachTheHome : Obligations.RequestsReachTheHome := by
  have hru : ∀ (s : State) (agent addr : Nat) (op : LineOp), exec (.readUnique agent addr op) s =
      .next { s with
        work := ownershipAt s.hub s.work .readUnique agent addr op (fun a o => .readUnique agent a o) } :=
    fun _ _ _ _ => rfl
  have hup : ∀ (s : State) (agent addr : Nat) (op : LineOp), exec (.upgrade agent addr op) s =
      .next { s with work := ownershipAt s.hub s.work .upgrade agent addr op (fun a o => .upgrade agent a o) } :=
    fun _ _ _ _ => rfl
  refine ⟨fun s agent addr hagent hwork hplace => ?_, fun s agent addr a hagent hwork hplace => ⟨fun hknown => ?_,
    fun hst hwb htxn => ⟨fun hhome => ?_, fun hhome => ?_⟩, fun op hlen => ⟨fun hin => ?_, fun hin => ⟨fun hbad => ?_,
      fun bs hop hengine hcross => ?_, fun hlegal hline => ⟨fun hknown => ?_, fun hwb htxn hheld => ⟨?_, ?_, ?_, ?_⟩⟩⟩⟩,
    fun bs hbs hclose hst => ?_⟩, takeTracker_spec⟩
  · simp only [exec, execReadShared, onWork, hwork, hagent, decide_true, Bool.and_self, if_true, hplace]
  · rw [exec_readShared hagent hwork hplace, readSharedNow_known hknown]
  · rw [exec_readShared hagent hwork hplace, readSharedNow_new hst hwb htxn, if_pos hhome]
    rfl
  · rw [exec_readShared hagent hwork hplace, readSharedNow_new hst hwb htxn, hhome, if_neg Bool.false_ne_true]
  · rw [hru, hup, ownershipAt_outside hagent hwork hplace hlen hin, ownershipAt_outside hagent hwork hplace hlen hin]
    exact ⟨rfl, rfl⟩
  · rw [hru, hup, ownershipAt_illegal hagent hwork hplace hlen hin hbad,
      ownershipAt_illegal hagent hwork hplace hlen hin hbad]
    exact ⟨rfl, rfl⟩
  · have hin' : inLpddr s.hub a bs.length = true := by
      rw [hop] at hin
      exact hin
    rw [hru, hup, ownershipAt_split hagent hwork hplace hop hin' hengine hcross,
      ownershipAt_split hagent hwork hplace hop hin' hengine hcross]
    exact ⟨rfl, rfl⟩
  · rw [hru, hup, ownershipAt_line hagent hwork hplace hlen hin hlegal hline,
      ownershipAt_line hagent hwork hplace hlen hin hlegal hline, ownershipNow_known hknown, ownershipNow_known hknown]
    exact ⟨rfl, rfl⟩
  · intro hhome hmust
    rw [hru, hup, ownershipAt_line hagent hwork hplace hlen hin hlegal hline,
      ownershipAt_line hagent hwork hplace hlen hin hlegal hline, ownershipNow_held hwb htxn hheld hhome hmust,
      ownershipNow_held hwb htxn hheld hhome hmust]
    exact ⟨rfl, rfl⟩
  · intro hfree hst
    rw [hru, hup, ownershipAt_line hagent hwork hplace hlen hin hlegal hline,
      ownershipAt_line hagent hwork hplace hlen hin hlegal hline, ownershipNow_hit hwb htxn hheld hfree hst,
      ownershipNow_hit hwb htxn hheld hfree hst]
    exact ⟨rfl, rfl⟩
  · intro hhome hmust hst
    rw [hru, hup, ownershipAt_line hagent hwork hplace hlen hin hlegal hline,
      ownershipAt_line hagent hwork hplace hlen hin hlegal hline, ownershipNow_asks hwb htxn hheld hhome hmust hst,
      ownershipNow_asks hwb htxn hheld hhome hmust hst]
    exact ⟨rfl, rfl⟩
  · intro hhome hst
    rw [hru, hup, ownershipAt_line hagent hwork hplace hlen hin hlegal hline,
      ownershipAt_line hagent hwork hplace hlen hin hlegal hline, ownershipNow_faults hwb htxn hheld hhome hst,
      ownershipNow_faults hwb htxn hheld hhome hst]
    exact ⟨rfl, rfl⟩
  · refine stateOf_storeHit hbs hclose ?_
    rcases hst with hst | hst <;> rw [hst] <;> rfl

end Sys2Proof.Machine

/-! ### Snoops and the end of a lap (11 R338 to R347) -/

namespace Sys2Proof.Machine

/-! #### What a snoop leaves -/

@[simp] theorem quarantineLine_crossedTags (w : Work) (ln : Nat) :
    (quarantineLine w ln).coh.crossedTags = w.coh.crossedTags := rfl

@[simp] theorem badToHome_crossedTags (w : Work) (ln : Nat) (d : List Byte) :
    (badToHome w ln d).coh.crossedTags = w.coh.crossedTags := rfl

@[simp] theorem Work.setTxn_crossedTags (w : Work) (t : Txn) (f : Txn → Txn) :
    (w.setTxn t f).coh.crossedTags = w.coh.crossedTags := rfl

/-- A victim buffer that answers a snoop has its tag recorded at the home (R341). -/
theorem snoopVictim_crossedTags (w : Work) (t : Txn) (v : Victim) :
    (snoopVictim w t v).coh.crossedTags = w.coh.crossedTags ++ [v.tag] := by
  unfold snoopVictim
  split
  · rfl
  · split <;> rfl

theorem exec_snoop {s : State} {agent a : Nat} {t : Txn} (htxn : activeTxn s.work.coh (lineOf a) = some t)
    (hother : t.agent ≠ agent) (hopen : t.answered.contains agent = false) :
    exec (.snoop agent a) s =
      .next { s with
        work :=
          match s.work.coh.lines.find? (fun l => l.agent == agent && l.line == lineOf a) with
          | some l => snoopLine s.hub (s.work.setTxn t (fun x => { x with answered := x.answered ++ [agent] })) t l
          | none =>
            match s.work.coh.victims.find? (fun v => v.agent == agent && v.line == lineOf a && !v.crossed && !v.done) with
            | some v => snoopVictim (s.work.setTxn t (fun x => { x with answered := x.answered ++ [agent] })) t v
            | none => s.work.setTxn t (fun x => { x with answered := x.answered ++ [agent] }) } := by
  have hask : ¬ (t.agent = agent ∨ t.answered.contains agent = true) := by
    rw [hopen]
    simpa using hother
  simp only [exec, execSnoop, onWork, answerSnoop, htxn, if_neg hask] <;> rfl

/-- A copy that is good, or clean, answers for itself (R338, R342, R347). -/
theorem snoopLine_answers {h : Hub} {w : Work} {t : Txn} {l : CacheLine} (hgood : dirty l = false ∨ l.bad = false) :
    ∃ w1 : Work,
      (t.kind = .readShared →
        w1 = { w with
          mem := if h.ident.cfg.coherenceMode = true ∧ l.st = .m then memWrite w.mem (t.line * 128) l.data else w.mem
          coh := setLine w.coh l.agent t.line (sharedState h.ident.cfg.coherenceMode l.st) }) ∧
      (t.kind ≠ .readShared → w1 = { w with coh := dropLine w.coh l.agent t.line }) ∧
      snoopLine h w t l = if l.st = .s then w1 else w1.setTxn t (fun x => { x with supplied := some l.data }) := by
  have hgood' : (dirty l && l.bad) = false := by rcases hgood with hd | hb <;> simp [*]
  by_cases hkind : t.kind = .readShared
  · refine ⟨_, fun _ => rfl, fun hne => absurd hkind hne, ?_⟩
    simp only [snoopLine, hgood', hkind, Bool.false_eq_true, if_false, Bool.and_eq_true, beq_iff_eq, supplyLine]
  · refine ⟨_, fun heq => absurd heq hkind, fun _ => rfl, ?_⟩
    simp only [snoopLine, hgood', Bool.false_eq_true, if_false, beq_iff_eq, supplyLine]

/-! #### What a grant leaves with the requester -/

@[simp] theorem closeAfter_none (h : Hub) (w : Work) : closeAfter h w none = w := rfl

theorem replyOf_grant (w : Work) (d : Option (List Byte)) :
    (replyOf w d).replies.grant = w.replies.grant ∧ (replyOf w d).replies.grantCode = w.replies.grantCode := by
  cases d <;> exact ⟨rfl, rfl⟩

theorem installOwned_grant {h : Hub} {w : Work} {t : Txn}
    (hclose : closeTarget h w t.addr (lineOpEffect (lineData w t.line) false t.addr t.op).1 = none) :
    (installOwned h w t).replies.grantCode = 0 ∧ (installOwned h w t).replies.grant = some (t.agent, t.line, .m) := by
  simp only [installOwned, hclose, ite_self, closeAfter_none]
  exact ⟨(replyOf_grant _ _).2, (replyOf_grant _ _).1⟩

theorem dataToHome_lines (w : Work) (ln : Nat) (d : List Byte) (bad : Bool) :
    (dataToHome w ln d bad).coh.lines = w.coh.lines := by
  unfold dataToHome
  split <;> rfl

theorem dirNote_ring {h : Hub} (hmode : h.ident.cfg.coherenceMode = false) (w : Work) (ln : Nat) : dirNote h w ln = w := by
  rw [dirNote, hmode, if_neg Bool.false_ne_true]

/-- A line that makes room leaves the copies of other lines. -/
theorem holders_evictLine {h : Hub} {w : Work} {l : CacheLine} {ln : Nat} (hmode : h.ident.cfg.coherenceMode = false)
    (hl : l.line ≠ ln) : holders (evictLine h w l).coh ln = holders w.coh ln := by
  have hlines : (if dirty l then dataToHome w l.line l.data l.bad else w).coh.lines = w.coh.lines := by
    split
    · exact dataToHome_lines _ _ _ _
    · rfl
  simp only [evictLine, dirNote_ring hmode, holders, hlines, List.filter_filter]
  refine List.filter_congr fun x _ => ?_
  by_cases hx : x.line = ln
  · simp [hx, Ne.symm hl]
  · simp [hx]

theorem holders_makeRoom {h : Hub} (hmode : h.ident.cfg.coherenceMode = false) (w : Work) (agent ln : Nat) :
    holders (makeRoom h w agent ln).coh ln = holders w.coh ln := by
  unfold makeRoom
  dsimp only
  split
  · rfl
  · split
    next l hlast =>
      have hmem := List.mem_of_getLast? hlast
      simp only [List.mem_filter, Bool.and_eq_true, bne_iff_ne] at hmem
      obtain ⟨_, ⟨_, hl⟩, _⟩ := hmem
      exact holders_evictLine hmode hl
    · rfl

/-- In ring mode the requester of READ_SHARED installs the line in E where no other cache holds it and its piece is not
protected, and else in S (R327, R338). -/
theorem stateOf_shareLine {h : Hub} {w : Work} {agent ln : Nat} (hmode : h.ident.cfg.coherenceMode = false)
    (hnew : (holders w.coh ln).any (fun l => l.agent == agent) = false) :
    stateOf (shareLine h w agent ln).coh agent ln =
      some (if holders w.coh ln = [] ∧ isProtected w ln = false then .e else .s) := by
  have hcop : (makeRoom h w agent ln).copier = w.copier := (memStep_makeRoom h w agent ln).copier
  simp only [shareLine, hnew, Bool.false_eq_true, if_false, dirNote_ring hmode, stateOf, List.find?_cons, beq_self_eq_true,
    Bool.and_self, Option.map_some, holders_makeRoom hmode, hcop, isProtected, Bool.and_eq_true, List.isEmpty_iff,
    Bool.not_eq_true']
  congr

theorem installShared_grant {h : Hub} {w : Work} {t : Txn} (hmode : h.ident.cfg.coherenceMode = false)
    (hnew : (holders w.coh t.line).any (fun l => l.agent == t.agent) = false) :
    (installShared h w t).replies.grantCode = 0 ∧
      (installShared h w t).replies.grant =
        some (t.agent, t.line, if holders w.coh t.line = [] ∧ isProtected w t.line = false then .e else .s) := by
  simp only [installShared, grantLine, stateOf_shareLine hmode hnew, Option.map_some, and_self]

/-- Settles O29: a snoop answers by what its agent holds of the line (`exec_snoop`, `snoopLine_answers`), and the end of a lap
is the grant or its fault (`installOwned_grant`, `installShared_grant`). -/
theorem snoopLapsGrantTheLine : Obligations.SnoopLapsGrantTheLine := by
  refine ⟨fun s agent a t w htxn hother hopen hw => ⟨fun l hl => ⟨fun hdirty hbad => ?_, fun hgood => ?_⟩,
    fun hnone => ⟨fun hnov => ?_, fun v hv => ⟨?_, ?_⟩⟩⟩, fun s a r t w htxn hdone hup hw => ⟨fun hnone => ?_,
      fun c hfault => ?_, fun hkind hclose => ?_, fun hkind hmode hnew => ?_⟩⟩
  · have hagent : l.agent = agent := by
      have hp := List.find?_some (p := fun x : CacheLine => x.agent == agent && x.line == lineOf a) hl
      simp only [Bool.and_eq_true, beq_iff_eq] at hp
      exact hp.1
    rw [exec_snoop htxn hother hopen, hl, ← hw]
    simp only [snoopLine, hdirty, hbad, Bool.and_self, if_true, badSnoop, hagent]
  · have hagent : l.agent = agent := by
      have hp := List.find?_some (p := fun x : CacheLine => x.agent == agent && x.line == lineOf a) hl
      simp only [Bool.and_eq_true, beq_iff_eq] at hp
      exact hp.1
    obtain ⟨w1, hshared, hdropped, hend⟩ := snoopLine_answers (h := s.hub) (w := w) (t := t) hgood
    rw [hagent] at hshared hdropped
    refine ⟨w1, fun hkind => ?_, hdropped, ?_⟩
    · rw [hshared hkind]
      cases l.st <;> rfl
    · rw [exec_snoop htxn hother hopen, hl, ← hw]
      exact congrArg (fun w => Host.Outcome.next { s with work := w }) hend
  · rw [exec_snoop htxn hother hopen, hnone, hnov, ← hw]
  · rw [exec_snoop htxn hother hopen, hnone, hv, ← hw]
  · rw [snoopVictim_crossedTags, hw]
    rfl
  · have hgo : (!homeUp s.hub (lineOf a) || !lapDone s.work.coh t) = false := by rw [hup, hdone]; rfl
    subst hw
    simp only [exec, execSnoopLapComplete, onWork, htxn, hgo, Bool.false_eq_true, if_false, hnone]
  · have hgo : (!homeUp s.hub (lineOf a) || !lapDone s.work.coh t) = false := by rw [hup, hdone]; rfl
    subst hw
    simp only [exec, execSnoopLapComplete, onWork, htxn, hgo, Bool.false_eq_true, if_false, hfault]
  · have hinstall : installLine s.hub w t = installOwned s.hub w t := by
      unfold installLine
      split
      next h => exact absurd h hkind
      · rfl
    rw [hinstall]
    exact installOwned_grant hclose
  · have hinstall : installLine s.hub w t = installShared s.hub w t := by rw [installLine, hkind]
    rw [hinstall]
    exact installShared_grant hmode hnew

end Sys2Proof.Machine

/-! ### Uncached accesses act at the home (11 R317 to R344) -/

namespace Sys2Proof.Machine

/-! #### Counting retries leaves what is read -/

theorem countRetries_keeps (w : Work) (fromMemory : Bool) (r : Nat) :
    (countRetries w fromMemory r).mem = w.mem ∧ (countRetries w fromMemory r).tables = w.tables ∧
      (countRetries w fromMemory r).engines = w.engines ∧
      (countRetries w fromMemory r).coh.lines = w.coh.lines ∧
      (countRetries w fromMemory r).coh.victims = w.coh.victims ∧
      (countRetries w fromMemory r).coh.homes = w.coh.homes := by
  unfold countRetries
  split <;> exact ⟨rfl, rfl, rfl, rfl, rfl, rfl⟩

theorem physByte_countRetries (h : Hub) (w : Work) (fromMemory : Bool) (r a : Nat) :
    physByte h (countRetries w fromMemory r) a = physByte h w a := by
  unfold countRetries
  split <;> rfl

theorem physRead_countRetries (h : Hub) (w : Work) (fromMemory : Bool) (r a n : Nat) :
    physRead h (countRetries w fromMemory r) a n = physRead h w a n := by
  simp only [physRead, physByte_countRetries]

/-- A read of lines that are free answers the coherent bytes, or a read error after two retries, and counts its retries
(R330, R338). -/
theorem readOnceNow_spec {h : Hub} {w : Work} {a n r : Nat} {bs : List Byte} (hread : physRead h w a n = .ok bs) :
    (if (linesOf a n).any (fun ln => (dirtyCopy w.coh ln).isNone) = true ∧ 2 < r then
        (readOnceNow h w a n r).replies.coreStatus = 0x0403
      else (readOnceNow h w a n r).replies.coreStatus = 0 ∧ (readOnceNow h w a n r).replies.coreData = maskClose h w a bs) ∧
    (readOnceNow h w a n r).mem = w.mem ∧ (readOnceNow h w a n r).coh.lines = w.coh.lines ∧
    (readOnceNow h w a n r).coh.victims = w.coh.victims ∧ (readOnceNow h w a n r).coh.homes = w.coh.homes ∧
    (readOnceNow h w a n r).engines = w.engines := by
  obtain ⟨hmem, _, heng, hlines, hvict, hhomes⟩ :=
    countRetries_keeps w ((linesOf a n).any (fun ln => (dirtyCopy w.coh ln).isNone)) r
  by_cases hbad : (linesOf a n).any (fun ln => (dirtyCopy w.coh ln).isNone) = true ∧ 2 < r
  · have hbad' : ((linesOf a n).any (fun ln => (dirtyCopy w.coh ln).isNone) && decide (2 < r)) = true := by
      rw [Bool.and_eq_true, decide_eq_true_eq]
      exact hbad
    rw [if_pos hbad]
    simp only [readOnceNow, physRead_countRetries, hread, hbad', if_true]
    exact ⟨rfl, hmem, hlines, hvict, hhomes, heng⟩
  · have hgood : ((linesOf a n).any (fun ln => (dirtyCopy w.coh ln).isNone) && decide (2 < r)) = false := by
      rw [← Bool.not_eq_true, Bool.and_eq_true, decide_eq_true_eq]
      exact hbad
    rw [if_neg hbad]
    simp only [readOnceNow, physRead_countRetries, hread, hgood, Bool.false_eq_true, if_false]
    exact ⟨⟨rfl, rfl⟩, hmem, hlines, hvict, hhomes, heng⟩

/-! #### Spans -/

/-- A span within one line is one part. -/
theorem lineParts_of_line {a : Nat} {bs : List Byte} (hbs : bs ≠ []) (hline : a % 128 + bs.length ≤ 128) :
    lineParts a bs = [(a, bs)] := by
  obtain ⟨b, rest, rfl⟩ := List.exists_cons_of_ne_nil hbs
  have htake : (b :: rest).take (128 - a % 128) = b :: rest := List.take_of_length_le (by omega)
  have hdrop : (b :: rest).drop (128 - a % 128) = [] := List.drop_of_length_le (by omega)
  simp only [lineParts, linePartsFuel, htake, hdrop, List.length_cons]

/-- The first line of a span that is free is free. -/
theorem free_of_spanFree {h : Hub} {w : Work} {a n : Nat} {writes : Bool} (hn : 0 < n)
    (hfree : spanFree h w a n writes = true) :
    homeUp h (lineOf a) = true ∧ lineBusy w.coh (lineOf a) = false ∧ (writes && mustHold h w (lineOf a)) = false := by
  have hmem : lineOf a ∈ linesOf a n := by
    rw [linesOf, if_neg (Nat.ne_of_gt hn)]
    exact List.mem_map.mpr ⟨0, List.mem_range.mpr (Nat.succ_pos _), rfl⟩
  have hline := List.all_eq_true.mp hfree _ hmem
  simp only [Bool.and_eq_true, Bool.not_eq_true'] at hline
  obtain ⟨⟨⟨hup, hbusy⟩, _⟩, hheld⟩ := hline
  exact ⟨hup, hbusy, hheld⟩

theorem inWord_eq {k a n : Nat} (hn : 0 < n) : inWord k a n = decide (a % k + n ≤ k) := by
  rw [inWord, decide_eq_true hn, Bool.true_and]

theorem atomicOk_iff {a aop width : Nat} :
    atomicOk a aop width = true ↔ aop ≤ 9 ∧ (width = 4 ∨ width = 8) ∧ a % width = 0 := by
  simp only [atomicOk, Bool.and_eq_true, Bool.or_eq_true, decide_eq_true_eq, beq_iff_eq, and_assoc]

theorem atomicOk_zero {a aop width : Nat} (hok : atomicOk a aop width = true) : atomicOk 0 aop width = true := by
  obtain ⟨hop, hwidth, _⟩ := atomicOk_iff.mp hok
  exact atomicOk_iff.mpr ⟨hop, hwidth, Nat.zero_mod _⟩

/-! #### The three commands at a place -/

section AtPlace

variable {s : State} {addr : Nat} (hwork : homesWork s.hub = true)

include hwork

theorem exec_readOnce {n : Nat} (r : Nat) (hn : 0 < n) :
    exec (.readOnce addr n r) s =
      .next { s with
        work :=
          match placeOf s.hub addr with
          | .lpddr p =>
            if !inLpddr s.hub p n then s.work.reply 0x0401 []
            else if spanFree s.hub s.work p n false then readOnceNow s.hub s.work p n r
            else
              (lineParts p (List.replicate n 0)).foldl
                (fun w x => atHome s.hub w x.1 false (.readOnce x.1 x.2.length r)) s.work
          | pl => uncachedRead s.hub s.work pl n } := by
  have hgo : (!homesWork s.hub || n == 0) = false := by simp [hwork, Nat.ne_of_gt hn]
  simp only [exec, execReadOnce, onWork, hgo, Bool.false_eq_true, if_false] <;> rfl

theorem exec_writeAtHome {bs : List Byte} (hbs : bs ≠ []) :
    exec (.writeAtHome addr bs) s =
      .next { s with
        work :=
          match placeOf s.hub addr with
          | .lpddr p =>
            if !inLpddr s.hub p bs.length then s.work.reply 0x0401 []
            else if spanFree s.hub s.work p bs.length true then writeAtHomeNow s.hub s.work p bs
            else (lineParts p bs).foldl (fun w x => atHome s.hub w x.1 true (.writeAtHome x.1 x.2)) s.work
          | pl => uncachedWrite s.hub s.work pl bs } := by
  have hgo : (!homesWork s.hub || bs.isEmpty) = false := by simp [hwork, hbs]
  simp only [exec, execWriteAtHome, onWork, hgo, Bool.false_eq_true, if_false] <;> rfl

theorem exec_atomicAtHome {aop width : Nat} (x y : Word) :
    exec (.atomicAtHome addr aop width x y) s =
      .next { s with
        work :=
          if !atomicOk 0 aop width then s.work.reply 0x0408 []
          else
            match placeOf s.hub addr with
            | .lpddr p =>
              if !atomicOk p aop width then s.work.reply 0x0408 []
              else if !inLpddr s.hub p width then s.work.reply 0x0401 []
              else if spanFree s.hub s.work p width true then atomicNow s.hub s.work p aop width x y
              else atHome s.hub s.work p true (.atomicAtHome p aop width x y)
            | pl => uncachedAtomic s.hub s.work pl aop width x y } := by
  simp only [exec, execAtomicAtHome, onWork, hwork, Bool.not_true, Bool.false_eq_true, if_false] <;> rfl

end AtPlace

/-! #### Settling -/

theorem uncached_reads {s : State} {addr a : Nat} (hwork : homesWork s.hub = true) (hplace : placeOf s.hub addr = .lpddr a)
    {n : Nat} (r : Nat) (hn : 0 < n) (hin : inLpddr s.hub a n = true) :
    (spanFree s.hub s.work a n false = true →
      exec (.readOnce addr n r) s = .next { s with work := readOnceNow s.hub s.work a n r }) ∧
    (a % 128 + n ≤ 128 → homeUp s.hub (lineOf a) = true → lineBusy s.work.coh (lineOf a) = true →
      exec (.readOnce addr n r) s =
        .next { s with
          work := s.work.setHome (lineHome (lineOf a)) (fun hm =>
            takeTracker hm (requestKey noCache (lineOf a))
              ⟨.uncached (.readOnce a n r), noCache, lineOf a, a, .store [], [], none, false⟩) }) := by
  refine ⟨fun hfree => ?_, fun hline hup hbusy => ?_⟩
  · simp only [exec_readOnce hwork r hn, hplace, hin, hfree, Bool.not_true, Bool.false_eq_true, if_false, if_true]
  · have hfree : spanFree s.hub s.work a n false = false := by
      rw [← Bool.not_eq_true]
      intro hfree
      obtain ⟨_, hidle, _⟩ := free_of_spanFree hn hfree
      rw [hbusy] at hidle
      cases hidle
    have hpart : lineParts a (List.replicate n 0) = [(a, List.replicate n 0)] :=
      lineParts_of_line (by simpa using Nat.ne_of_gt hn) (by simpa using hline)
    simp only [exec_readOnce hwork r hn, hplace, hin, hfree, Bool.not_true, Bool.false_eq_true, if_false, hpart,
      List.foldl_cons, List.foldl_nil, atHome, hup, Bool.false_and, List.length_replicate, enterUncached, hbusy, if_true]

theorem not_spanFree_of_held {h : Hub} {w : Work} {a n : Nat} (hn : 0 < n)
    (hheld : homeUp h (lineOf a) = false ∨ mustHold h w (lineOf a) = true) : spanFree h w a n true = false := by
  rw [← Bool.not_eq_true]
  intro hfree
  obtain ⟨hup, _, hnot⟩ := free_of_spanFree hn hfree
  rcases hheld with hdown | hmust
  · rw [hdown] at hup
    cases hup
  · rw [hmust] at hnot
    cases hnot

/-- Settles O30: each command acts by the place of its address (`exec_readOnce`, `exec_writeAtHome`, `exec_atomicAtHome`). -/
theorem uncachedAccessesActAtTheHome : Obligations.UncachedAccessesActAtTheHome := by
  intro s addr hwork
  refine ⟨fun aop width x y hbad => ?_, fun hplace => ⟨fun n r hn => ?_, fun bs hbs => ?_, fun aop width x y hok => ?_⟩,
    fun a hplace hready => ⟨fun n r hn => ?_, fun bs hbs => ?_⟩,
    fun a hplace => ⟨fun n r hn => ⟨fun hout => ?_, fun hin => ⟨fun hfree bs hread => ?_, ?_⟩⟩,
      fun bs hbs => ⟨fun hout => ?_, fun hin => ⟨fun hfree => ⟨fun w hstore => ?_, fun c x hstore => ?_⟩,
        fun hline => ⟨fun hdown => ?_, fun hup hmust => ?_⟩⟩⟩,
      fun aop width x y hok hin => ⟨fun hfree => ⟨fun w old hat => ?_, fun c z hat => ?_⟩, fun hup hmust => ?_⟩,
      fun aop width x y hbad => ?_⟩⟩
  · rw [exec_atomicAtHome hwork, hbad, Bool.not_false, if_pos rfl]
  · rw [exec_readOnce hwork r hn, hplace]
    rfl
  · rw [exec_writeAtHome hwork hbs, hplace]
    rfl
  · rw [exec_atomicAtHome hwork, hok, Bool.not_true, if_neg Bool.false_ne_true, hplace]
    rfl
  · rw [exec_readOnce hwork r hn, hplace]
    simp only [uncachedRead, hready, Bool.not_true, Bool.false_eq_true, if_false, inWord_eq hn, refuseCore]
    by_cases hword : a % 64 + n ≤ 64 <;> simp [hword]
  · have hlen : 0 < bs.length := List.length_pos_of_ne_nil hbs
    rw [exec_writeAtHome hwork hbs, hplace]
    simp only [uncachedWrite, hready, Bool.not_true, Bool.false_eq_true, if_false, inWord_eq hlen, refuseCore]
    by_cases hword : a % 64 + bs.length ≤ 64 <;> simp [hword]
  · simp only [exec_readOnce hwork r hn, hplace, hout, Bool.not_false, if_true]
  · obtain ⟨hanswer, hmem, hlines, hvict, hhomes, heng⟩ := readOnceNow_spec (r := r) hread
    exact ⟨_, (uncached_reads hwork hplace r hn hin).1 hfree, hanswer, rfl, hmem, hlines, hvict, hhomes, heng⟩
  · exact (uncached_reads hwork hplace r hn hin).2
  · simp only [exec_writeAtHome hwork hbs, hplace, hout, Bool.not_false, if_true]
  · simp only [exec_writeAtHome hwork hbs, hplace, hin, hfree, Bool.not_true, Bool.false_eq_true, if_false, if_true,
      writeAtHomeNow, hstore]
  · simp only [exec_writeAtHome hwork hbs, hplace, hin, hfree, Bool.not_true, Bool.false_eq_true, if_false, if_true,
      writeAtHomeNow, hstore]
  · simp only [exec_writeAtHome hwork hbs, hplace, hin, Bool.not_true, Bool.false_eq_true, if_false,
      not_spanFree_of_held (w := s.work) (List.length_pos_of_ne_nil hbs) (.inl hdown), lineParts_of_line hbs hline,
      List.foldl_cons, List.foldl_nil, atHome, hdown, Bool.not_false, if_true]
  · simp only [exec_writeAtHome hwork hbs, hplace, hin, Bool.not_true, Bool.false_eq_true, if_false,
      not_spanFree_of_held (List.length_pos_of_ne_nil hbs) (.inr hmust), lineParts_of_line hbs hline,
      List.foldl_cons, List.foldl_nil, atHome, hup, hmust, Bool.and_self, if_true]
  · simp only [exec_atomicAtHome hwork, atomicOk_zero hok, hplace, hok, hin, hfree, Bool.not_true, Bool.false_eq_true, if_false,
      if_true, atomicNow, hat]
  · simp only [exec_atomicAtHome hwork, atomicOk_zero hok, hplace, hok, hin, hfree, Bool.not_true, Bool.false_eq_true, if_false,
      if_true, atomicNow, hat]
  · have hwidth : 0 < width := by
      obtain ⟨_, hwidth, _⟩ := atomicOk_iff.mp hok
      omega
    simp only [exec_atomicAtHome hwork, atomicOk_zero hok, hplace, hok, hin, Bool.not_true, Bool.false_eq_true, if_false,
      not_spanFree_of_held hwidth (.inr hmust), atHome, hup, hmust, Bool.and_self, if_true]
  · cases h0 : atomicOk 0 aop width with
    | false => simp only [exec_atomicAtHome hwork, h0, Bool.not_false, if_true]
    | true => simp only [exec_atomicAtHome hwork, h0, hplace, hbad, Bool.not_true, Bool.not_false, Bool.false_eq_true,
        if_false, if_true]

end Sys2Proof.Machine

/-! ### Evictions and ring faults (11 R334, R341, R346) -/

namespace Sys2Proof.Machine

/-- A write-back whose tag the home has recorded is discarded (R341). -/
theorem orderWriteBack_discards {h : Hub} {w : Work} {v : Victim} (hmode : h.ident.cfg.coherenceMode = false)
    (hcrossed : w.coh.crossedTags.contains v.tag = true) : (orderWriteBack h w v).mem = w.mem := by
  simp only [orderWriteBack, dirNote_ring hmode, hcrossed, if_true]

theorem exec_writeBack {s : State} {agent a : Nat} (hup : homeUp s.hub (lineOf a) = true) :
    (∀ v : Victim, s.work.coh.victims.find? (fun x => x.agent == agent && x.line == lineOf a && !x.done) = some v →
      exec (.writeBack agent a) s =
        .next { s with
          work :=
            if lineBusy s.work.coh (lineOf a) && !v.crossed then s.work
            else if trackerFree (s.work.coh.home (lineHome (lineOf a))) (requestKey agent (lineOf a)) then
              orderWriteBack s.hub
                (s.work.setHome (lineHome (lineOf a)) (fun hm => noteReserved hm (requestKey agent (lineOf a)))) v
            else
              s.work.setHome (lineHome (lineOf a)) (fun hm => noteReserved hm (requestKey agent (lineOf a))) }) ∧
    (s.work.coh.victims.find? (fun v => v.agent == agent && v.line == lineOf a && !v.done) = none →
      (∀ l : CacheLine, s.work.coh.lines.find? (fun x => x.agent == agent && x.line == lineOf a) = some l →
        exec (.writeBack agent a) s = .next { s with work := if dirty l then evictDirty s.work l else s.work }) ∧
      (s.work.coh.lines.find? (fun x => x.agent == agent && x.line == lineOf a) = none →
        exec (.writeBack agent a) s = .next s)) := by
  refine ⟨fun v hv => ?_, fun hnone => ⟨fun l hl => ?_, fun hl => ?_⟩⟩
  · simp only [exec, execWriteBack, onWork, hup, Bool.not_true, Bool.false_eq_true, if_false, hv]
  · simp only [exec, execWriteBack, onWork, hup, Bool.not_true, Bool.false_eq_true, if_false, hnone, hl]
  · simp only [exec, execWriteBack, onWork, hup, Bool.not_true, Bool.false_eq_true, if_false, hnone, hl]

/-- Settles O32: a write-back is its eviction or its way home (`exec_writeBack`), and a message's second failure is the ring
fault. -/
theorem evictionsAndRingFaultsAct : Obligations.EvictionsAndRingFaultsAct := by
  refine ⟨fun s agent a => ⟨fun hup => ⟨fun hnov => ⟨fun l hl => ⟨fun hdirty => ⟨?_, rfl⟩, fun hclean => ?_⟩, fun hl => ?_⟩,
    fun v hv => ⟨fun hbusy hopen => ?_, fun hfree => ⟨_, rfl, fun hnone => ?_, fun hone => ⟨?_, fun htag hmode => ?_⟩⟩⟩⟩,
    fun tag => rfl, fun hst => ?_⟩, fun s m stop hpow => ⟨fun hfirst => ?_, fun hsecond => ⟨_, rfl, fun hdown => ?_,
      fun hruns => ⟨?_, rfl, rfl, rfl⟩⟩⟩⟩
  · rw [((exec_writeBack hup).2 hnov).1 l hl, if_pos hdirty]
  · rw [((exec_writeBack hup).2 hnov).1 l hl, hclean, if_neg Bool.false_ne_true]
  · exact ((exec_writeBack hup).2 hnov).2 hl
  · rw [(exec_writeBack hup).1 v hv, hbusy, hopen]
    rfl
  · have hgo : (lineBusy s.work.coh (lineOf a) && !v.crossed) = false := by
      rcases hfree with hidle | hcrossed
      · rw [hidle, Bool.false_and]
      · rw [hcrossed, Bool.not_true, Bool.and_false]
    rw [(exec_writeBack hup).1 v hv, hgo, hnone, if_neg Bool.false_ne_true, if_neg Bool.false_ne_true]
  · have hgo : (lineBusy s.work.coh (lineOf a) && !v.crossed) = false := by
      rcases hfree with hidle | hcrossed
      · rw [hidle, Bool.false_and]
      · rw [hcrossed, Bool.not_true, Bool.and_false]
    rw [(exec_writeBack hup).1 v hv, hgo, hone, if_neg Bool.false_ne_true, if_pos rfl]
  · exact orderWriteBack_discards hmode htag
  · rcases hst with hst | hst <;> simp only [exec, execEvictClean, onWork, hst]
  · simp only [exec, execRingParityFailure, hpow, Bool.not_true, Bool.false_eq_true, if_false, hfirst, onState]
  · simp only [exec, execRingParityFailure, hpow, Bool.not_true, Bool.false_eq_true, if_false, hsecond, if_true, hdown,
      onState]
  · simp only [exec, execRingParityFailure, hpow, Bool.not_true, Bool.false_eq_true, if_false, hsecond, if_true, hruns,
      onState]

end Sys2Proof.Machine

/-! ### Remote accesses (12 R374 to R379) -/

namespace Sys2Proof.Machine

/-- An answer changes the fabric alone. -/
theorem answer_keeps (h : Hub) (w : Work) (k : Nat) (p : Packet) (status : Code) (data : List Byte) :
    (answer h w k p status data).mem = w.mem ∧ (answer h w k p status data).engines = w.engines ∧
      (answer h w k p status data).coh = w.coh := by
  obtain ⟨f, hsend, _⟩ := sendResponse_spec h (dropInbox w k) 0xFFFF p status data
  rw [answer, hsend]
  exact ⟨rfl, rfl, rfl⟩

/-- Only a parity error takes a line to its home (11 R332). -/
theorem afterReadError_of_ne {h : Hub} {w : Work} {c : Code} (a : Nat) (hc : c ≠ 0x0402) : afterReadError h w c a = w := by
  unfold afterReadError
  split
  · exact if_pos (.inl hc)
  · rfl

theorem refusedAccess_down {h : Hub} (n : Nat) (hdown : targetDown h = true) : refusedAccess h n = some 0x0503 := by
  rw [refusedAccess, if_pos hdown]

theorem refusedAccess_length {h : Hub} {n : Nat} (hup : targetDown h = false) (hn : n = 0 ∨ 4096 < n) :
    refusedAccess h n = some 0x0401 := by
  rw [refusedAccess, hup, if_neg Bool.false_ne_true, if_pos hn]

theorem refusedAccess_none {h : Hub} {n : Nat} (hup : targetDown h = false) (hpos : 0 < n) (hmax : n ≤ 4096) :
    refusedAccess h n = none := by
  rw [refusedAccess, hup, if_neg Bool.false_ne_true, if_neg (by omega)]

/-- A store to register space that is not one naturally aligned word reaches nothing (01 R30). -/
theorem writeHere_not_word {h : Hub} {w : Work} {a o : Nat} {bs : List Byte} (hreg : regionOf h a = .regs o)
    (hbad : bs.length ≠ 8 ∨ o % 8 ≠ 0) : writeHere h w a bs = .error (0x0401, a) := by
  have hword : oneWord o bs.length = false := by
    rw [← Bool.not_eq_true, oneWord, Bool.and_eq_true, beq_iff_eq, beq_iff_eq]
    omega
  simp only [writeHere, hreg, hword, Bool.false_eq_true, if_false]

theorem wholeStep_held {w done : Work} (who : Nat × Nat × Nat) (hheld : newlyHeld w done ≠ []) :
    wholeStep w who done = askPieces w who (newlyHeld w done) := by
  unfold wholeStep
  split
  next h => exact absurd h hheld
  · rfl

/-- Settles O33: each access is refused by its length or its target, or is performed where it lies. -/
theorem remoteAccessesArePerformedOrRefused : Obligations.RemoteAccessesArePerformedOrRefused := by
  refine ⟨fun s k p hup => ⟨fun hnext hpos hmax => ⟨fun b hread => ?_, fun c a hread => ?_⟩,
    fun hnext hpos hmax => ⟨fun h1 w1 hwrite => ⟨fun hnone => ?_, fun hheld => ?_⟩, fun c a hwrite => ?_,
      fun o hreg hbad => ?_⟩, fun hnext hok => ⟨fun a w1 old haddr hat => ?_, fun a x c haddr hat => ?_,
      fun c haddr => ?_⟩⟩, fun s k p => ⟨fun hnext => ?_, fun hnext => ?_, fun hnext => ?_,
    fun hdown => ⟨fun hnext => ?_, fun hnext => ?_, fun hnext => ?_⟩,
    fun hup => ⟨fun hnext hn => ?_, fun hnext hn => ?_, fun hnext hok => ?_⟩, answer_keeps _ _ _ _ _ _⟩⟩
  · simp only [exec, execRemoteRead, onWork, hnext, refusedAccess_none hup hpos hmax, hread]
  · simp only [exec, execRemoteRead, onWork, hnext, refusedAccess_none hup hpos hmax, hread]
  · simp only [exec, execRemoteWrite, hnext, refusedAccess_none hup hpos hmax, hwrite, hnone, List.isEmpty_nil, if_true,
      onState]
  · have hsome : (newlyHeld s.work w1).isEmpty = false := by simpa using hheld
    simp only [exec, execRemoteWrite, hnext, refusedAccess_none hup hpos hmax, hwrite, hsome, Bool.false_eq_true, if_false,
      onState, wholeStep_held _ hheld]
  · simp only [exec, execRemoteWrite, hnext, refusedAccess_none hup hpos hmax, hwrite, onState]
  · simp only [exec, execRemoteWrite, hnext, refusedAccess_none hup hpos hmax, writeHere_not_word hreg hbad, onState,
      afterReadError_of_ne _ (show (0x0401 : Code) ≠ 0x0402 by decide)]
  · simp only [exec, execRemoteAtomic, onWork, hnext, hup, hok, Bool.not_true, Bool.false_eq_true, if_false, haddr, hat]
  · simp only [exec, execRemoteAtomic, onWork, hnext, hup, hok, Bool.not_true, Bool.false_eq_true, if_false, haddr, hat]
  · simp only [exec, execRemoteAtomic, onWork, hnext, hup, hok, Bool.not_true, Bool.false_eq_true, if_false, haddr]
  · simp only [exec, execRemoteRead, onWork, hnext]
  · simp only [exec, execRemoteWrite, hnext]
  · simp only [exec, execRemoteAtomic, onWork, hnext]
  · simp only [exec, execRemoteRead, onWork, hnext, refusedAccess_down _ hdown]
  · simp only [exec, execRemoteWrite, hnext, refusedAccess_down _ hdown, onState]
  · simp only [exec, execRemoteAtomic, onWork, hnext, hdown, if_true]
  · simp only [exec, execRemoteRead, onWork, hnext, refusedAccess_length hup hn]
  · simp only [exec, execRemoteWrite, hnext, refusedAccess_length hup hn, onState]
  · simp only [exec, execRemoteAtomic, onWork, hnext, hup, hok, Bool.not_false, Bool.false_eq_true, if_false, if_true]

end Sys2Proof.Machine

/-! ### Packets reach their owners (12 R365 to R374) -/

namespace Sys2Proof.Machine

/-! #### CONTROL -/

theorem exec_controlPacket {s : State} {k : Nat} {p : Packet} (hfab : fabricWorks s.hub = true)
    (hinbox : inboxAt s.work k (fun x => x.op == 0x20) = some p) (hturn : behindPart s.work k p = false) :
    exec (.controlPacket k) s =
      .next { s with hub := (controlMessage s.hub s.work k p).1, work := (controlMessage s.hub s.work k p).2 } := by
  simp only [exec, execControlPacket, hinbox, hfab, hturn, Bool.not_false, Bool.and_self, if_true, onState]

/-- A message that is no alarm acts by its kind (log 11). -/
theorem controlMessage_kind {h : Hub} {w : Work} {k : Nat} {p : Packet} (hne : p.payload ≠ [])
    (halarm : isAlarm p.payload = false) :
    ((fld p.payload 0 1 = 1 ∨ fld p.payload 0 1 = 2) → targetDown h = true →
      controlMessage h w k p = (h, answer h w k p 0x0503 [])) ∧
    (fld p.payload 0 1 = 1 → targetDown h = false →
      controlMessage h w k p =
        (h, causedBy p.causal (answer h w k p 0 []) (fun w =>
          takeFlag h (traceVote h w) (fld p.payload 2 2) (fld p.payload 4 4)
            (BitVec.ofNat 64 (fld p.payload 8 8)) (fld p.payload 1 1 == 1)))) ∧
    (fld p.payload 0 1 = 2 → targetDown h = false →
      controlMessage h w k p =
        (h, causedBy p.causal (answer h w k p 0 []) (fun w =>
          takeOutcome h (traceVote h w) (BitVec.ofNat 64 (fld p.payload 8 8)) (fld p.payload 1 1)))) ∧
    (fld p.payload 0 1 = 3 → controlMessage h w k p = groupMessage h w k p) ∧
    (fld p.payload 0 1 = 4 →
      controlMessage h w k p =
        (h, causedBy p.causal (answer h w k p 0 []) (fun w =>
          takeAbort h w (fld p.payload 2 2) (BitVec.ofNat 32 (fld p.payload 4 4))))) := by
  have hne' : p.payload.isEmpty = false := by simpa using hne
  refine ⟨fun hkind hdown => ?_, fun hkind hup => ?_, fun hkind hup => ?_, fun hkind => ?_, fun hkind => ?_⟩
  · rcases hkind with hkind | hkind <;>
      simp only [controlMessage, hne', halarm, hkind, hdown, Bool.false_eq_true, if_false, if_true]
  · simp only [controlMessage, hne', halarm, hkind, hup, Bool.false_eq_true, if_false]
  · simp only [controlMessage, hne', halarm, hkind, hup, Bool.false_eq_true, if_false]
  · simp only [controlMessage, hne', halarm, hkind, Bool.false_eq_true, if_false]
  · simp only [controlMessage, hne', halarm, hkind, Bool.false_eq_true, if_false]

/-- An alarm of another module is marked REMOTE (17 R518). -/
theorem alarmOf_remote (b : List Byte) : (alarmOf b).flags % 2 = 1 := by
  simp [alarmOf, Nat.or_mod_two_eq_one]

/-! #### Arrival at a port -/

theorem exec_packetForward {s : State} {port : Nat} {bs : List Byte} (hfab : fabricWorks s.hub = true)
    (hup : (portOf s.work port).st = .up) :
    (packetOf bs = none → exec (.packetForward port bs) s = .next s) ∧
      (∀ p, packetOf bs = some p →
        exec (.packetForward port bs) s = .next { s with work := arrive s.hub s.work port p }) := by
  have hgo : (fabricWorks s.hub && (portOf s.work port).st == .up) = true := by rw [hfab, hup]; rfl
  refine ⟨fun hnone => ?_, fun p hp => ?_⟩
  · simp only [exec, execPacketForward, onWork, hgo, if_true, hnone]
  · simp only [exec, execPacketForward, onWork, hgo, if_true, hp]

theorem exec_ethFrame {s : State} {port : Nat} {f : EthFrame} (hfab : fabricWorks s.hub = true)
    (hup : (portOf s.work port).st = .ethUp) :
    ((frameOk f = false ∨ packetOf f.payload = none) →
      exec (.ethFrame port f) s =
        .next { s with
          work := s.work.setPort port (fun x => { x with discards := min (x.discards + 1) (2 ^ 32 - 1) }) }) ∧
      (∀ p, frameOk f = true → packetOf f.payload = some p →
        exec (.ethFrame port f) s = .next { s with work := arrive s.hub s.work port p }) := by
  have hgo : (fabricWorks s.hub && (portOf s.work port).st == .ethUp) = true := by rw [hfab, hup]; rfl
  refine ⟨fun hbad => ?_, fun p hok hp => ?_⟩
  · have hnone : (if frameOk f then packetOf f.payload else none) = none := by
      rcases hbad with hframe | hpacket
      · rw [hframe, if_neg Bool.false_ne_true]
      · rw [hpacket, ite_self]
    simp only [exec, execEthFrame, onWork, hgo, if_true, hnone]
    rfl
  · simp only [exec, execEthFrame, onWork, hgo, if_true, hok, hp]

/-- Outside test mode a packet is routed as it arrives (R369). -/
theorem arrive_untested {h : Hub} (w : Work) (port : Nat) (p : Packet) (htest : h.ident.cfg.testMode = false) :
    arrive h w port p = routePacket h w p := by
  simp only [arrive, inject, htest, Bool.false_eq_true, if_false, List.foldl_cons, List.foldl_nil]

theorem routePacket_cases (h : Hub) (w : Work) (p : Packet) :
    (packetBad p = true → routePacket h w p = w) ∧
      (packetBad p = false → isSelf h p.dest = false → routePacket h w p = forwardPacket h w p) ∧
      (packetBad p = false → isSelf h p.dest = true → isManagement p = true → routePacket h w p = takeManagement h w p) ∧
      (packetBad p = false → isSelf h p.dest = true → isManagement p = false → routePacket h w p = takePacket h w p) := by
  refine ⟨fun hbad => ?_, fun hgood hdest => ?_, fun hgood hdest hmgmt => ?_, fun hgood hdest hmgmt => ?_⟩
  · rw [routePacket, if_pos hbad]
  · rw [routePacket, hgood, if_neg Bool.false_ne_true, hdest, Bool.not_false, if_pos rfl]
  · rw [routePacket, hgood, if_neg Bool.false_ne_true, hdest, Bool.not_true, if_neg Bool.false_ne_true, if_pos hmgmt]
  · rw [routePacket, hgood, if_neg Bool.false_ne_true, hdest, Bool.not_true, if_neg Bool.false_ne_true, hmgmt,
      if_neg Bool.false_ne_true]

/-- Settles O34: a message acts by its kind (`controlMessage_kind`), a response by the request of its tag, and a packet by where
it arrives and where it goes (`routePacket_cases`). -/
theorem packetsReachTheirOwners : Obligations.PacketsReachTheirOwners := by
  refine ⟨fun s k p hfab => ⟨fun hinbox hturn => ⟨fun hempty => ?_, fun halarm => ⟨?_, alarmOf_remote _⟩,
    fun hne halarm => ?_⟩, fun hinbox => ⟨_, rfl, ?_, fun e id hreq => ?_, fun hreq => ?_⟩⟩,
    fun s port hfab => ⟨fun hup bs => ⟨(exec_packetForward hfab hup).1, fun p hp => ?_⟩,
      fun hup f => ⟨(exec_ethFrame hfab hup).1, fun p hok hp => ?_⟩⟩⟩
  · have hempty' : p.payload.isEmpty = true := by simpa using hempty
    simp only [exec_controlPacket hfab hinbox hturn, controlMessage, hempty', if_true]
  · have hne' : p.payload.isEmpty = false := by
      cases hp : p.payload with
      | nil =>
        rw [hp] at halarm
        exact absurd halarm (by decide)
      | cons b rest => rfl
    simp only [exec_controlPacket hfab hinbox hturn, controlMessage, hne', halarm, Bool.false_eq_true, if_false, if_true]
  · obtain ⟨hdown, hflag, hout, hgroup, habort⟩ := controlMessage_kind (h := s.hub) (w := s.work) (k := k) hne halarm
    rw [exec_controlPacket hfab hinbox hturn]
    refine ⟨fun hkind htarget => by rw [hdown hkind htarget], fun hkind htarget => by rw [hflag hkind htarget],
      fun hkind htarget => by rw [hout hkind htarget], fun hkind hruns => ?_, fun hkind hstops hroom => ?_,
      fun hkind => by rw [habort hkind]⟩
    · simp only [hgroup hkind, groupMessage, hruns, if_true]
    · simp only [hgroup hkind, groupMessage, hstops, Bool.false_eq_true, if_false, if_pos hroom]
  · simp only [exec, execPacketResponse, hinbox, hfab, if_true, onState]
  · have hreq' : ∀ who, s.work.fabric.requests.find? (fun r => r.1 == p.tag) = some (p.tag, who) →
        (releaseRequest (dropInbox s.work k) p).fabric.requests.find? (fun r => r.1 == p.tag) = some (p.tag, who) :=
      fun _ h => h
    rcases hreq with hreq | hreq <;> simp only [settleRequest, hreq' _ hreq]
  · have hreq' : (releaseRequest (dropInbox s.work k) p).fabric.requests.find? (fun r => r.1 == p.tag) =
        some (p.tag, .core) := hreq
    simp only [settleRequest, hreq']
  · have hexec := (exec_packetForward hfab hup).2 p hp
    refine ⟨hexec, fun htest => ?_⟩
    obtain ⟨hbad, hforward, hmanaged, htaken⟩ := routePacket_cases s.hub s.work p
    rw [hexec, arrive_untested _ _ _ htest]
    exact ⟨fun h => by rw [hbad h], fun h hd => by rw [hforward h hd], fun h hd hm => by rw [hmanaged h hd hm],
      fun h hd hm => by rw [htaken h hd hm]⟩
  · have hexec := (exec_ethFrame hfab hup).2 p hok hp
    refine ⟨hexec, fun htest hgood hdest hmgmt => ?_⟩
    rw [hexec, arrive_untested _ _ _ htest, (routePacket_cases s.hub s.work p).2.2.2 hgood hdest hmgmt]

end Sys2Proof.Machine

/-! ### Acknowledgements, probes and resends (12 R366, R372) -/

namespace Sys2Proof.Machine

theorem exec_retransmitTimeout {s : State} {m cls : Nat} {psn : BitVec 32} {x : HeldPacket} {sn : Sender}
    (hfab : fabricWorks s.hub = true)
    (hheld : (senderOf s.work m cls).held.find? (fun y => y.packet.psn == psn) = some x)
    (hsn : sn = countTimeout (senderOf s.work m cls) x.packet.path) :
    exec (.retransmitTimeout m cls psn) s =
      if x.resends < 7 then
        (if resendRefused s.work sn x then onState s (abandonPacket s.hub s.work sn x.packet 0x0501)
         else onState s (s.hub, resendPacket s.hub (s.work.setSender sn) sn x))
      else onState s (giveUp s.hub s.work sn x) := by
  subst hsn
  simp only [exec, execRetransmitTimeout, hheld, hfab, Bool.not_true, Bool.false_eq_true, if_false]

/-- Settles O36: each of the four commands is one look at the sender or the receiver of its path. -/
theorem transportAcknowledgesAndResends : Obligations.TransportAcknowledgesAndResends := by
  intro s m cls port psn hfab
  refine ⟨?_, fun hnone => ⟨?_, ?_⟩, fun x w hheld hw => ⟨fun hop => ?_, fun hop => ?_⟩, ?_,
    fun hout hperm hport heth => ?_, fun x sn hheld hsn => ⟨fun hless hgoes => ?_, fun hless hrefused => ?_,
      fun hseven => ?_⟩⟩
  · simp only [exec, execPacketAck, onWork, hfab, if_true, takeAck]
  · simp only [exec, execPacketAck, onWork, hfab, if_true, takeAck, hnone, Bool.false_eq_true, if_false]
  · simp only [exec, execRetransmitTimeout, hnone]
  · subst hw
    simp only [exec, execPacketAck, onWork, hfab, if_true, takeAck, hheld, Bool.false_eq_true, if_false, freeKept,
      if_pos hop]
  · subst hw
    simp only [exec, execPacketAck, onWork, hfab, if_true, takeAck, hheld, Bool.false_eq_true, if_false]
  · simp only [exec, execAckTimer, onWork, hfab, if_true]
  · have hgo : (fabricWorks s.hub && ((senderOf s.work m cls).unreachable || (senderOf s.work m cls).left.contains port) &&
        (permitted s.work m).contains port && portIsUp s.work port && ethReachable s.work port m) = true := by
      simp only [Bool.and_eq_true, Bool.or_eq_true]
      exact ⟨⟨⟨⟨hfab, hout⟩, hperm⟩, hport⟩, heth⟩
    simp only [exec, execProbePacket, onWork, hgo, if_true]
  · rw [exec_retransmitTimeout hfab hheld hsn, if_pos hless, hgoes, if_neg Bool.false_ne_true]
    rfl
  · rw [exec_retransmitTimeout hfab hheld hsn, if_pos hless, if_pos hrefused]
    rfl
  · rw [exec_retransmitTimeout hfab hheld hsn, if_neg (by omega)]
    rfl

end Sys2Proof.Machine

/-! ### Links (12 R363, R364, 19 R551) -/

namespace Sys2Proof.Machine

/-- While the reference runs, FW2 retrains every port. -/
theorem trainPorts_retrains {h : Hub} {w : Work} (href : w.fabric.referenceLost = false) {n : Nat}
    (hn : n < w.fabric.ports.length) :
    (portOf (trainPorts h w) n).st = .retraining ∧ (portOf (trainPorts h w) n).attempts = 0 := by
  simp [portOf, trainPorts, href, List.getD_eq_getElem?_getD, hn]

/-- Settles O37: each event of a link is one test of its port's state. -/
theorem linksReplayRetrainAndGoDown : Obligations.LinksReplayRetrainAndGoDown := by
  refine ⟨fun s port hport hfab => ⟨fun flit hup hfirst => ?_, fun flit hup hsecond => ?_, fun hre href => ?_,
    fun hre hless => ?_, fun hre hthird => ?_, fun cls c f => ⟨fun hup => ?_, fun hdown => ?_⟩⟩,
    fun s hpow => ⟨fun href => ?_, fun hlost hpower hboot hstopped => ?_⟩⟩
  · have hgo : ((portOf s.work port).st != .up || decide (port ≥ 16) || !fabricWorks s.hub) = false := by
      rw [hup, hfab, decide_eq_false (by omega)]
      rfl
    simp only [exec, execFlitCrcFailure, onWork, hgo, hfirst, Bool.false_eq_true, if_false]
    rfl
  · have hgo : ((portOf s.work port).st != .up || decide (port ≥ 16) || !fabricWorks s.hub) = false := by
      rw [hup, hfab, decide_eq_false (by omega)]
      rfl
    simp only [exec, execFlitCrcFailure, onWork, hgo, hsecond, Bool.false_eq_true, if_false, if_true, startRetrain]
    rfl
  · have hgo : (portOf s.work port).st = .retraining ∧ port < 16 ∧ fabricWorks s.hub = true ∧
        (!s.work.fabric.referenceLost) = true := ⟨hre, hport, hfab, by rw [href]; rfl⟩
    simp only [exec, execRetrainComplete, if_pos hgo, onState]
  · have hgo : (portOf s.work port).st = .retraining ∧ port < 16 ∧ fabricWorks s.hub = true := ⟨hre, hport, hfab⟩
    have hmore : (portOf s.work port).attempts + 1 < 3 := by omega
    simp only [exec, execRetrainTimeout, if_pos hgo, if_pos hmore]
  · have hgo : (portOf s.work port).st = .retraining ∧ port < 16 ∧ fabricWorks s.hub = true := ⟨hre, hport, hfab⟩
    have hlast : ¬ (portOf s.work port).attempts + 1 < 3 := by omega
    simp only [exec, execRetrainTimeout, if_pos hgo, if_neg hlast, onState]
  · have hgo : ((portOf s.work port).st == .up && fabricWorks s.hub) = true := by rw [hup, hfab]; rfl
    simp only [exec, execCreditReturn, onWork, hgo, if_true, returnCredits]
  · have hgo : ((portOf s.work port).st == .up && fabricWorks s.hub) = false := by
      rw [beq_false_of_ne hdown, Bool.false_and]
    simp only [exec, execCreditReturn, onWork, hgo, Bool.false_eq_true, if_false]
  · simp only [exec, execFabricReferenceLost, hpow, href, Bool.not_true, Bool.or_self, Bool.false_eq_true, if_false, onState]
  · have hrun : (fabricWorks s.hub && s.hub.ident.bootDone && !s.hub.sec.stoppedBoot) = true := by
      simp [fabricWorks, hpow, hpower, hboot, hstopped]
    refine ⟨{ s with work := trainPorts s.hub (s.work.setFabric (fun f => { f with referenceLost := false })) }, ?_, rfl,
      rfl, rfl, List.length_map _, fun n hn => trainPorts_retrains rfl hn⟩
    simp only [exec, execFabricReferenceRestored, onWork, hlost, hpow, Bool.not_true, Bool.or_self, Bool.false_eq_true,
      if_false, hrun, if_true]

end Sys2Proof.Machine

/-! ### Collective queues (12 R386 to R389, 14 R437) -/

namespace Sys2Proof.Machine

/-- A queue with a descriptor is one of those that are there. -/
theorem lt_of_collQ_desc {w : Work} {k : Nat} {d : Desc} (hd : (collQ w k).desc = some d) : k < w.colls.queues.length := by
  by_contra hk
  rw [collQ, List.getD_eq_default _ _ (Nat.le_of_not_lt hk)] at hd
  cases hd

theorem collQ_setCollQ_self {w : Work} {k : Nat} (f : CollQueue → CollQueue) (hk : k < w.colls.queues.length) :
    collQ (w.setCollQ k f) k = f (collQ w k) := by
  rw [collQ_setCollQ, if_pos ⟨rfl, hk⟩]

/-- Two updates of a queue are one. -/
theorem Work.setCollQ_setCollQ (w : Work) (k : Nat) (f g : CollQueue → CollQueue) :
    (w.setCollQ k f).setCollQ k g = w.setCollQ k (fun q => g (f q)) := by
  simp only [Work.setCollQ, Work.setColls, List.modify_modify_eq]
  rfl

/-- An enabled queue is one of those that are there. -/
theorem lt_of_collQ_enabled {w : Work} {k : Nat} (hen : (collQ w k).enabled = true) : k < w.colls.queues.length := by
  by_contra hk
  rw [collQ, List.getD_eq_default _ _ (Nat.le_of_not_lt hk)] at hen
  exact Bool.noConfusion hen

/-- The doorbell of an enabled queue between no two reads of a slot has the ring read, with the hint it brings. -/
theorem storeCqDoorbell_reads {h : Hub} {w : Work} {k : Nat} (v : Word) (hen : (collQ w k).enabled = true)
    (hwork : collWorks h = true) (hr : (collQ w k).rereads = 0) :
    storeCqDoorbell h w k v =
      readColl h (w.setCollQ k (fun q => { q with hint := some (v.setWidth 32), unsealed := false, rereads := 0 })) k := by
  have hset : w.setCollQ k (fun q =>
      { q with hint := some (v.setWidth 32), unsealed := false, rereads := if q.unsealed then 0 else q.rereads }) =
      w.setCollQ k (fun q => { q with hint := some (v.setWidth 32), unsealed := false, rereads := 0 }) :=
    Work.setCollQ_congr (by rw [hr, ite_self])
  simp only [storeCqDoorbell, hen, hwork, hr, Bool.not_true, Bool.or_self, Bool.false_eq_true, if_false, hset, ne_eq,
    not_true_eq_false, decide_false, Bool.false_and]

/-- A queue that stops keeps all but its stop, its code and its re-reads; memory is unchanged. -/
theorem stopQueue_spec {h : Hub} {w : Work} {k : Nat} (code : Code) (hk : k < w.colls.queues.length) :
    (stopQueue h w k code).mem = w.mem ∧
      collQ (stopQueue h w k code) k = { collQ w k with stopped := true, stopCode := code, rereads := 0 } := by
  obtain ⟨l, hl⟩ := emit_spec h (w.setCollQ k (fun q => { q with stopped := true, stopCode := code, rereads := 0 }))
    ⟨if code = 0x0102 then 1 else 5, code, 53, unitOf 7 k, 0, []⟩
  rw [stopQueue, hl]
  exact ⟨rfl, collQ_setCollQ_self _ hk⟩

/-- What a collective queue does with the descriptor that it has taken, by the command of its type. -/
structure StartsColl (s : State) (k : Nat) (d : Desc) (c : Instr) : Prop where
  held : s.work.colls.heldGroups.contains (fld d.payload 0x20 2) = true →
    exec c s =
      .next { s with
        work := s.work.setCollQ k (fun q => { q with desc := none, nextSeq := q.nextSeq - 1, groupHeld := true }) }
  starts : s.work.colls.heldGroups.contains (fld d.payload 0x20 2) = false →
    ∀ (x : Coll) (g : CollGroup), checkColl s.hub s.work d = .ok (x, g) →
      exec c s = .next { s with work := runColl s.hub s.work k x g }
  refuses : s.work.colls.heldGroups.contains (fld d.payload 0x20 2) = false →
    ∀ e : Code, checkColl s.hub s.work d = .error e →
      exec c s =
        .next { s with
          work := endColl s.hub s.work k
            (if complOk s.hub (collFrom d).complAddr then (collFrom d).complAddr else 0)
            (if 2 ^ 14 ≤ (collFrom d).signal then 0 else (collFrom d).signal)
            (reducing (collFrom d).kind && (collFrom d).partialCode != 0) (collFrom d).collSeq e 0 none }

/-- The six commands are one function of the type. -/
theorem startsColl_of_startColl {s : State} {k : Nat} {d : Desc} {c : Instr} (hd : (collQ s.work k).desc = some d)
    (hwork : collWorks s.hub = true) (hc : exec c s = onWork s fun h w => startColl h w k d.kind) :
    StartsColl s k d c := by
  have hgo : ¬ (d.kind ≠ d.kind ∨ (!collWorks s.hub) = true) := by rw [hwork]; simp
  constructor
  · intro hheld
    rw [hc]
    simp only [onWork, startColl, hd, if_neg hgo, if_pos hheld]
  · intro hfree x g hok
    rw [hc]
    simp only [onWork, startColl, hd, if_neg hgo, hfree, Bool.false_eq_true, if_false, hok]
  · intro hfree e hbad
    rw [hc]
    simp only [onWork, startColl, hd, if_neg hgo, hfree, Bool.false_eq_true, if_false, hbad]

theorem exec_startColl {s : State} {k kind : Nat} {c : Instr}
    (hc : (c, kind) ∈ [(.allReduce k, 0x0C01), (.collectiveReduce k, 0x0C02), (.reduceScatter k, 0x0C03),
      (.broadcast k, 0x0C04), (.allGather k, 0x0C05), (.barrier k, 0x0C06)]) :
    exec c s = onWork s fun h w => startColl h w k kind := by
  simp only [List.mem_cons, Prod.mk.injEq, List.not_mem_nil, or_false] at hc
  rcases hc with ⟨rfl, rfl⟩ | ⟨rfl, rfl⟩ | ⟨rfl, rfl⟩ | ⟨rfl, rfl⟩ | ⟨rfl, rfl⟩ | ⟨rfl, rfl⟩ <;> rfl

/-- Settles O38: the ring is read as O5 says (`readColl_reads`), and the six types share `startColl`. -/
theorem collectiveQueuesTakeAndStart : Obligations.CollectiveQueuesTakeAndStart := by
  intro s k
  refine ⟨fun v hen => ?_, fun v b d hwork hen hstop hd hcur hr hb hj hgroup => ?_, fun d hd hwork => ⟨fun hkind => ?_,
    fun c hc => ?_⟩⟩
  · have hoff : (!(collQ (s.work.reply 0 []) k).enabled || !collWorks s.hub) = true := by
      rw [show collQ (s.work.reply 0 []) k = collQ s.work k from rfl, hen]
      rfl
    simp only [exec, execCqDoorbell, onWork, storeCqDoorbell, hoff, if_true]
  · have hself := collQ_setCollQ_self (w := s.work.reply 0 [])
      (fun q => { q with hint := some (v.setWidth 32), unsealed := false, rereads := 0 }) (lt_of_collQ_enabled hen)
    have hread := (readColl_reads (h := s.hub) (b := b)
      (w := (s.work.reply 0 []).setCollQ k (fun q => { q with hint := some (v.setWidth 32), unsealed := false, rereads := 0 }))
      (k := k) (by rw [hself]; exact hen) (by rw [hself]; exact hstop) (by rw [hself]; exact hd) (by rw [hself]; exact hcur)
      (by rw [hself]) (by rw [hself]; exact hb)).2 d (by rw [hself]; exact hj)
    have hexec : exec (.cqDoorbell k v) s = .next { s with work := storeCqDoorbell s.hub (s.work.reply 0 []) k v } := rfl
    rw [hexec, storeCqDoorbell_reads (w := s.work.reply 0 []) v hen hwork hr, hread, takeColl]
    have hfree : ((s.work.reply 0 []).setCollQ k
        (fun q => { q with hint := some (v.setWidth 32), unsealed := false, rereads := 0 })).colls.heldGroups.contains
        (fld d.payload 0x20 2) = false := hgroup
    rw [hfree, Bool.and_false, if_neg Bool.false_ne_true, Work.setCollQ_setCollQ]
  · have hk : k < s.work.colls.queues.length := lt_of_collQ_desc hd
    obtain ⟨hmem, hq⟩ := stopQueue_spec (h := s.hub) (w := s.work.setCollQ k (fun q => { q with desc := none })) (k := k)
      0x020B (by simpa [Work.setCollQ, Work.setColls] using hk)
    rw [collQ_setCollQ_self _ hk] at hq
    refine ⟨{ s with work := stopQueue s.hub (s.work.setCollQ k (fun q => { q with desc := none })) k 0x020B }, ?_, rfl,
      hmem, hq⟩
    have hgo : (collWorks s.hub && !knownColl d.kind) = true := by rw [hwork, hkind]; rfl
    simp only [exec, execCollectiveUnknownType, onWork, hd, hgo, if_true]
  · have hstart := startsColl_of_startColl hd hwork (exec_startColl hc)
    exact ⟨hstart.held, fun hfree => ⟨hstart.starts hfree, hstart.refuses hfree⟩⟩

end Sys2Proof.Machine

/-! ### The course and the end of a collective (12 R390 to R394) -/

namespace Sys2Proof.Machine

theorem length_memberBytes (ms : List Nat) : (memberBytes ms).length = 4 * ms.length := by
  induction ms with
  | nil => rfl
  | cons m ms ih =>
    rw [memberBytes, List.flatMap_cons, List.length_append, ← memberBytes, ih, length_leBytes, List.length_cons]
    omega

/-- A change that comes whole is the last part of its own message: the pending fields follow the members. -/
theorem writePending_eq (h : Hub) (w : Work) (g epoch : Nat) (seq : BitVec 32) (addr : Nat) (new : List Nat) (index : Nat) :
    writePending h w g epoch seq addr new index =
      pendingFields h (physPut h w addr (memberBytes new)) g epoch seq addr new.length index := by
  have hlast : new.length ≤ 0 + (memberBytes new).length / 4 := by rw [length_memberBytes]; omega
  simp only [writePending, takePart, if_pos hlast, Nat.mul_zero, Nat.add_zero]

/-- Settles O39: each command looks at the running collective, or at the group of the message. -/
theorem collectivesRunToTheirEnd : Obligations.CollectivesRunToTheirEnd := by
  intro s k
  refine ⟨fun p hp => ⟨fun hempty => ?_, fun hfull => ?_⟩, fun c code bytes hcur hres hwork hset => ⟨fun h0 => ?_,
    fun h0 => ?_⟩, fun c hcur hwork => ⟨fun htmo => ?_, fun htmo => ?_⟩, fun group seq hwork => ⟨fun q c hrun => ?_,
    fun hnone hnot => ?_, fun hnone hlate => ?_⟩, fun group epoch addr index members seq hruns hgroup => ⟨_, rfl, ?_⟩⟩
  · simp only [exec, execCollectivePacket, onWork, hp, hempty, List.isEmpty_nil, if_true]
  · have hne : p.payload.isEmpty = false := by simpa using hfull
    simp only [exec, execCollectivePacket, onWork, hp, hne, Bool.false_eq_true, if_false]
  · have hgo : (!collWorks s.hub || !collSettled s.work k) = false := by rw [hwork, hset]; rfl
    simp only [exec, execCollectiveComplete, onWork, hcur, hres, hgo, Bool.false_eq_true, if_false, if_pos h0]
  · have hgo : (!collWorks s.hub || !collSettled s.work k) = false := by rw [hwork, hset]; rfl
    simp only [exec, execCollectiveComplete, onWork, hcur, hres, hgo, Bool.false_eq_true, if_false, if_neg h0]
  · have hgo : (collWorks s.hub && c.tmoUs != 0) = true := by rw [hwork, bne_iff_ne.mpr htmo]; rfl
    simp only [exec, execCollectiveTimeout, onWork, hcur, hgo, if_true]
  · have hgo : (collWorks s.hub && c.tmoUs != 0) = false := by rw [hwork, htmo]; rfl
    simp only [exec, execCollectiveTimeout, onWork, hcur, hgo, Bool.false_eq_true, if_false]
  · simp only [exec, execCollectiveAbort, onWork, hwork, if_true, takeAbort, hrun]
  · simp only [exec, execCollectiveAbort, onWork, hwork, if_true, takeAbort, hnone, hnot, Work.setColls]
  · simp only [exec, execCollectiveAbort, onWork, hwork, if_true, takeAbort, hnone, hlate, Bool.false_eq_true, if_false]
  · have hexec : exec (.groupControl group epoch seq addr members index) s =
        .next { s with work := writePending s.hub s.work group epoch seq addr members index } := if_pos ⟨hruns, hgroup⟩
    rw [hexec, writePending_eq]

end Sys2Proof.Machine

/-! ### Snapshots (13 R400 to R409) -/

namespace Sys2Proof.Machine

theorem memStep_cleanRange (w : Work) (a n : Nat) : MemStep w (cleanRange w a n) := by
  unfold cleanRange
  dsimp only
  exact .trans ((MemStep.foldl (fun v (l : CacheLine) => memStep_dataToHome v l.line l.data l.bad) _ w).trans
    (.foldl (fun v (x : Victim) => memStep_dataToHome v x.line x.data x.bad) _ _)) ⟨rfl, rfl, rfl, rfl, rfl, rfl, rfl⟩

/-- Entering a phase changes the copier's phase, and the logs. -/
theorem enterCopierPhase_spec (h : Hub) (w : Work) (p : Nat) :
    ∃ l, enterCopierPhase h w p = { w with copier := { w.copier with phase := p }, logs := l } := by
  obtain ⟨l, hl⟩ := trace_spec h (w.setCopier (fun c => { c with phase := p })) 4 (unitOf 8 0) (copierIdent w.copier)
  exact ⟨l, hl⟩

/-- With its end an operation is no longer there. -/
theorem endCopier_run (h : Hub) (w : Work) (status : Code) : (endCopier h w status).copier.run = none := rfl

theorem settleSlot_idle {h : Hub} {w : Work} (hrun : w.copier.run = none) : settleSlot h w = w := by
  simp only [settleSlot, hrun]

theorem commitNext_idle {h : Hub} {w : Work} (hrun : w.copier.run = none) : commitNext h w = w := by
  simp only [commitNext, hrun]

/-- The last part of the commit ends the operation. -/
theorem commitNext_ends {h : Hub} {w : Work} {r : CopierRun} (hrun : w.copier.run = some r) (hslot : slotPending w = false)
    (hfail : r.slotFail = 0) (hsent : r.sent = 2) :
    commitNext h w = endCopier h (w.setCopier (fun c => { c with epoch := r.desc.epoch, protectedSet := [] })) 0 := by
  have hgo : ¬ (slotPending w = true ∨ r.slotFail ≠ 0) := by rw [hslot, hfail]; simp
  have hs0 : ¬ r.sent = 0 := by omega
  have hs1 : ¬ r.sent = 1 := by omega
  simp only [commitNext, hrun, if_neg hgo, if_neg hs0, if_neg hs1]

/-- A store of COPIER_GO that the copier takes, by its operation. -/
theorem exec_copierGo (s : State) (v : Word) (hready : copierReady s.hub = true) :
    (bitsOf v.toNat 0 3 = 1 → exec (.copierSnapshot v) s = .next { s with work := storeCopierGo s.hub s.work v }) ∧
      (bitsOf v.toNat 0 3 = 2 → exec (.copierRestore v) s = .next { s with work := storeCopierGo s.hub s.work v }) ∧
      (bitsOf v.toNat 0 3 = 3 → exec (.copierRefill v) s = .next { s with work := storeCopierGo s.hub s.work v }) ∧
      (bitOf v.toNat 3 = true → exec (.copierAbort v) s = .next { s with work := storeCopierGo s.hub s.work v }) := by
  refine ⟨fun hop => ?_, fun hop => ?_, fun hop => ?_, fun habort => ?_⟩
  · simp only [exec, execCopierSnapshot, onWork, hready, hop, beq_self_eq_true, Bool.and_self, if_true]
  · simp only [exec, execCopierRestore, onWork, hready, hop, beq_self_eq_true, Bool.and_self, if_true]
  · simp only [exec, execCopierRefill, onWork, hready, hop, beq_self_eq_true, Bool.and_self, if_true]
  · simp only [exec, execCopierAbort, onWork, hready, habort, Bool.and_self, if_true]

/-- A GO without ABORT, while the copier works, is refused. -/
theorem storeCopierGo_busy {h : Hub} {w : Work} {v : Word} (habort : bitOf v.toNat 3 = false) (hop1 : 1 ≤ bitsOf v.toNat 0 3)
    (hop3 : bitsOf v.toNat 0 3 ≤ 3) (hphase : w.copier.phase ≠ 0) : storeCopierGo h w v = copierStatus h w 0x0901 := by
  have hop : ¬ (bitsOf v.toNat 0 3 < 1 ∨ 3 < bitsOf v.toNat 0 3) := by omega
  simp only [storeCopierGo, habort, Bool.false_and, Bool.false_eq_true, if_false, if_neg hop, bne_iff_ne.mpr hphase, if_true,
    refuseCopier]

/-- A GO without ABORT, while the copier rests, begins its operation. -/
theorem storeCopierGo_free {h : Hub} {w : Work} {v : Word} (habort : bitOf v.toNat 3 = false) (hphase : w.copier.phase = 0) :
    (bitsOf v.toNat 0 3 = 1 → storeCopierGo h w v = goSnapshot h w) ∧
      (bitsOf v.toNat 0 3 = 2 → storeCopierGo h w v = goRestore h w) ∧
      (bitsOf v.toNat 0 3 = 3 → storeCopierGo h w v = goRefill h w) := by
  have hrest : (w.copier.phase != 0) = false := by rw [hphase]; rfl
  refine ⟨fun hop => ?_, fun hop => ?_, fun hop => ?_⟩ <;>
  · simp only [storeCopierGo, habort, Bool.false_and, Bool.false_eq_true, if_false, hop, hrest]
    rfl

/-- A GO of a snapshot is refused while the copier or a step runs. -/
theorem storeCopierGo_snapshot_busy {h : Hub} {w : Work} {v : Word} (hop : bitsOf v.toNat 0 3 = 1)
    (habort : bitOf v.toNat 3 = false) (hbusy : w.copier.phase ≠ 0 ∨ w.upd.phase ≠ 0) :
    storeCopierGo h w v = copierStatus h w 0x0901 := by
  by_cases hphase : w.copier.phase = 0
  · rw [(storeCopierGo_free habort hphase).1 hop, goSnapshot, if_pos hbusy, refuseCopier]
  · exact storeCopierGo_busy habort (by omega) (by omega) hphase

/-- ABORT of an epoch that runs ends it; an operation asked for in the same store is refused. -/
theorem storeCopierGo_aborts {h : Hub} {w : Work} {v : Word} (habort : bitOf v.toNat 3 = true) (hlow : 1 ≤ w.copier.phase)
    (hhigh : w.copier.phase ≤ 3) :
    (bitsOf v.toNat 0 3 = 0 → storeCopierGo h w v = endEpoch h w 0x0903) ∧
      (1 ≤ bitsOf v.toNat 0 3 → bitsOf v.toNat 0 3 ≤ 3 →
        storeCopierGo h w v = copierStatus h (endEpoch h w 0x0903) 0x0901) := by
  have hbusy : (w.copier.phase != 0) = true := bne_iff_ne.mpr (by omega)
  refine ⟨fun hop => ?_, fun hop1 hop3 => ?_⟩
  · have hno : bitsOf v.toNat 0 3 < 1 ∨ 3 < bitsOf v.toNat 0 3 := by omega
    simp only [storeCopierGo, habort, decide_eq_true hlow, decide_eq_true hhigh, Bool.and_self, if_true, if_pos hno]
  · have hyes : ¬ (bitsOf v.toNat 0 3 < 1 ∨ 3 < bitsOf v.toNat 0 3) := by omega
    simp only [storeCopierGo, habort, decide_eq_true hlow, decide_eq_true hhigh, Bool.and_self, if_true, if_neg hyes, hbusy,
      refuseCopier]

/-- ABORT without an epoch, and with no operation, does nothing. -/
theorem storeCopierGo_idle_abort {h : Hub} {w : Work} {v : Word} (hop : bitsOf v.toNat 0 3 = 0)
    (hphase : w.copier.phase = 0 ∨ 3 < w.copier.phase) : storeCopierGo h w v = w := by
  have hopen : (decide (1 ≤ w.copier.phase) && decide (w.copier.phase ≤ 3)) = false := by
    simp only [Bool.and_eq_false_iff, decide_eq_false_iff_not]
    omega
  have hno : bitsOf v.toNat 0 3 < 1 ∨ 3 < bitsOf v.toNat 0 3 := by omega
  simp only [storeCopierGo, hopen, Bool.and_false, Bool.false_eq_true, if_false, if_pos hno]

/-- The opening of the epoch: the homes hold the pieces of the run. -/
theorem exec_epochOpened {s : State} {r : CopierRun} (hrun : s.work.copier.run = some r) (hphase : s.work.copier.phase = 1)
    (hhomes : homesWork s.hub = true) (hready : s.hub.ident.complexReady = true) (hslot : slotPending s.work = false)
    (hcaptured : (captureEngines s.work r).uncaptured = [])
    (howned : ownershipUnderWay s.work (captureEngines s.work r) = false) :
    ∃ t : State, exec .epochOpened s = .next t ∧ t.hub = s.hub ∧ t.work.copier.phase = 2 ∧
      t.work.copier.protectedSet = r.pieces ∧ t.work.engines = s.work.engines := by
  have hgo : ¬ (s.work.copier.phase ≠ 1 ∨ (!(homesWork s.hub && s.hub.ident.complexReady)) = true) := by
    rw [hphase, hhomes, hready]; simp
  have hopen : ¬ (slotPending s.work = true ∨ (!(captureEngines s.work r).uncaptured.isEmpty) = true ∨
      ownershipUnderWay s.work (captureEngines s.work r) = true) := by
    rw [hslot, hcaptured, howned]; simp
  have hclean := MemStep.foldl (fun w p => memStep_cleanRange w (p * pieceSize) pieceSize)
    (captureEngines s.work r).pieces s.work
  obtain ⟨l, hl⟩ := enterCopierPhase_spec s.hub
    (((captureEngines s.work r).pieces.foldl (fun w p => cleanRange w (p * pieceSize) pieceSize) s.work).setCopier
      (fun c => { c with run := some (captureEngines s.work r), protectedSet := (captureEngines s.work r).pieces })) 2
  refine ⟨{ s with work := enterCopierPhase s.hub (((captureEngines s.work r).pieces.foldl
      (fun w p => cleanRange w (p * pieceSize) pieceSize) s.work).setCopier
      (fun c => { c with run := some (captureEngines s.work r), protectedSet := (captureEngines s.work r).pieces })) 2 },
    ?_, rfl, ?_⟩
  · simp only [exec, execEpochOpened, onWork, hrun, Option.map_some, if_neg hgo, if_neg hopen]
  · dsimp only
    rw [hl]
    exact ⟨rfl, rfl, hclean.engines⟩

/-- A snapshot that passes its checks opens its epoch; each check that fails has its code (R405, R406, R409). -/
theorem goSnapshot_checks {h : Hub} {w : Work} (hphase : w.copier.phase = 0) (hstep : w.upd.phase = 0) :
    (readCopierDesc h w = none → goSnapshot h w = copierStatus h w 0x0902) ∧
      (∀ (b : List Byte) (d : CopierDesc), readCopierDesc h w = some (b, d) →
        (snapshotDescBad h w.copier d = true → goSnapshot h w = copierStatus h w 0x0902) ∧
        (snapshotDescBad h w.copier d = false →
          (∀ (c : Code) (a : Nat), protectedPieces h w = .error (c, a) →
            goSnapshot h w = epochReadError h (openEpoch h w d [] []) c a) ∧
          (∀ (ps : List Nat) (sp : List (Nat × Nat × Nat)), protectedPieces h w = .ok (ps, sp) →
            ((slotCapacity d < ps.length ∨ slotMeets h d ps = true) → goSnapshot h w = copierStatus h w 0x0902) ∧
            (ps.length ≤ slotCapacity d → slotMeets h d ps = false → goSnapshot h w = openEpoch h w d ps sp)))) := by
  have hfree : ¬ (w.copier.phase ≠ 0 ∨ w.upd.phase ≠ 0) := by omega
  refine ⟨fun hnone => ?_, fun b d hdesc => ⟨fun hbad => ?_, fun hgood => ⟨fun c a herr => ?_, fun ps sp hset =>
    ⟨fun hbig => ?_, fun hfits hmeets => ?_⟩⟩⟩⟩
  · simp only [goSnapshot, if_neg hfree, hnone, refuseCopier]
  · simp only [goSnapshot, if_neg hfree, hdesc, hbad, if_true, refuseCopier]
  · simp only [goSnapshot, if_neg hfree, hdesc, hgood, Bool.false_eq_true, if_false, herr]
  · have hrefuse : (decide (slotCapacity d < ps.length) || slotMeets h d ps) = true := by
      rw [Bool.or_eq_true, decide_eq_true_iff]
      exact hbig
    simp only [goSnapshot, if_neg hfree, hdesc, hgood, Bool.false_eq_true, if_false, hset, hrefuse, if_true, refuseCopier]
  · have haccept : (decide (slotCapacity d < ps.length) || slotMeets h d ps) = false := by
      rw [hmeets, Bool.or_false, decide_eq_false_iff_not, Nat.not_lt]
      exact hfits
    simp only [goSnapshot, if_neg hfree, hdesc, hgood, Bool.false_eq_true, if_false, hset, haccept]

/-- A write held on a protected piece sets the piece aside, meets its fault, or finds no slot (R407). -/
theorem exec_firstTouch {s : State} {r : CopierRun} {piece : Nat} (hrun : s.work.copier.run = some r)
    (hphase : s.work.copier.phase = 2) (hprot : s.work.copier.protectedSet.contains piece = true)
    (hheld : heldTouch s.hub s.work piece = true) (hnot : isStaged r piece = false) :
    (∀ i : Nat, freeSlot r = some i → pieceFault s.hub s.work piece = none →
      exec (.firstTouch piece) s = .next { s with work := stagePiece s.work r piece i }) ∧
    (∀ (i a : Nat) (c : Code), freeSlot r = some i → pieceFault s.hub s.work piece = some (c, a) →
      exec (.firstTouch piece) s = .next { s with work := epochReadError s.hub s.work c a }) ∧
    (freeSlot r = none → exec (.firstTouch piece) s = .next { s with work := noSlot s.hub s.work r piece }) := by
  have hgo : ¬ (s.work.copier.phase ≠ 2 ∨ (!s.work.copier.protectedSet.contains piece) = true ∨
      (!heldTouch s.hub s.work piece) = true ∨ isStaged r piece = true) := by
    rw [hphase, hprot, hheld, hnot]; simp
  refine ⟨fun i hslot hfault => ?_, fun i a c hslot hfault => ?_, fun hslot => ?_⟩
  · simp only [exec, execFirstTouch, onWork, hrun, if_neg hgo, hslot, hfault]
  · simp only [exec, execFirstTouch, onWork, hrun, if_neg hgo, hslot, hfault]
  · simp only [exec, execFirstTouch, onWork, hrun, if_neg hgo, hslot]

theorem isStaged_of_head {r : CopierRun} {piece : Nat} (hhead : r.staged.head?.map (fun x => x.1) = some piece) :
    isStaged r piece = true := by
  obtain ⟨x, hx, hp⟩ := Option.map_eq_some_iff.mp hhead
  exact List.any_eq_true.mpr ⟨x, List.mem_of_mem_head? hx, by rw [hp]; exact beq_self_eq_true piece⟩

/-- A copied piece was set aside, is the oldest staged one, or is the next in order (R407). -/
theorem pieceDone_cases {h : Hub} {w : Work} {r : CopierRun} {piece : Nat} :
    (w.copier.protectedSet.contains piece = true → isStaged r piece = true →
      pieceDone h w r piece = releaseAll h (unprotect h w piece)) ∧
    (w.copier.protectedSet.contains piece = false → r.staged.head?.map (fun x => x.1) = some piece →
      pieceDone h w r piece = settleSlot h (drainOldest h w)) ∧
    (isStaged r piece = false → r.todo.head? = some piece →
      (pieceFault h w piece = none →
        pieceDone h w r piece =
          settleSlot h
            (releaseAll h
              (unprotect h ((sendPiece h w r piece (piece * pieceSize)).setRun (fun x => { x with todo := x.todo.drop 1 }))
                piece))) ∧
      (∀ (c : Code) (a : Nat), pieceFault h w piece = some (c, a) → pieceDone h w r piece = epochReadError h w c a)) := by
  refine ⟨fun hprot hst => ?_, fun hprot hhead => ?_, fun hnot hhead => ?_⟩
  · have hset : (isStaged r piece && w.copier.protectedSet.contains piece) = true := by rw [hst, hprot]; rfl
    rw [pieceDone, if_pos hset]
  · have hset : ¬ (isStaged r piece && w.copier.protectedSet.contains piece) = true := by
      rw [hprot, Bool.and_false]
      exact Bool.false_ne_true
    rw [pieceDone, if_neg hset, if_pos hhead]
  · have hother : ¬ r.staged.head?.map (fun x => x.1) = some piece := fun hst => by
      rw [isStaged_of_head hst] at hnot
      exact Bool.noConfusion hnot
    refine ⟨fun hfault => ?_, fun c a hfault => ?_⟩
    · simp only [pieceDone, hnot, Bool.false_and, Bool.false_eq_true, if_false, if_neg hother, if_pos hhead, hfault]
    · simp only [pieceDone, hnot, Bool.false_and, Bool.false_eq_true, if_false, if_neg hother, if_pos hhead, hfault]

/-- The commit of a run with nothing left to send (R406 steps 6 and 7). -/
theorem exec_epochCommit {s : State} {r : CopierRun} (hrun : s.work.copier.run = some r) (htodo : r.todo = [])
    (hstaged : r.staged = []) :
    (s.work.copier.phase = 2 →
      exec .epochCommit s =
        .next { s with
          work := settleSlot s.hub
            (commitNext s.hub (commitNext s.hub (commitNext s.hub (enterCopierPhase s.hub s.work 3)))) }) ∧
      (s.work.copier.phase = 3 →
        exec .epochCommit s =
          .next { s with
            work := settleSlot s.hub (commitNext s.hub (commitNext s.hub (commitNext s.hub s.work))) }) := by
  refine ⟨fun hphase => ?_, fun hphase => ?_⟩
  · have hgo : (s.work.copier.phase = 2 ∨ s.work.copier.phase = 3) ∧ r.todo = [] ∧ r.staged = [] :=
      ⟨.inl hphase, htodo, hstaged⟩
    simp only [exec, execEpochCommit, onWork, hrun, if_pos hgo, if_pos hphase]
  · have hgo : (s.work.copier.phase = 2 ∨ s.work.copier.phase = 3) ∧ r.todo = [] ∧ r.staged = [] :=
      ⟨.inr hphase, htodo, hstaged⟩
    have h3 : ¬ s.work.copier.phase = 2 := by omega
    simp only [exec, execEpochCommit, onWork, hrun, if_pos hgo, if_neg h3]

/-- Settles O40: a GO and an abort are one store (`storeCopierGo`), and the other commands look at the run and the phase. -/
theorem snapshotRunsAsAnEpoch : Obligations.SnapshotRunsAsAnEpoch := by
  intro s
  refine ⟨fun v hready hop habort => ⟨fun hbusy => ?_, fun hphase hstep => ?_⟩, fun r hrun => ⟨?_, fun piece hphase => ?_,
    fun htodo hstaged => ?_, fun v hready habort hlow hhigh => ?_⟩, fun v hready habort hop hphase => ?_⟩
  · rw [(exec_copierGo s v hready).1 hop, storeCopierGo_snapshot_busy hop habort hbusy]
  · rw [(exec_copierGo s v hready).1 hop, (storeCopierGo_free habort hphase).1 hop]
    obtain ⟨hnone, hdesc⟩ := goSnapshot_checks (h := s.hub) hphase hstep
    refine ⟨fun hn => by rw [hnone hn], fun b d hd => ⟨fun hbad => by rw [(hdesc b d hd).1 hbad], fun hgood => ?_⟩⟩
    obtain ⟨herr, hset⟩ := (hdesc b d hd).2 hgood
    exact ⟨fun c a he => by rw [herr c a he], fun ps sp hps => ⟨fun hbig => by rw [(hset ps sp hps).1 hbig],
      fun hfits hmeets => by rw [(hset ps sp hps).2 hfits hmeets]⟩⟩
  · exact fun hphase hhomes hready hslot hcaptured howned =>
      exec_epochOpened hrun hphase hhomes hready hslot hcaptured howned
  · have hcopied : exec (.pieceCopied piece) s = .next { s with work := pieceDone s.hub s.work r piece } := by
      simp only [exec, execPieceCopied, onWork, hrun, if_pos hphase]
    rw [hcopied]
    obtain ⟨haside, hdrained, hnext⟩ := pieceDone_cases (h := s.hub) (w := s.work) (r := r) (piece := piece)
    refine ⟨fun hprot => ⟨fun hheld hnot => exec_firstTouch hrun hphase hprot hheld hnot,
      fun hst => by rw [haside hprot hst]⟩, fun hprot hhead => by rw [hdrained hprot hhead], fun hnot hhead =>
      ⟨fun hfault => by rw [(hnext hnot hhead).1 hfault], fun c a hfault => by rw [(hnext hnot hhead).2 c a hfault]⟩⟩
  · obtain ⟨hfirst, hlater⟩ := exec_epochCommit hrun htodo hstaged
    refine ⟨hfirst, hlater, fun hphase hsent hfail hslot => ?_⟩
    have hend := endCopier_run s.hub (s.work.setCopier (fun c => { c with epoch := r.desc.epoch, protectedSet := [] })) 0
    rw [hlater hphase, commitNext_ends hrun hslot hfail hsent, commitNext_idle hend, commitNext_idle hend,
      settleSlot_idle hend]
  · have hexec := (exec_copierGo s v hready).2.2.2 habort
    obtain ⟨hplain, hasked⟩ := storeCopierGo_aborts (h := s.hub) habort hlow hhigh
    exact ⟨fun hop => by rw [hexec, hplain hop], fun hop1 hop3 => by rw [hexec, hasked hop1 hop3]⟩
  · rw [(exec_copierGo s v hready).2.2.2 habort, storeCopierGo_idle_abort hop hphase]

end Sys2Proof.Machine

/-! ### Restore, refill and the loss ledger (13 R411 to R420) -/

namespace Sys2Proof.Machine

/-- The status of an outcome changes the copier's last status, and the logs. -/
theorem copierStatus_spec (h : Hub) (w : Work) (status : Code) :
    ∃ l, copierStatus h w status = { w with copier := { w.copier with lastStatus := status }, logs := l } := by
  obtain ⟨l, hl⟩ := emit_spec h (w.setCopier (fun c => { c with lastStatus := status })) ⟨9, status, 53, unitOf 8 0, 0, []⟩
  exact ⟨l, hl⟩

theorem repeatWork_of_fixed {f : Work → Work} {w : Work} (hfix : f w = w) (n : Nat) : repeatWork f n w = w := by
  induction n with
  | zero => rfl
  | succ n ih => rw [repeatWork, hfix, ih]

/-- A course that comes to rest after one round. -/
theorem repeatWork_once {f : Work → Work} {w v : Work} {n : Nat} (hn : 1 ≤ n) (hstep : f w = v) (hfix : f v = v) :
    repeatWork f n w = v := by
  obtain ⟨m, rfl⟩ := Nat.exists_eq_add_of_le' hn
  rw [repeatWork, hstep, repeatWork_of_fixed hfix]

/-- A course that comes to rest after two rounds. -/
theorem repeatWork_twice {f : Work → Work} {w u v : Work} {n : Nat} (hn : 2 ≤ n) (hfirst : f w = u) (hsecond : f u = v)
    (hfix : f v = v) : repeatWork f n w = v := by
  obtain ⟨m, rfl⟩ := Nat.exists_eq_add_of_le' hn
  rw [repeatWork, hfirst, repeatWork_once (Nat.le_add_left 1 m) hsecond hfix]

theorem restoreNext_idle {h : Hub} {w : Work} (hrun : w.copier.run = none) : restoreNext h w = w := by
  simp only [restoreNext, hrun]

theorem refillNext_idle {h : Hub} {w : Work} (hrun : w.copier.run = none) : refillNext h w = w := by
  simp only [refillNext, hrun]

/-- A restore whose piece is there goes on with it. -/
theorem restoreNext_piece {h : Hub} {w : Work} {r : CopierRun} (hrun : w.copier.run = some r) (hmissing : r.missing = [])
    (hstage : r.stage = 2) : restoreNext h w = restorePiece h w r := by
  have h0 : ¬ r.stage = 0 := by omega
  have h1 : ¬ r.stage = 1 := by omega
  simp only [restoreNext, hrun, hmissing, List.isEmpty_nil, Bool.not_true, Bool.false_eq_true, if_false, if_neg h0, if_neg h1]

theorem restorePiece_last {h : Hub} {w : Work} {r : CopierRun} (hwork : r.work = []) :
    restorePiece h w r = finishRestore h w r := by
  simp only [restorePiece, hwork]

theorem restorePiece_bad {h : Hub} {w : Work} {r : CopierRun} {k a : Nat} {rest : List (Nat × Nat)}
    (hwork : r.work = (k, a) :: rest) (hfailed : r.failed = [])
    (hbad : crc32 (memRead r.buffer 0 pieceSize) ≠ (r.crcs.getD k (0, 0)).2 ∨ inLpddr h a pieceSize = false) :
    restorePiece h w r = stopCopier h w 0x0907 0 (0x0907, slotBase r + 0xA00000 + k * pieceSize) := by
  have hrefuse : (crc32 (memRead r.buffer 0 pieceSize) != (r.crcs.getD k (0, 0)).2 || !inLpddr h a pieceSize) = true := by
    rw [Bool.or_eq_true, bne_iff_ne, Bool.not_eq_true']
    exact hbad
  simp only [restorePiece, hwork, hfailed, List.isEmpty_nil, Bool.not_true, Bool.false_and, Bool.false_eq_true, if_false,
    if_pos hrefuse]

theorem restorePiece_writes {h : Hub} {w : Work} {r : CopierRun} {k a : Nat} {rest : List (Nat × Nat)}
    (hwork : r.work = (k, a) :: rest) (hfailed : r.failed = [])
    (hcrc : crc32 (memRead r.buffer 0 pieceSize) = (r.crcs.getD k (0, 0)).2) (hplace : inLpddr h a pieceSize = true) :
    restorePiece h w r =
      nextPiece h ((putPiece w a (memRead r.buffer 0 pieceSize)).setCopier (fun c =>
        { c with run := some { clearReads r with work := rest }, done := c.done + 1 })) { clearReads r with work := rest } := by
  have haccept : ¬ (crc32 (memRead r.buffer 0 pieceSize) != (r.crcs.getD k (0, 0)).2 || !inLpddr h a pieceSize) = true := by
    rw [hcrc, hplace]; simp
  simp only [restorePiece, hwork, hfailed, List.isEmpty_nil, Bool.not_true, Bool.false_and, Bool.false_eq_true, if_false,
    if_neg haccept]

theorem exec_restoreComplete {s : State} {r : CopierRun} (hrun : s.work.copier.run = some r) (hphase : s.work.copier.phase = 4) :
    exec .restoreComplete s =
      .next { s with
        work := repeatWork (restoreNext s.hub) (s.work.copier.total + r.pieces.length + 393220) s.work } := by
  simp only [exec, execRestoreComplete, onWork, hrun, if_pos hphase]

theorem exec_refillComplete {s : State} {r : CopierRun} (hrun : s.work.copier.run = some r) (hphase : s.work.copier.phase = 5) :
    exec .refillComplete s =
      .next { s with
        work := repeatWork (refillNext s.hub) (2 * r.work.length + 3 * r.regions.length + 1) s.work } := by
  simp only [exec, execRefillComplete, onWork, hrun, if_pos hphase]

/-- Without work left a refill ends. -/
theorem nextSource_ends {h : Hub} {w : Work} {r : CopierRun} (hrun : w.copier.run = some r) (hwork : r.work = []) :
    nextSource h w = endCopier h w 0 := by
  simp only [nextSource, hrun, hwork]

theorem nextSource_exhausted {h : Hub} {w : Work} {r : CopierRun} {a ix : Nat} {rest : List (Nat × Nat)}
    (hrun : w.copier.run = some r) (hwork : r.work = (a, ix) :: rest)
    (hnone : (r.regions.getD ix ⟨0, 0, []⟩).sources.filter (fun m => !r.failedSources.contains m) = []) :
    nextSource h w = stopCopier h w 0x0908 ix (w.copier.errCode, w.copier.errAddr.toNat) := by
  simp only [nextSource, hrun, hwork, hnone, List.head?_nil]

theorem refillNext_work {h : Hub} {w : Work} {r : CopierRun} (hrun : w.copier.run = some r) (hmissing : r.missing = []) :
    (r.work = [] → refillNext h w = endCopier h w 0) ∧
      (∀ (a ix : Nat) (rest : List (Nat × Nat)), r.work = (a, ix) :: rest →
        (r.stage = 0 → refillNext h w = nextSource h w) ∧
          (r.stage ≠ 0 → refillNext h w = refillPiece h w r a ix rest)) := by
  refine ⟨fun hwork => ?_, fun a ix rest hwork => ⟨fun hstage => ?_, fun hstage => ?_⟩⟩
  · simp only [refillNext, hrun, hmissing, List.isEmpty_nil, Bool.not_true, Bool.false_eq_true, if_false, hwork]
  · simp only [refillNext, hrun, hmissing, List.isEmpty_nil, Bool.not_true, Bool.false_eq_true, if_false, hwork, if_pos hstage]
  · simp only [refillNext, hrun, hmissing, List.isEmpty_nil, Bool.not_true, Bool.false_eq_true, if_false, hwork, if_neg hstage]

theorem refillPiece_writes {h : Hub} {w : Work} {r : CopierRun} {a ix p : Nat} {rest : List (Nat × Nat)}
    (hfailed : r.failed = []) (halign : a % pieceSize = 0) (hplace : moduleAddr h w true a = .ok p) :
    refillPiece h w r a ix rest =
      nextSource h (((putPiece w p (memRead r.buffer 0 pieceSize)).setRun (fun y => { y with work := rest })).setCopier
        (fun c => { c with done := c.done + 1 })) := by
  simp only [refillPiece, hfailed, if_pos halign, hplace]

/-- A restore or a refill is refused while anything else runs. -/
theorem goRestore_goRefill_busy {h : Hub} {w : Work} (hbusy : copierBusy w = true) :
    goRestore h w = copierStatus h w 0x0901 ∧ goRefill h w = copierStatus h w 0x0901 := by
  constructor
  · rw [goRestore, if_pos hbusy, refuseCopier]
  · rw [goRefill, if_pos hbusy, refuseCopier]

/-- A GO of a restore or refill begins it, or is refused where the copier works. -/
theorem exec_copierRestore_copierRefill {s : State} {v : Word} (hready : copierReady s.hub = true)
    (habort : bitOf v.toNat 3 = false) :
    (bitsOf v.toNat 0 3 = 2 → exec (.copierRestore v) s = .next { s with work := goRestore s.hub s.work }) ∧
      (bitsOf v.toNat 0 3 = 3 → exec (.copierRefill v) s = .next { s with work := goRefill s.hub s.work }) := by
  obtain ⟨_, hrestore, hrefill, _⟩ := exec_copierGo s v hready
  by_cases hphase : s.work.copier.phase = 0
  · obtain ⟨_, hgoRestore, hgoRefill⟩ := storeCopierGo_free (h := s.hub) habort hphase
    exact ⟨fun hop => by rw [hrestore hop, hgoRestore hop], fun hop => by rw [hrefill hop, hgoRefill hop]⟩
  · have hbusy : copierBusy s.work = true := by rw [copierBusy, bne_iff_ne.mpr hphase]; rfl
    obtain ⟨hgoRestore, hgoRefill⟩ := goRestore_goRefill_busy (h := s.hub) hbusy
    exact ⟨fun hop => by rw [hrestore hop, hgoRestore, storeCopierGo_busy habort (by omega) (by omega) hphase],
      fun hop => by rw [hrefill hop, hgoRefill, storeCopierGo_busy habort (by omega) (by omega) hphase]⟩

/-- The comparison of a loss with its entry, by what can be read. -/
theorem exec_verifyGo {s : State} {v : Word} (hready : copierReady s.hub = true) (hgo : bitOf v.toNat 0 = true) :
    exec (.verifyGo v) s = .next { s with work := verifyNow s.hub s.work } := by
  simp only [exec, execVerifyGo, onWork, hready, hgo, Bool.and_self, if_true]

/-! #### Alarms (17 R516, R517) -/

theorem memStep_stamp (h : Hub) (w : Work) (flags : Nat) (r : LogSource) : MemStep w (stamp h w flags r).1 :=
  .of_logs ⟨_, rfl⟩

theorem memStep_putRing (h : Hub) (w : Work) (cls : Nat) (r : LogRec) : MemStep w (putRing h w cls r) := by
  unfold putRing
  split
  · exact .refl w
  · exact (memStep_physWrite _ _ _ _).trans (.of_logs ⟨_, rfl⟩)

theorem memStep_putSummary (h : Hub) (w : Work) (cls : Nat) : MemStep w (putSummary h w cls) := by
  unfold putSummary
  exact .ite (((memStep_stamp h w 2 _).trans (memStep_putRing h (summaryRecord h w cls).1 cls (summaryRecord h w cls).2)).trans
    (.of_logs ⟨_, rfl⟩)) (.refl w)

theorem memStep_putAlarm (h : Hub) (w : Work) (r : LogRec) : MemStep w (putAlarm h w r) := by
  unfold putAlarm
  exact .ite ((memStep_putSummary h w 0).trans (memStep_putRing _ _ _ _))
    ((memStep_putSummary h w 0).trans (.of_logs ⟨_, rfl⟩))

/-- The packets of an alarm change the fabric, and the count of the alarm window. -/
theorem sendAlarmTo_spec (h : Hub) (w : Work) (r : LogRec) (dests : List Nat) :
    ∃ f l, sendAlarmTo h w r dests = { w with fabric := f, logs := l } := by
  have hsent : ∀ (ds : List Nat) (v : Work),
      ∃ f, ds.foldl (fun w d => (sendControl h w d (recordBytes r 0) .alarm).1) v = { v with fabric := f } := by
    intro ds
    induction ds with
    | nil => exact fun v => ⟨v.fabric, rfl⟩
    | cons d ds ih =>
      intro v
      obtain ⟨f, hf, _⟩ := sendRequest_spec h v 0xFFFF d 0 0x20 0 (recordBytes r 0).length (recordBytes r 0) .alarm
      obtain ⟨g, hg⟩ := ih (sendControl h v d (recordBytes r 0) .alarm).1
      refine ⟨g, ?_⟩
      rw [List.foldl_cons, hg, sendControl, hf]
  obtain ⟨f, hf⟩ := hsent dests w
  rw [sendAlarmTo, hf]
  exact ⟨f, _, rfl⟩

theorem exists_queueAlarm_eq (h : Hub) (w : Work) (r : LogRec) (dests : List Nat) :
    ∃ f l, queueAlarm h w r dests = { w with fabric := f, logs := l } := by
  unfold queueAlarm
  split_ifs
  · exact ⟨w.fabric, w.logs, rfl⟩
  · exact sendAlarmTo_spec h w r dests
  · exact ⟨w.fabric, _, rfl⟩
  · exact ⟨w.fabric, _, rfl⟩
  · exact ⟨w.fabric, _, rfl⟩

/-- An alarm changes neither the copier nor an engine. -/
theorem keeps_of_raiseAlarm (h : Hub) (w : Work) (code : Code) (domain : Nat) (unit : BitVec 16) (detail : List Byte)
    (named : List Nat) :
    (raiseAlarm h w code domain unit detail named).copier = w.copier ∧
      (raiseAlarm h w code domain unit detail named).engines = w.engines := by
  have hput : MemStep w (putAlarm h
      ((stamp h w 0 ⟨0, code, domain, unit, 0, detail⟩).1.setLogs
        (fun l => place l (stamp h w 0 ⟨0, code, domain, unit, 0, detail⟩).2))
      (stamp h w 0 ⟨0, code, domain, unit, 0, detail⟩).2) :=
    ((memStep_stamp h w 0 _).trans (.of_logs ⟨_, rfl⟩)).trans (memStep_putAlarm _ _ _)
  obtain ⟨f, l, hq⟩ := exists_queueAlarm_eq h _ (stamp h w 0 ⟨0, code, domain, unit, 0, detail⟩).2 (alarmDests h w named)
  exact ⟨(congrArg Work.copier hq).trans hput.copier, (congrArg Work.engines hq).trans hput.engines⟩

theorem stopCopier_run (h : Hub) (w : Work) (status : Code) (entry : Nat) (err : Code × Nat) :
    (stopCopier h w status entry err).copier.run = none := by
  rw [stopCopier, endCopier_run]

theorem finishRestore_run (h : Hub) (w : Work) (r : CopierRun) : (finishRestore h w r).copier.run = none := by
  unfold finishRestore
  dsimp only
  rw [endCopier_run]

@[simp] theorem putPiece_copier (w : Work) (a : Nat) (bs : List Byte) : (putPiece w a bs).copier = w.copier := rfl

section
variable {s : State} {r : CopierRun} (hrun : s.work.copier.run = some r) (hmissing : r.missing = [])
include hrun hmissing

/-- A restore with no piece left finishes. -/
theorem exec_restoreComplete_finishes (hphase : s.work.copier.phase = 4) (hstage : r.stage = 2) (hwork : r.work = []) :
    exec .restoreComplete s = .next { s with work := finishRestore s.hub s.work r } := by
  have hstep := (restoreNext_piece (h := s.hub) hrun hmissing hstage).trans (restorePiece_last hwork)
  rw [exec_restoreComplete hrun hphase, repeatWork_once (Nat.le_add_left 1 _) hstep
    (restoreNext_idle (finishRestore_run s.hub s.work r))]

/-- A piece whose CRC or place is wrong stops the restore. -/
theorem exec_restoreComplete_stops (hphase : s.work.copier.phase = 4) (hstage : r.stage = 2) {k a : Nat}
    {rest : List (Nat × Nat)} (hwork : r.work = (k, a) :: rest) (hfailed : r.failed = [])
    (hbad : crc32 (memRead r.buffer 0 pieceSize) ≠ (r.crcs.getD k (0, 0)).2 ∨ inLpddr s.hub a pieceSize = false) :
    exec .restoreComplete s =
      .next { s with work := stopCopier s.hub s.work 0x0907 0 (0x0907, slotBase r + 0xA00000 + k * pieceSize) } := by
  have hstep := (restoreNext_piece (h := s.hub) hrun hmissing hstage).trans (restorePiece_bad hwork hfailed hbad)
  rw [exec_restoreComplete hrun hphase, repeatWork_once (Nat.le_add_left 1 _) hstep
    (restoreNext_idle (stopCopier_run s.hub s.work _ _ _))]

/-- The last piece of a restore is written, and the restore finishes. -/
theorem exec_restoreComplete_last (hphase : s.work.copier.phase = 4) (hstage : r.stage = 2) {k a : Nat} {r1 : CopierRun}
    (hwork : r.work = [(k, a)]) (hfailed : r.failed = [])
    (hcrc : crc32 (memRead r.buffer 0 pieceSize) = (r.crcs.getD k (0, 0)).2) (hplace : inLpddr s.hub a pieceSize = true)
    (hr1 : r1 = { clearReads r with work := [] }) :
    exec .restoreComplete s =
      .next { s with
        work := finishRestore s.hub
          ((putPiece s.work a (memRead r.buffer 0 pieceSize)).setCopier (fun c =>
            { c with run := some r1, done := c.done + 1 })) r1 } := by
  have hfirst := (restoreNext_piece (h := s.hub) hrun hmissing hstage).trans (restorePiece_writes hwork hfailed hcrc hplace)
  rw [← hr1] at hfirst
  have hwork1 : r1.work = [] := by rw [hr1]
  have hmissing1 : r1.missing = [] := by rw [hr1, clearReads]
  have hstage1 : r1.stage = 2 := by rw [hr1, clearReads]; exact hstage
  rw [nextPiece, hwork1] at hfirst
  generalize hw1 : (putPiece s.work a (memRead r.buffer 0 pieceSize)).setCopier (fun c =>
    { c with run := some r1, done := c.done + 1 }) = w1 at hfirst ⊢
  have hrun1 : w1.copier.run = some r1 := by rw [← hw1]; rfl
  have hsecond := (restoreNext_piece (h := s.hub) hrun1 hmissing1 hstage1).trans (restorePiece_last hwork1)
  rw [exec_restoreComplete hrun hphase, repeatWork_twice (Nat.le_add_left 2 _) hfirst hsecond
    (restoreNext_idle (finishRestore_run s.hub w1 r1))]

/-- A refill with no piece left ends with 0. -/
theorem exec_refillComplete_ends (hphase : s.work.copier.phase = 5) (hwork : r.work = []) :
    exec .refillComplete s = .next { s with work := endCopier s.hub s.work 0 } := by
  have hstep := (refillNext_work (h := s.hub) hrun hmissing).1 hwork
  rw [exec_refillComplete hrun hphase, repeatWork_once (Nat.le_add_left 1 _) hstep
    (refillNext_idle (endCopier_run s.hub s.work 0))]

/-- A refill whose every source has failed stops. -/
theorem exec_refillComplete_exhausted (hphase : s.work.copier.phase = 5) {a ix : Nat} {rest : List (Nat × Nat)}
    (hwork : r.work = (a, ix) :: rest) (hstage : r.stage = 0)
    (hnone : (r.regions.getD ix ⟨0, 0, []⟩).sources.filter (fun m => !r.failedSources.contains m) = []) :
    exec .refillComplete s =
      .next { s with
        work := stopCopier s.hub s.work 0x0908 ix (s.work.copier.errCode, s.work.copier.errAddr.toNat) } := by
  have hstep := (((refillNext_work (h := s.hub) hrun hmissing).2 a ix rest hwork).1 hstage).trans
    (nextSource_exhausted hrun hwork hnone)
  rw [exec_refillComplete hrun hphase, repeatWork_once (Nat.le_add_left 1 _) hstep
    (refillNext_idle (stopCopier_run s.hub s.work _ _ _))]

/-- A refill whose last piece is written ends with 0. -/
theorem exec_refillComplete_last (hphase : s.work.copier.phase = 5) {a ix p : Nat} (hwork : r.work = [(a, ix)])
    (hstage : r.stage ≠ 0) (hfailed : r.failed = []) (halign : a % pieceSize = 0)
    (hplace : moduleAddr s.hub s.work true a = .ok p) :
    exec .refillComplete s =
      .next { s with
        work := endCopier s.hub
          (((putPiece s.work p (memRead r.buffer 0 pieceSize)).setRun (fun y => { y with work := [] })).setCopier
            (fun c => { c with done := c.done + 1 })) 0 } := by
  have hwrite := (((refillNext_work (h := s.hub) hrun hmissing).2 a ix [] hwork).2 hstage).trans
    (refillPiece_writes hfailed halign hplace)
  have hkept : (putPiece s.work p (memRead r.buffer 0 pieceSize)).copier.run = some r := by rw [putPiece_copier, hrun]
  generalize putPiece s.work p (memRead r.buffer 0 pieceSize) = w1 at hwrite hkept ⊢
  have hleft : ((w1.setRun (fun y => { y with work := [] })).setCopier (fun c => { c with done := c.done + 1 })).copier.run =
      some { r with work := [] } := by
    change w1.copier.run.map (fun y => { y with work := [] }) = _
    rw [hkept, Option.map_some]
  rw [exec_refillComplete hrun hphase, repeatWork_once (Nat.le_add_left 1 _) (hwrite.trans (nextSource_ends hleft rfl))
    (refillNext_idle (endCopier_run s.hub _ 0))]

end

section
variable {s : State} {v : Word} {en : Word × BitVec 48} (hready : copierReady s.hub = true)
  (hen : s.work.copier.ledger.getD (s.work.copier.verifyStep.toNat % 64) (BitVec.allOnes 64, 0) = en)
  (hgo : bitOf v.toNat 0 = true)
include hready hen hgo

/-- A comparison without an entry. -/
theorem exec_verifyGo_none (hnone : en.1 ≠ s.work.copier.verifyStep ∨ s.work.copier.verifyStep = BitVec.allOnes 64) :
    exec (.verifyGo v) s =
      .next { s with work := copierStatus s.hub (s.work.setCopier (fun c => { c with verifyResult := 3 })) 0x090A } := by
  rw [exec_verifyGo hready hgo]
  simp only [verifyNow, hen, if_pos hnone]

variable (hstep : en.1 = s.work.copier.verifyStep) (hset : s.work.copier.verifyStep ≠ BitVec.allOnes 64)
include hstep hset

/-- A comparison with an entry reads the loss. -/
theorem exec_verifyGo_reads :
    (∀ (c : Code) (a : Nat), verifyLoss s.hub s.work = .error (c, a) →
      exec (.verifyGo v) s =
        .next { s with
          work := copierStatus s.hub
            ((setCopierErr s.work c 0 (atlasOf a)).setCopier (fun x => { x with verifyResult := 0 })) c }) ∧
    (∀ loss : Nat, verifyLoss s.hub s.work = .ok loss →
      (loss = en.2.toNat →
        exec (.verifyGo v) s =
          .next { s with work := copierStatus s.hub (s.work.setCopier (fun c => { c with verifyResult := 1 })) 0 }) ∧
      (loss ≠ en.2.toNat →
        exec (.verifyGo v) s =
          .next { s with
            work := raiseAlarm s.hub
              (copierStatus s.hub
                ((s.work.setCopier (fun c => { c with verifyFail := true })).setCopier
                  (fun x => { x with verifyResult := 2 })) 0x0909)
              0x0909 53 (unitOf 8 0) [] (replicaMasters s.hub s.work) })) := by
  have hentry : ¬ (en.1 ≠ s.work.copier.verifyStep ∨ s.work.copier.verifyStep = BitVec.allOnes 64) := by
    rintro (hne | heq)
    · exact hne hstep
    · exact hset heq
  rw [exec_verifyGo hready hgo]
  refine ⟨fun c a hloss => ?_, fun loss hloss => ⟨fun heq => ?_, fun hne => ?_⟩⟩
  · simp only [verifyNow, hen, if_neg hentry, hloss]
  · simp only [verifyNow, hen, if_neg hentry, hloss, if_pos heq]
  · simp only [verifyNow, hen, if_neg hentry, hloss, if_neg hne]

end

/-- The alarm of a comparison that fails leaves its result as it is. -/
theorem verifyFailed_copier (h : Hub) (w : Work) :
    ∃ t : Work, t = raiseAlarm h
        (copierStatus h
          ((w.setCopier (fun c => { c with verifyFail := true })).setCopier (fun x => { x with verifyResult := 2 })) 0x0909)
        0x0909 53 (unitOf 8 0) [] (replicaMasters h w) ∧
      t.copier.verifyResult = 2 ∧ t.copier.verifyFail = true ∧ t.copier.lastStatus = 0x0909 := by
  refine ⟨_, rfl, ?_⟩
  rw [(keeps_of_raiseAlarm h _ _ _ _ _ _).1]
  obtain ⟨l, hl⟩ := copierStatus_spec h
    ((w.setCopier (fun c => { c with verifyFail := true })).setCopier (fun x => { x with verifyResult := 2 })) 0x0909
  rw [hl]
  exact ⟨rfl, rfl, rfl⟩

/-- Settles O41: a course of the copier is its rounds (`repeatWork`), and each clause is a course of one or two. -/
theorem restoreRefillAndLedgerRun : Obligations.RestoreRefillAndLedgerRun := by
  refine ⟨fun s v hready => ⟨fun hop habort => (exec_copierRestore_copierRefill hready habort).1 hop,
    fun hop habort => (exec_copierRestore_copierRefill hready habort).2 hop, goRestore_goRefill_busy,
    fun r hrun hmissing => ⟨fun hphase hstage => ⟨fun hwork =>
      exec_restoreComplete_finishes hrun hmissing hphase hstage hwork,
      fun k a rest hwork hfailed hbad => exec_restoreComplete_stops hrun hmissing hphase hstage hwork hfailed hbad,
      fun k a r1 hwork hfailed hcrc hplace hr1 =>
        exec_restoreComplete_last hrun hmissing hphase hstage hwork hfailed hcrc hplace hr1⟩,
      fun hphase => ⟨fun hwork => exec_refillComplete_ends hrun hmissing hphase hwork,
        fun a ix rest hwork hstage hnone => exec_refillComplete_exhausted hrun hmissing hphase hwork hstage hnone,
        fun a ix p hwork hstage hfailed halign hplace =>
          exec_refillComplete_last hrun hmissing hphase hwork hstage hfailed halign hplace⟩⟩⟩,
    fun s v en hready hen => ⟨?_, fun hbit => ?_, fun hgo hnone => exec_verifyGo_none hready hen hgo hnone,
      fun c a hgo hstep hset => (exec_verifyGo_reads hready hen hgo hstep hset).1 c a,
      fun loss hgo hstep hset hloss => ⟨((exec_verifyGo_reads hready hen hgo hstep hset).2 loss hloss).1, fun hne => ?_⟩⟩⟩
  · simp only [exec, execLedgerLoss, onWork, hready, if_true]
  · simp only [exec, execVerifyFailClear, onWork, hready, hbit, Bool.and_self, if_true]
  · obtain ⟨t, ht, hresult, hfail, hstatus⟩ := verifyFailed_copier s.hub s.work
    refine ⟨{ s with work := t }, ?_, rfl, hresult, hfail, hstatus⟩
    rw [((exec_verifyGo_reads hready hen hgo hstep hset).2 loss hloss).2 hne, ht]

end Sys2Proof.Machine

/-! ### How a served mailbox command ends (14 R443 to R446) -/

namespace Sys2Proof.Machine

section
variable {c : Instr} {k op owner : Nat} {priv : Bool} {fields : List (Nat × Nat)}
  {run : Hub → Work → Nat → List Byte → MbResult} {after : List Byte → Hub → Work → Hub × Work} {s : State} {d : Desc} {h : Hub}
  {w : Work} {code : Code} {result : List Byte}

/-- A served command whose run ends it, and that nothing follows, completes with the code and the result of its run. -/
theorem serveCommandThen_completes (hrow : mailboxRow c = some (k, op, owner, priv, fields)) (hserves : Serves s c d)
    (hrun : run s.hub s.work k d.payload = ⟨h, w, some (code, result)⟩)
    (hafter : code = 0 → after d.payload (completeCommand h w k code result).1 (completeCommand h w k code result).2 =
      completeCommand h w k code result) :
    serveCommandThen op owner priv fields run after k s = .next (completed s h w k code result) := by
  simp only [Serves, hrow] at hserves
  obtain ⟨hheld, hfail, hruns, hpriv, hargs⟩ := hserves
  rw [serveCommandThen_runs _ _ _ _ _ _ _ _ d hheld hfail hruns hpriv hargs, hrun]
  by_cases h0 : code = 0
  · simp only [completed, if_pos h0, hafter h0]
  · simp only [completed, if_neg h0]

/-- What follows a served command that succeeds comes after its completion. -/
theorem serveCommandThen_follows (hrow : mailboxRow c = some (k, op, owner, priv, fields)) (hserves : Serves s c d)
    (hrun : run s.hub s.work k d.payload = ⟨h, w, some (0, result)⟩) :
    serveCommandThen op owner priv fields run after k s =
      .next (afterCommand s k
        (after d.payload (completeCommand h w k 0 result).1 (completeCommand h w k 0 result).2)) := by
  simp only [Serves, hrow] at hserves
  obtain ⟨hheld, hfail, hruns, hpriv, hargs⟩ := hserves
  rw [serveCommandThen_runs _ _ _ _ _ _ _ _ d hheld hfail hruns hpriv hargs, hrun]
  simp only [if_true]

/-- A served command whose run does not end it stays in its mailbox. -/
theorem serveCommandThen_waits (hrow : mailboxRow c = some (k, op, owner, priv, fields)) (hserves : Serves s c d)
    (hrun : run s.hub s.work k d.payload = ⟨h, w, none⟩) :
    serveCommandThen op owner priv fields run after k s = .next (afterCommand s k (h, w)) := by
  simp only [Serves, hrow] at hserves
  obtain ⟨hheld, hfail, hruns, hpriv, hargs⟩ := hserves
  rw [serveCommandThen_runs _ _ _ _ _ _ _ _ d hheld hfail hruns hpriv hargs, hrun]

end

/-- What changes no line of memory carries a command out. -/
theorem afterCommand_of_coh (s : State) (k : Nat) (h : Hub) (w : Work) (hcoh : w.coh = s.work.coh) :
    afterCommand s k (h, w) = { s with hub := h, work := w } :=
  afterCommand_done s k (h, w) (newlyHeld_coh _ _ hcoh)

/-- A command that waits with nothing done leaves the state as it is. -/
theorem afterCommand_self (s : State) (k : Nat) : afterCommand s k (s.hub, s.work) = s :=
  afterCommand_of_coh s k s.hub s.work rfl

/-- From `a` to `b` only the mailboxes, and the count of the commands served, have changed. -/
structure MailboxStep (a b : Hub) : Prop where
  ident : b.ident = a.ident
  safety : b.safety = a.safety
  sec : b.sec = a.sec
  procs : b.fw.procs = a.fw.procs
  update : b.fw.update = a.fw.update
  flash : b.fw.flash = a.fw.flash

namespace MailboxStep

theorem refl (a : Hub) : MailboxStep a a := ⟨rfl, rfl, rfl, rfl, rfl, rfl⟩

theorem trans {a b c : Hub} (h : MailboxStep a b) (k : MailboxStep b c) : MailboxStep a c :=
  ⟨k.ident.trans h.ident, k.safety.trans h.safety, k.sec.trans h.sec, k.procs.trans h.procs, k.update.trans h.update,
    k.flash.trans h.flash⟩

/-- A step after updates of mailboxes. -/
theorem after {a b c : Hub} (h : MailboxStep b c) (hmailboxes : MailboxStep a b) : MailboxStep a c := hmailboxes.trans h

theorem foldl {α : Type} {f : Hub × Work → α → Hub × Work} (hf : ∀ x a, MailboxStep x.1 (f x a).1) (l : List α)
    (x : Hub × Work) : MailboxStep x.1 (l.foldl f x).1 := by
  induction l generalizing x with
  | nil => exact refl _
  | cons a l ih => exact (hf x a).trans (ih _)

end MailboxStep

theorem mailboxStep_unsealedSlot (h : Hub) (w : Work) (k : Nat) : MailboxStep h (unsealedSlot h w k).1 := by
  unfold unsealedSlot
  dsimp only
  split_ifs <;> exact ⟨rfl, rfl, rfl, rfl, rfl, rfl⟩

theorem mailboxStep_readMailboxFuel (k n : Nat) (h : Hub) (w : Work) : MailboxStep h (readMailboxFuel k n h w).1 := by
  induction n generalizing h w with
  | zero => exact .refl h
  | succ n ih =>
    rw [readMailboxFuel]
    split
    · exact .refl h
    · split
      · exact ⟨rfl, rfl, rfl, rfl, rfl, rfl⟩
      · dsimp only
        split
        · exact ⟨rfl, rfl, rfl, rfl, rfl, rfl⟩
        · exact (ih _ _).after ⟨rfl, rfl, rfl, rfl, rfl, rfl⟩
        · exact (mailboxStep_unsealedSlot _ _ _).after ⟨rfl, rfl, rfl, rfl, rfl, rfl⟩

/-- A completion changes mailboxes alone. -/
theorem mailboxStep_completeCommand (h : Hub) (w : Work) (k : Nat) (code : Code) (result : List Byte) :
    MailboxStep h (completeCommand h w k code result).1 := by
  unfold completeCommand
  split
  · exact .refl h
  · exact (mailboxStep_readMailboxFuel _ _ _ _).after ⟨rfl, rfl, rfl, rfl, rfl, rfl⟩

end Sys2Proof.Machine

/-! ### Versions, resets and power (14 R446, 15 R485, R486) -/

namespace Sys2Proof.Machine

/-- Nothing follows a command that leaves the power state, or does not ask for Module standby. -/
theorem suspendAfter_of_ne {p : List Byte} {h : Hub} {w : Work} (hst : fld p 8 1 ≠ 2 ∨ h.ident.powerState ≠ 2) :
    suspendAfter p h w = (h, w) := by
  have hno : ¬ (fld p 8 1 = 2 ∧ h.ident.powerState = 2) := fun ⟨h8, hnow⟩ => hst.elim (· h8) (· hnow)
  rw [suspendAfter, if_neg hno]

/-- The answers of SET_POWER_STATE, by the state asked for. -/
theorem runSetPowerState_wake {h : Hub} {w : Work} {k : Nat} {p : List Byte} (hst : fld p 8 1 = 0) :
    runSetPowerState h w k p =
      if h.ident.powerState = 0 then mbDone h w [] else mbDone (setPower h 0) (wakeEngines (setPower h 0) w) [] := by
  simp [runSetPowerState, hst, @eq_comm _ 0]

theorem runSetPowerState_idle {h : Hub} {w : Work} {k : Nat} {p : List Byte} (hst : fld p 8 1 = 1) :
    runSetPowerState h w k p =
      if mayIdle h w = true then (if h.ident.powerState = 1 then mbDone h w [] else mbDone (setPower h 1) w [])
      else mbRefuse h w 0x0606 := by
  have hle : ¬ 2 < 1 := by omega
  cases hidle : mayIdle h w
  · simp [runSetPowerState, hst, hidle]
  · by_cases hnow : h.ident.powerState = 1
    · simp [runSetPowerState, hst, hidle, hnow]
    · have hnow' : ¬ 1 = h.ident.powerState := fun h1 => hnow h1.symm
      simp [runSetPowerState, hst, hidle, hnow, hnow']

theorem runSetPowerState_standby {h : Hub} {w : Work} {k : Nat} {p : List Byte} (hst : fld p 8 1 = 2)
    (hnow : h.ident.powerState ≠ 2) :
    runSetPowerState h w k p =
      if (h.ident.powerState != 1 || updateBusy h) = true then mbRefuse h w 0x0606
      else if epochOpen w = true then mbWait h w
      else mbDone (enterStandby h w).1 (enterStandby h w).2 [] := by
  have hnow' : ¬ 2 = h.ident.powerState := fun h2 => hnow h2.symm
  simp [runSetPowerState, hst, hnow']

/-- A power state that is set already is not set again. -/
theorem setPower_self {h : Hub} {st : Nat} (hst : h.ident.powerState = st) : setPower h st = h := by
  subst hst
  rfl

theorem fwAlive_suspendProcs {h : Hub} {n : Nat} (hn : n < 6) (hne : n ≠ 1) :
    (suspendProcs h).ident.fwAlive.getD n false = false := by
  simp [suspendProcs, hn, hne]

/-- Settles O43: each command reaches its own check (`serveCommandThen_completes`), which its argument decides. -/
theorem powerCommandsTakeEffect : Obligations.PowerCommandsTakeEffect := by
  intro s k d
  refine ⟨fun hserves => ?_, fun hserves => ⟨fun hbad => ?_, fun hgood => ?_⟩, fun hserves => ⟨fun hst => ?_,
    fun hst hnow => ?_, fun hst hnow => ?_, fun hst => ⟨fun hidle => ?_, fun hidle => ?_⟩, fun hst => ⟨fun hno => ?_,
      fun hnow hfree hopen => ?_, fun hnow hfree hclosed x hx => ?_⟩⟩, fun hserves => ⟨fun hcap => ?_, fun hlow hhigh => ?_⟩⟩
  · exact serveCommand_completes (c := .getVersions k) (run := runGetVersions) rfl hserves rfl
  · exact serveCommandThen_completes (c := .resetRequest k) rfl hserves
      (by rw [runResetRequest, if_pos hbad]; rfl) (fun h => absurd h (by decide))
  · exact serveCommandThen_follows (c := .resetRequest k) rfl hserves
      (by rw [runResetRequest, hgood, if_neg Bool.false_ne_true]; rfl)
  · exact serveCommandThen_completes (c := .setPowerState k) rfl hserves
      (by simp only [runSetPowerState, if_pos hst]; rfl) (fun h => absurd h (by decide))
  · exact serveCommandThen_completes (c := .setPowerState k) rfl hserves
      (by rw [runSetPowerState_wake hst, if_pos hnow]; rfl) (fun _ => suspendAfter_of_ne (.inl (by omega)))
  · exact serveCommandThen_completes (c := .setPowerState k) rfl hserves
      (by rw [runSetPowerState_wake hst, if_neg hnow]; rfl) (fun _ => suspendAfter_of_ne (.inl (by omega)))
  · exact serveCommandThen_completes (c := .setPowerState k) rfl hserves
      (by rw [runSetPowerState_idle hst, hidle, if_neg Bool.false_ne_true]; rfl) (fun h => absurd h (by decide))
  · refine serveCommandThen_completes (c := .setPowerState k) rfl hserves ?_ (fun _ => suspendAfter_of_ne (.inl (by omega)))
    rw [runSetPowerState_idle hst, if_pos hidle]
    by_cases hnow : s.hub.ident.powerState = 1
    · rw [if_pos hnow, setPower_self hnow]
      rfl
    · rw [if_neg hnow]
      rfl
  · have hne : s.hub.ident.powerState ≠ 2 := by omega
    have hrefuse : (s.hub.ident.powerState != 1 || updateBusy s.hub) = true := by
      rcases hno with h0 | ⟨_, hbusy⟩
      · rw [h0]
        rfl
      · rw [hbusy, Bool.or_true]
    exact serveCommandThen_completes (c := .setPowerState k) rfl hserves
      (by rw [runSetPowerState_standby hst hne, if_pos hrefuse]; rfl) (fun h => absurd h (by decide))
  · have hne : s.hub.ident.powerState ≠ 2 := by omega
    have haccept : ¬ (s.hub.ident.powerState != 1 || updateBusy s.hub) = true := by rw [hnow, hfree]; decide
    have hwaits := serveCommandThen_waits (c := .setPowerState k) (after := suspendAfter) rfl hserves (h := s.hub)
      (w := s.work) (run := runSetPowerState)
      (by rw [runSetPowerState_standby hst hne, if_neg haccept, if_pos hopen]; rfl)
    rw [afterCommand_self] at hwaits
    exact hwaits
  · have hne : s.hub.ident.powerState ≠ 2 := by omega
    have haccept : ¬ (s.hub.ident.powerState != 1 || updateBusy s.hub) = true := by rw [hnow, hfree]; decide
    have hend : ¬ epochOpen s.work = true := by rw [hclosed]; exact Bool.false_ne_true
    have hstep : MailboxStep (enterStandby s.hub s.work).1 x.1 := by rw [hx]; exact mailboxStep_completeCommand _ _ _ _ _
    have hstate : x.1.ident.powerState = 2 := by rw [hstep.ident]; rfl
    have hsuspend : suspendAfter d.payload x.1 x.2 = (suspendProcs x.1, x.2) := by
      rw [suspendAfter, if_pos ⟨hst, hstate⟩]
    refine ⟨?_, ?_⟩
    · rw [hx]
      exact serveCommandThen_follows (c := .setPowerState k) rfl hserves
        (by rw [runSetPowerState_standby hst hne, if_neg haccept, if_neg hend]; rfl)
    · rw [hsuspend]
      refine ⟨hstate, ?_, hstep.safety, fun n hn hne1 => fwAlive_suspendProcs hn hne1⟩
      change x.1.ident.complexReady = false
      rw [hstep.ident]
      rfl
  · exact serveCommand_completes (c := .setPowerCap k) rfl hserves (by simp only [runSetPowerCap, if_pos hcap]; rfl)
  · have hok : ¬ (fld d.payload 8 4 < 1000 ∨ 2300 < fld d.payload 8 4) := by omega
    exact serveCommand_completes (c := .setPowerCap k) rfl hserves (by simp only [runSetPowerCap, if_neg hok]; rfl)

end Sys2Proof.Machine

/-! ### The restart of firmware processors (14 R450 to R455, R462) -/

namespace Sys2Proof.Machine

/-- From `a` to `b` processors may have restarted: a stopped one stays stopped, and no dump is lost. -/
structure RestartStep (a b : Hub) : Prop where
  safety : b.safety = a.safety
  flashBank : b.ident.flashBank = a.ident.flashBank
  flash : b.fw.flash = a.fw.flash
  trial : b.fw.update.trial = a.fw.update.trial
  deferred : b.fw.update.deferred = a.fw.update.deferred
  lastResult : b.fw.update.lastResult = a.fw.update.lastResult
  count : b.fw.procs.length = a.fw.procs.length
  dump : ∀ n, (b.proc n).dump = (a.proc n).dump
  stopped : ∀ n, a.ident.fwAlive.getD n false = false → b.ident.fwAlive.getD n false = false

namespace RestartStep

theorem refl (a : Hub) : RestartStep a a := ⟨rfl, rfl, rfl, rfl, rfl, rfl, rfl, fun _ => rfl, fun _ h => h⟩

theorem trans {a b c : Hub} (h : RestartStep a b) (k : RestartStep b c) : RestartStep a c :=
  ⟨k.safety.trans h.safety, k.flashBank.trans h.flashBank, k.flash.trans h.flash, k.trial.trans h.trial,
    k.deferred.trans h.deferred, k.lastResult.trans h.lastResult, k.count.trans h.count,
    fun n => (k.dump n).trans (h.dump n), fun n hn => k.stopped n (h.stopped n hn)⟩

end RestartStep

theorem Hub.proc_congr {a b : Hub} (h : b.fw.procs = a.fw.procs) (n : Nat) : b.proc n = a.proc n := by
  rw [Hub.proc, h, Hub.proc]

theorem MailboxStep.restartStep {a b : Hub} (h : MailboxStep a b) : RestartStep a b :=
  ⟨h.safety, congrArg (·.flashBank) h.ident, h.flash, congrArg (·.trial) h.update, congrArg (·.deferred) h.update,
    congrArg (·.lastResult) h.update, congrArg List.length h.procs, fun n => congrArg (·.dump) (Hub.proc_congr h.procs n),
    fun n hn => by rw [h.ident]; exact hn⟩

theorem getD_set_false {l : List Bool} (m : Nat) {n : Nat} (hn : n = m ∨ l.getD n false = false) :
    (l.set m false).getD n false = false := by
  rw [List.getD_eq_getElem?_getD] at hn ⊢
  rw [List.getElem?_set]
  grind

/-- A processor that leaves service is not alive; its dump is kept. -/
theorem stopProc_step (h : Hub) (n st reason : Nat) :
    RestartStep h (stopProc h n st reason) ∧ (stopProc h n st reason).ident.fwAlive.getD n false = false := by
  refine ⟨⟨rfl, rfl, rfl, rfl, rfl, rfl, by simp [stopProc, Hub.setProc], fun m => ?_, fun m hm => ?_⟩, ?_⟩
  · have hproc : (stopProc h n st reason).proc m =
        (h.setProc n (fun p => { p with st := st, lastReason := reason, restarts := p.restarts + 1 })).proc m := rfl
    rw [hproc, Hub.proc_setProc]
    split
    · rfl
    · rfl
  · exact getD_set_false n (.inr hm)
  · exact getD_set_false n (.inl rfl)

theorem stopProc_proc (h : Hub) (n st reason m : Nat) :
    (stopProc h n st reason).proc m =
      if n = m ∧ m < h.fw.procs.length then
        { h.proc m with st := st, lastReason := reason, restarts := (h.proc m).restarts + 1 }
      else h.proc m :=
  Hub.proc_setProc h n _ m

/-- The end of a staging stops no processor. -/
theorem endStaging_step (h : Hub) (n : Nat) :
    RestartStep h (endStaging h n) ∧ (endStaging h n).fw.procs = h.fw.procs := by
  unfold endStaging
  split
  · exact ⟨⟨rfl, rfl, rfl, rfl, rfl, rfl, rfl, fun _ => rfl, fun _ hm => hm⟩, rfl⟩
  · exact ⟨.refl h, rfl⟩

theorem restartWith_step (st : Nat) (x : Hub × Work) (n : Nat) : RestartStep x.1 (restartWith st x n).1 := by
  unfold restartWith
  split
  · exact .refl _
  · exact (stopProc_step _ _ _ _).1.trans (endStaging_step _ _).1

/-- The restart of one processor leaves the others as they are. -/
theorem restartWith_other (st : Nat) (x : Hub × Work) {m n : Nat} (hne : m ≠ n) :
    (restartWith st x m).1.proc n = x.1.proc n := by
  unfold restartWith
  split
  · rfl
  · dsimp only
    rw [Hub.proc_congr (endStaging_step _ _).2, stopProc_proc, if_neg (fun h => hne h.1)]

/-- A processor that is not held failed restarts; at a sixth restart it may be held. -/
theorem restartWith_self {st : Nat} {x : Hub × Work} {n : Nat} (hlt : n < x.1.fw.procs.length) (hst : (x.1.proc n).st ≠ 3) :
    ((restartWith st x n).1.proc n).st = st ∨ (((restartWith st x n).1.proc n).st = 3 ∧ 5 ≤ (x.1.proc n).restarts) := by
  unfold restartWith
  rw [if_neg hst]
  dsimp only
  rw [Hub.proc_congr (endStaging_step _ _).2, stopProc_proc, if_pos ⟨rfl, hlt⟩]
  cases hsixth : sixthRestart x.1 x.2 n
  · exact .inl rfl
  · rw [sixthRestart, Bool.and_eq_true, decide_eq_true_eq] at hsixth
    exact .inr ⟨rfl, hsixth.1⟩

theorem foldl_restartWith_step (st : Nat) (l : List Nat) (x : Hub × Work) :
    RestartStep x.1 (l.foldl (restartWith st) x).1 := by
  induction l generalizing x with
  | nil => exact .refl _
  | cons m l ih => exact (restartWith_step st x m).trans (ih _)

theorem foldl_restartWith_other (st : Nat) {l : List Nat} {n : Nat} (hn : n ∉ l) (x : Hub × Work) :
    (l.foldl (restartWith st) x).1.proc n = x.1.proc n := by
  induction l generalizing x with
  | nil => rfl
  | cons m l ih =>
    rw [List.mem_cons, not_or] at hn
    rw [List.foldl_cons, ih hn.2, restartWith_other st x (fun h => hn.1 h.symm)]

theorem foldl_restartWith_self {st : Nat} {l : List Nat} {n : Nat} (hnodup : l.Nodup) (hn : n ∈ l) {x : Hub × Work}
    (hlt : n < x.1.fw.procs.length) (hst : (x.1.proc n).st ≠ 3) :
    ((l.foldl (restartWith st) x).1.proc n).st = st ∨
      (((l.foldl (restartWith st) x).1.proc n).st = 3 ∧ 5 ≤ (x.1.proc n).restarts) := by
  induction l generalizing x with
  | nil => cases hn
  | cons m l ih =>
    obtain ⟨hm, hnodup⟩ := List.nodup_cons.mp hnodup
    rw [List.foldl_cons]
    by_cases hmn : m = n
    · subst hmn
      rw [foldl_restartWith_other st hm]
      exact restartWith_self hlt hst
    · have hmem : n ∈ l := (List.mem_cons.mp hn).resolve_left (fun h => hmn h.symm)
      have hsame := restartWith_other st x hmn
      rw [← hsame]
      exact ih hnodup hmem (by rw [(restartWith_step st x m).count]; exact hlt) (by rw [hsame]; exact hst)

theorem restartAll_step (h : Hub) (w : Work) (st : Nat) : RestartStep h (restartAll h w st).1 :=
  foldl_restartWith_step st (List.range 6) (h, w)

/-- A revert is a restart of every processor on the previous bank, with the trial over. -/
theorem revertTrial_restarts (h : Hub) (w : Work) :
    ∃ (a : Hub) (v : Work), revertTrial h w = restartAll a v 2 ∧ a.safety = h.safety ∧
      a.fw.update.deferred = h.fw.update.deferred ∧ a.fw.update.trial = false ∧ a.fw.update.lastResult = 0x0609 ∧
      a.fw.procs = h.fw.procs ∧ a.ident.fwAlive = h.ident.fwAlive :=
  ⟨_, _, rfl, rfl, rfl, rfl, rfl, rfl, rfl⟩

/-- A trial that is reverted is over, with 0x0609, and leaves no dump. -/
theorem revertTrial_keeps (h : Hub) (w : Work) :
    (revertTrial h w).1.safety = h.safety ∧ (revertTrial h w).1.fw.update.trial = false ∧
      (revertTrial h w).1.fw.update.lastResult = 0x0609 ∧
      (revertTrial h w).1.fw.update.deferred = h.fw.update.deferred ∧
      (∀ n, ((revertTrial h w).1.proc n).dump = (h.proc n).dump) ∧
      (∀ n, h.ident.fwAlive.getD n false = false → (revertTrial h w).1.ident.fwAlive.getD n false = false) := by
  obtain ⟨a, v, hrevert, hsafety, hdeferred, htrial, hresult, hprocs, halive⟩ := revertTrial_restarts h w
  have hstep := restartAll_step a v 2
  rw [hrevert]
  exact ⟨hstep.safety.trans hsafety, hstep.trial.trans htrial, hstep.lastResult.trans hresult,
    hstep.deferred.trans hdeferred, fun n => (hstep.dump n).trans (congrArg (·.dump) (Hub.proc_congr hprocs n)),
    fun n hn => hstep.stopped n (by rw [halive]; exact hn)⟩

/-- The commands that a processor served complete, which changes mailboxes alone. -/
theorem mailboxStep_abortCommands (h : Hub) (w : Work) (n : Nat) : MailboxStep h (abortCommands h w n).1 :=
  .foldl (fun x k => by
    split
    · split
      · exact mailboxStep_completeCommand _ _ _ _ _
      · exact .refl _
    · exact .refl _) (List.range 16) (h, w)

/-- A processor that dumps: the dump is there. -/
theorem writeDump_proc {h : Hub} {w : Work} {n reason : Nat} {b : DumpData} (hlt : n < h.fw.procs.length) :
    ((writeDump h w n reason b).proc n).dump.valid = true ∧
      ((writeDump h w n reason b).proc n).st = (h.proc n).st ∧
      ((writeDump h w n reason b).proc n).lastReason = (h.proc n).lastReason ∧
      ((writeDump h w n reason b).proc n).restarts = (h.proc n).restarts := by
  unfold writeDump
  rw [Hub.proc_setProc, if_pos ⟨rfl, hlt⟩]
  cases hvalid : (h.proc n).dump.valid
  · simp
  · simp [hvalid]

/-- A restart in its first part: the processor is stopped, its dump written, its staging ended. -/
def stoppedWithDump (h : Hub) (w : Work) (n reason : Nat) (sixth : Bool) (b : DumpData) : Hub :=
  endStaging (writeDump (stopProc h n (if sixth then 3 else 2) reason) w n reason b) n

/-- What a trigger logs, and what FW5 loses by its own restart. -/
def restartLogs (h : Hub) (w : Work) (n : Nat) (sixth : Bool) : Work :=
  let w0 := emit h w ⟨6, 0x0601, 48 + n, unitOf 5 n, 0, []⟩
  let w1 := if sixth then failedAlarm h w0 n else w0
  if n = 5 then loseTaken w1 else w1

/-- The rest of a restart completes the commands, and reverts a trial. -/
theorem triggerRestart_eq (h : Hub) (w : Work) (n reason : Nat) (sixth : Bool) (b : DumpData) {a : Hub} {v : Work}
    (hx : abortCommands (stoppedWithDump h w n reason sixth b)
      (restartLogs (writeDump (stopProc h n (if sixth then 3 else 2) reason) w n reason b) w n sixth) n = (a, v)) :
    triggerRestart h w n reason sixth (some b) = if a.fw.update.trial = true then revertTrial a v else (a, v) := by
  unfold stoppedWithDump restartLogs at hx
  unfold triggerRestart
  dsimp only at hx ⊢
  rw [hx]

theorem triggerRestart_rest (h : Hub) (w : Work) (n reason : Nat) (sixth : Bool) (b : DumpData) :
    ∃ (a : Hub) (v : Work), MailboxStep (stoppedWithDump h w n reason sixth b) a ∧
      (triggerRestart h w n reason sixth (some b)).1 = if a.fw.update.trial = true then (revertTrial a v).1 else a := by
  have hstep := mailboxStep_abortCommands (stoppedWithDump h w n reason sixth b)
    (restartLogs (writeDump (stopProc h n (if sixth then 3 else 2) reason) w n reason b) w n sixth) n
  obtain ⟨x, hx⟩ : ∃ x, abortCommands (stoppedWithDump h w n reason sixth b)
    (restartLogs (writeDump (stopProc h n (if sixth then 3 else 2) reason) w n reason b) w n sixth) n = x := ⟨_, rfl⟩
  obtain ⟨a, v⟩ := x
  rw [hx] at hstep
  rw [triggerRestart_eq h w n reason sixth b hx]
  exact ⟨a, v, hstep, apply_ite Prod.fst _ _ _⟩

/-- What the first part leaves. -/
theorem stoppedWithDump_keeps (h : Hub) (w : Work) (n reason : Nat) (sixth : Bool) (b : DumpData) :
    (stoppedWithDump h w n reason sixth b).safety = h.safety ∧
      (stoppedWithDump h w n reason sixth b).fw.update.trial = h.fw.update.trial ∧
      (stoppedWithDump h w n reason sixth b).ident.fwAlive.getD n false = false := by
  obtain ⟨hstop, hdead⟩ := stopProc_step h n (if sixth then 3 else 2) reason
  obtain ⟨hend, _⟩ := endStaging_step (writeDump (stopProc h n (if sixth then 3 else 2) reason) w n reason b) n
  exact ⟨hend.safety.trans hstop.safety, hend.trial.trans hstop.trial, hend.stopped n hdead⟩

theorem stoppedWithDump_proc {h : Hub} {w : Work} {n reason : Nat} {sixth : Bool} {b : DumpData}
    (hlt : n < h.fw.procs.length) :
    ((stoppedWithDump h w n reason sixth b).proc n).dump.valid = true ∧
      ((stoppedWithDump h w n reason sixth b).proc n).st = (if sixth then 3 else 2) ∧
      ((stoppedWithDump h w n reason sixth b).proc n).lastReason = reason ∧
      ((stoppedWithDump h w n reason sixth b).proc n).restarts = (h.proc n).restarts + 1 := by
  have hcount : n < (stopProc h n (if sixth then 3 else 2) reason).fw.procs.length := by
    rw [(stopProc_step h n _ reason).1.count]
    exact hlt
  obtain ⟨hvalid, hst, hreason, hrestarts⟩ := writeDump_proc (w := w) (reason := reason) (b := b) hcount
  have hstopped := stopProc_proc h n (if sixth then 3 else 2) reason n
  rw [if_pos (⟨rfl, hlt⟩ : n = n ∧ n < h.fw.procs.length)] at hstopped
  rw [stoppedWithDump, Hub.proc_congr (endStaging_step _ _).2, hst, hreason, hrestarts, hstopped]
  exact ⟨hvalid, rfl, rfl, rfl⟩

theorem fwRuns_eq_false {h : Hub} {n : Nat} (hdead : h.ident.fwAlive.getD n false = false) : fwRuns h n = false := by
  rw [fwRuns, hdead, Bool.and_false, Bool.false_and]

/-- What a trigger of R450 leaves of its processor and of the update. -/
theorem triggerRestart_spec (h : Hub) (w : Work) (n reason : Nat) (sixth : Bool) (b : DumpData)
    (hlt : n < h.fw.procs.length) {t : Hub} (ht : t = (triggerRestart h w n reason sixth (some b)).1) :
    t.safety = h.safety ∧ fwRuns t n = false ∧ (t.proc n).dump.valid = true ∧
      (h.fw.update.trial = false →
        (t.proc n).st = (if sixth then 3 else 2) ∧ (t.proc n).lastReason = reason ∧
          (t.proc n).restarts = (h.proc n).restarts + 1) ∧
      (h.fw.update.trial = true → t.fw.update.trial = false ∧ t.fw.update.lastResult = 0x0609) := by
  obtain ⟨a, v, hstep, hrest⟩ := triggerRestart_rest h w n reason sixth b
  obtain ⟨hsafety, htrial, hdead⟩ := stoppedWithDump_keeps h w n reason sixth b
  obtain ⟨hvalid, hst, hreason, hrestarts⟩ := stoppedWithDump_proc (w := w) (reason := reason) (sixth := sixth) (b := b) hlt
  have hproc := Hub.proc_congr hstep.procs n
  have htrial' : a.fw.update.trial = h.fw.update.trial := by rw [hstep.update, htrial]
  have hdead' : a.ident.fwAlive.getD n false = false := by rw [hstep.ident]; exact hdead
  rw [hrest, htrial'] at ht
  cases hmode : h.fw.update.trial
  · rw [hmode, if_neg Bool.false_ne_true] at ht
    subst ht
    rw [hproc]
    exact ⟨hstep.safety.trans hsafety, fwRuns_eq_false hdead', hvalid, fun _ => ⟨hst, hreason, hrestarts⟩,
      fun h => Bool.noConfusion h⟩
  · rw [hmode, if_pos rfl] at ht
    obtain ⟨hrsafety, hrtrial, hrresult, _, hrdump, hrdead⟩ := revertTrial_keeps a v
    rw [← ht] at hrsafety hrtrial hrresult hrdump hrdead
    refine ⟨hrsafety.trans (hstep.safety.trans hsafety), fwRuns_eq_false (hrdead n hdead'), ?_, fun h => Bool.noConfusion h,
      fun _ => ⟨hrtrial, hrresult⟩⟩
    rw [hrdump n, hproc]
    exact hvalid

/-- What a processor takes up again leaves processors, identity and safety alone. -/
theorem resumeService_keeps (h : Hub) (w : Work) (n : Nat) :
    (resumeService h w n).1.fw.procs = h.fw.procs ∧ (resumeService h w n).1.ident = h.ident ∧
      (resumeService h w n).1.safety = h.safety := by
  have hmailboxes : MailboxStep h
      ((List.range 16).foldl (fun (x : Hub × Work) k => resumeMailbox x.1 x.2 k) (h, w)).1 :=
    .foldl (f := fun (x : Hub × Work) k => resumeMailbox x.1 x.2 k) (fun x k => by
      unfold resumeMailbox
      split
      · exact mailboxStep_readMailboxFuel _ _ _ _
      · exact mailboxStep_completeCommand _ _ _ _ _) (List.range 16) (h, w)
  unfold resumeService
  split
  · exact ⟨hmailboxes.procs, hmailboxes.ident, hmailboxes.safety⟩
  · split
    · unfold reserveLms
      dsimp only
      split_ifs <;> exact ⟨rfl, rfl, rfl⟩
    · split <;> exact ⟨rfl, rfl, rfl⟩

/-- A bank-select record that is written is the one in force. -/
theorem bankRecord_writeRecord (f : Flash) (r : BankRecord) :
    bankRecord (writeRecord f r) = { r with magic := 0x4253, seq := (bankRecord f).seq + 1, commit := true } := by
  unfold writeRecord
  dsimp only
  split
  next hcur =>
    obtain ⟨hcommit, hsel⟩ := hcur
    have hlt : f.select0.seq < (bankRecord f).seq + 1 := by
      rw [← hsel]
      exact Nat.lt_succ_self _
    simp only [bankRecord, hcommit] at hlt ⊢
    rw [if_pos hlt]
  next hcur =>
    cases h1 : f.select1.commit
    · simp only [bankRecord, h1]
    · have hrec : bankRecord f = f.select1 := by
        cases h0 : f.select0.commit
        · simp only [bankRecord, h0, h1]
        · have hother : f.select0 ≠ bankRecord f := fun h => hcur ⟨h0, h⟩
          simp only [bankRecord, h0, h1] at hother ⊢
          split
          · rfl
          next hle => exact absurd (if_neg hle).symm hother
      have hnot : ¬ f.select1.seq + 1 < f.select1.seq := by omega
      rw [hrec]
      simp only [bankRecord, h1, if_neg hnot]

/-- Settles O49: a trigger stops its processor, and only a trial changes more (`triggerRestart_spec`). -/
theorem firmwareProcessorsRestart : Obligations.FirmwareProcessorsRestart := by
  intro s n sixth b
  refine ⟨fun c reason hruns hc => ⟨?_, fun hlt h hh => triggerRestart_spec s.hub s.work n reason sixth b hlt hh⟩,
    fun hst hpow href hstate hlen => ?_, fun htrial hruns => ?_⟩
  · simp only [List.mem_cons, Prod.mk.injEq, List.not_mem_nil, or_false] at hc
    rcases hc with ⟨rfl, rfl⟩ | ⟨rfl, rfl⟩ | ⟨rfl, rfl⟩ | ⟨rfl, rfl⟩ <;> exact if_pos hruns
  · have hlt : n < s.hub.fw.procs.length := by
      by_contra hout
      rw [Hub.proc, List.getD_eq_default _ _ (Nat.le_of_not_lt hout)] at hst
      rcases hst with h | h <;> cases h
    have hgo : ((s.hub.proc n).st = 2 ∨ (s.hub.proc n).st = 4) ∧ s.hub.ident.powered = true ∧
        (!s.hub.safety.refFail) = true ∧ (s.hub.ident.powerState ≠ 2 ∨ n = 1) :=
      ⟨hst, hpow, by rw [href]; rfl, hstate⟩
    have hclock : (s.hub.ident.powerState != 2 || n == 1) = true := by
      rcases hstate with h | h
      · rw [bne_iff_ne.mpr h, Bool.true_or]
      · rw [h]
        exact Bool.or_true _
    have hkeep := resumeService_keeps
      { s.hub.setProc n (fun p => { p with st := 1 }) with
        ident := { s.hub.ident with fwAlive := s.hub.ident.fwAlive.set n true } } s.work n
    refine ⟨{ s with
        hub := (resumeService
          { s.hub.setProc n (fun p => { p with st := 1 }) with
            ident := { s.hub.ident with fwAlive := s.hub.ident.fwAlive.set n true } } s.work n).1
        work := (resumeService
          { s.hub.setProc n (fun p => { p with st := 1 }) with
            ident := { s.hub.ident with fwAlive := s.hub.ident.fwAlive.set n true } } s.work n).2 }, if_pos hgo, ?_, ?_,
      hkeep.2.2⟩
    · rw [Hub.proc_congr hkeep.1]
      have hproc := Hub.proc_setProc s.hub n (fun p => { p with st := 1 }) n
      rw [if_pos ⟨rfl, hlt⟩] at hproc
      exact congrArg (·.st) hproc
    · have halive : (s.hub.ident.fwAlive.set n true).getD n false = true := by
        rw [List.getD_eq_getElem?_getD, List.getElem?_set_self hlen]
        rfl
      rw [fwRuns, hkeep.2.1, hkeep.2.2]
      change (s.hub.ident.powered && !s.hub.safety.refFail && (s.hub.ident.fwAlive.set n true).getD n false &&
        (s.hub.ident.powerState != 2 || n == 1)) = true
      rw [hpow, href, halive, hclock]
      rfl
  · refine ⟨_, if_pos ⟨htrial, hruns⟩, rfl, rfl, ?_, rfl⟩
    exact congrArg (·.trial) (bankRecord_writeRecord s.hub.fw.flash
      { bankRecord s.hub.fw.flash with trial := false, actMailbox := 0xFF })

end Sys2Proof.Machine

/-! ### The stages of a firmware update (14 R456 to R460, R463, 16 R500) -/

namespace Sys2Proof.Machine

/-- A bank-select record is written beside the banks. -/
theorem bank_writeRecord (f : Flash) (r : BankRecord) (b : Nat) : (writeRecord f r).bank b = f.bank b := by
  unfold writeRecord
  dsimp only
  split <;> rfl

/-- A served command whose run does not end it, and changes no line of memory, leaves its hub and stays in its mailbox. -/
theorem serveCommand_waits {c : Instr} {k op owner : Nat} {priv : Bool} {fields : List (Nat × Nat)}
    {run : Hub → Work → Nat → List Byte → MbResult} {s : State} {d : Desc} {h : Hub} {w : Work}
    (hrow : mailboxRow c = some (k, op, owner, priv, fields)) (hserves : Serves s c d)
    (hrun : run s.hub s.work k d.payload = ⟨h, w, none⟩) :
    serveCommand op owner priv fields run k s = .next (afterCommand s k (h, w)) :=
  serveCommandThen_waits hrow hserves hrun

/-- A served command is the one that its mailbox holds. -/
theorem cmd_of_serves {s : State} {c : Instr} {d : Desc} {k op owner : Nat} {priv : Bool} {fields : List (Nat × Nat)}
    (hrow : mailboxRow c = some (k, op, owner, priv, fields)) (hserves : Serves s c d) : (s.hub.mailbox k).cmd = some d := by
  simp only [Serves, hrow] at hserves
  obtain ⟨hheld, _⟩ := hserves
  unfold heldCommand at hheld
  cases hcmd : (s.hub.mailbox k).cmd with
  | none =>
    simp only [hcmd] at hheld
    cases hheld
  | some x =>
    simp only [hcmd] at hheld
    split at hheld
    · exact hheld
    · cases hheld

/-- FW_STAGE_BEGIN with its argument in order, outside a deferral and a trial, begins the erase, or waits for the one that
runs. -/
theorem runStageBegin_accepted {h : Hub} {w : Work} {k : Nat} {p : List Byte} (hne : fld p 8 8 ≠ 0)
    (halign : fld p 8 8 % 4096 = 0) (hmax : fld p 8 8 ≤ maxBundle) (hdeferred : h.fw.update.deferred = false)
    (htrial : h.fw.update.trial = false) :
    (erasing h = true → runStageBegin h w k p = mbWait h w) ∧
      (erasing h = false →
        runStageBegin h w k p =
          mbLater
            ((h.setBank (stagedBank h) []).setUpdate (fun u =>
              { u with
                stage := 1, stagedKib := 0, bundleBytes := fld p 8 8, stagedVersion := 0, stagedDigest := []
                waitingMailbox := some k })) w k) := by
  have hargs : ¬ (fld p 8 8 = 0 ∨ fld p 8 8 % 4096 ≠ 0 ∨ maxBundle < fld p 8 8) := by omega
  have hforce : ¬ (h.fw.update.deferred = true ∨ h.fw.update.trial = true) := by simp [hdeferred, htrial]
  constructor
  · intro herase
    rw [runStageBegin, if_neg hargs, if_neg hforce, if_pos herase]
  · intro herase
    rw [runStageBegin, if_neg hargs, if_neg hforce, herase, if_neg Bool.false_ne_true]

/-- The end of an erase, by what the mailbox that waits for it holds. -/
theorem exec_eraseComplete {s : State} {k : Nat} {h : Hub} (hwait : s.hub.fw.update.waitingMailbox = some k)
    (hruns : fwRuns s.hub 0 = true)
    (hh : h = s.hub.setUpdate (fun u => { u with stage := if u.stage = 1 then 2 else u.stage, waitingMailbox := none })) :
    (∀ d, (s.hub.mailbox k).cmd = some d → d.kind = 0x0701 → (s.hub.mailbox k).busyLong = true → fwRuns s.hub 4 = true →
      exec .eraseComplete s = onState s (completeCommand h s.work k 0 [])) ∧
      ((s.hub.mailbox k).cmd = none → exec .eraseComplete s = onState s (h, s.work)) := by
  have hcmd : (h.mailbox k).cmd = (s.hub.mailbox k).cmd := by rw [hh]; rfl
  constructor
  · intro d hd hkind hbusy h4
    have hgo : d.kind = 0x0701 ∧ (h.mailbox k).busyLong = true ∧ fwRuns h 4 = true := by
      rw [hh]
      exact ⟨hkind, hbusy, h4⟩
    rw [hd] at hcmd
    simp only [exec, execEraseComplete, hwait, hruns, Bool.not_true, Bool.false_eq_true, if_false, ← hh, hcmd, if_pos hgo]
  · intro hnone
    rw [hnone] at hcmd
    simp only [exec, execEraseComplete, hwait, hruns, Bool.not_true, Bool.false_eq_true, if_false, ← hh, hcmd]

/-- FW_STAGE_WRITE in its turn writes the bytes that it reads. -/
theorem runStageWrite_in_turn {h : Hub} {w : Work} {k : Nat} {p b : List Byte} (hsrc : fld p 8 8 % 4096 = 0)
    (hlen : fld p 0x14 4 % 4096 = 0) (hmax : fld p 0x14 4 ≤ 0x1000000)
    (hin : fld p 0x14 4 ≠ 0 → inLpddr h (fld p 8 8) (fld p 0x14 4) = true) (hstage : h.fw.update.stage = 2)
    (hoff : fld p 0x10 4 = h.fw.update.stagedKib * 1024)
    (hfits : fld p 0x10 4 + fld p 0x14 4 ≤ h.fw.update.bundleBytes)
    (hread : fwRead h w (fld p 8 8) (fld p 0x14 4) = .ok b) :
    runStageWrite h w k p =
      mbDone
        ((h.setBank (stagedBank h) (bankWrite (h.fw.flash.bank (stagedBank h)) (fld p 0x10 4) b)).setUpdate (fun u =>
          { u with stagedKib := u.stagedKib + fld p 0x14 4 / 1024 })) w [] := by
  have hplaced : ¬ (fld p 0x14 4 ≠ 0 ∧ (!inLpddr h (fld p 8 8) (fld p 0x14 4)) = true) :=
    fun ⟨hne, hout⟩ => by simp [hin hne] at hout
  have hargs : ¬ (fld p 8 8 % 4096 ≠ 0 ∨ fld p 0x14 4 % 4096 ≠ 0 ∨ 0x1000000 < fld p 0x14 4 ∨
      (fld p 0x14 4 ≠ 0 ∧ (!inLpddr h (fld p 8 8) (fld p 0x14 4)) = true)) := by
    simp only [not_or, not_not, not_lt]
    exact ⟨hsrc, hlen, hmax, hplaced⟩
  have hturn : ¬ (h.fw.update.stage ≠ 2 ∨ fld p 0x10 4 ≠ h.fw.update.stagedKib * 1024 ∨
      h.fw.update.bundleBytes < fld p 0x10 4 + fld p 0x14 4) := by omega
  simp only [runStageWrite, if_neg hargs, if_neg hturn, hread]

/-- The staging of a restart of every processor is over, and a verified bundle runs on trial; an altered one does not. -/
theorem activate_spec (h : Hub) (w : Work) (cmd : Option (Nat × Word × Seq)) :
    (activate h w cmd).1.safety = h.safety ∧ (activate h w cmd).1.fw.update.deferred = false ∧
    (imageDigests (h.fw.flash.bank (stagedBank h)) = h.fw.update.stagedDigest →
      (activate h w cmd).1.ident.flashBank = 1 - h.ident.flashBank ∧ (activate h w cmd).1.fw.update.trial = true ∧
      ∀ n, n < 6 → n < h.fw.procs.length → (h.proc n).st ≠ 3 →
        ((activate h w cmd).1.proc n).st = 4 ∨
          (((activate h w cmd).1.proc n).st = 3 ∧ 5 ≤ (h.proc n).restarts)) ∧
    (imageDigests (h.fw.flash.bank (stagedBank h)) ≠ h.fw.update.stagedDigest →
      (activate h w cmd).1.fw.update.trial = false ∧ (activate h w cmd).1.fw.update.lastResult = 0x0609) := by
  rw [← bank_writeRecord h.fw.flash
    ⟨0x4253, 0, stagedBank h, true, h.ident.flashBank, (cmd.getD (0xFF, 0, 0)).1, (cmd.getD (0xFF, 0, 0)).2.1,
      (cmd.getD (0xFF, 0, 0)).2.2, false⟩ (stagedBank h)]
  unfold activate
  dsimp only
  split
  next heq =>
    refine ⟨(restartAll_step _ _ 4).safety.trans rfl, (restartAll_step _ _ 4).deferred.trans rfl,
      fun _ => ⟨(restartAll_step _ _ 4).flashBank.trans rfl, (restartAll_step _ _ 4).trial.trans rfl, fun n hn hlt hst => ?_⟩,
      fun hne => absurd heq hne⟩
    exact foldl_restartWith_self List.nodup_range (List.mem_range.mpr hn) hlt hst
  next hne =>
    have hkeep := fun a v => revertTrial_keeps a v
    refine ⟨(hkeep _ _).1.trans rfl, (hkeep _ _).2.2.2.1.trans rfl, fun heq => absurd heq hne,
      fun _ => ⟨(hkeep _ _).2.1, (hkeep _ _).2.2.1⟩⟩

/-- FW_CANCEL ends a deferral, else a staging, else nothing. -/
theorem runCancel_cases (h : Hub) (w : Work) (k : Nat) (p : List Byte) :
    (h.fw.update.deferred = true →
      runCancel h w k p = mbDone (h.setUpdate (fun u => { u with deferred := false })) w []) ∧
    (h.fw.update.deferred = false →
      ((h.fw.update.stage = 1 ∨ h.fw.update.stage = 2) →
        runCancel h w k p = mbDone (h.setUpdate (fun u => { u with stage := 0 })) w []) ∧
      (¬ (h.fw.update.stage = 1 ∨ h.fw.update.stage = 2) → runCancel h w k p = mbRefuse h w 0x060A)) := by
  refine ⟨fun hd => ?_, fun hd => ⟨fun hst => ?_, fun hst => ?_⟩⟩
  · rw [runCancel, if_pos hd]
  · rw [runCancel, hd, if_neg Bool.false_ne_true, if_pos hst]
  · rw [runCancel, hd, if_neg Bool.false_ne_true, if_neg hst]

/-- Settles O45: each command reaches its own check, and an activation is a restart of every processor
(`activate_spec`). -/
theorem firmwareUpdateRunsInStages : Obligations.FirmwareUpdateRunsInStages := by
  intro s k d
  refine ⟨fun hserves hne halign hmax hdeferred htrial herase => ?_,
    fun hserves hne halign hmax hdeferred htrial herase => ?_,
    fun h hwait hruns hh => ⟨(exec_eraseComplete hwait hruns hh).1 d, (exec_eraseComplete hwait hruns hh).2⟩,
    fun b hserves hsrc hlen hmax hin hstage hoff hfits hread => ?_, fun hserves hstage => ?_, fun hserves hstage => ?_,
    fun hserves hstage hdeferred htrial => ⟨fun hemergency => ?_, fun hclear => ?_⟩,
    fun hdeferred hclear hruns => ?_, activate_spec, fun hserves => ⟨fun hd => ?_, fun hd hst => ?_, fun hd h1 h2 => ?_⟩,
    fun b hserves hlen halign hin hread => ?_⟩
  · exact (serveCommand_waits (c := .fwStageBegin k) rfl hserves
      ((runStageBegin_accepted hne halign hmax hdeferred htrial).2 herase)).trans
      (congrArg Host.Outcome.next (afterCommand_of_coh s k _ s.work rfl))
  · exact (serveCommand_waits (c := .fwStageBegin k) rfl hserves
      ((runStageBegin_accepted hne halign hmax hdeferred htrial).1 herase)).trans
      (congrArg Host.Outcome.next (afterCommand_self s k))
  · exact serveCommand_completes (c := .fwStageWrite k) rfl hserves
      (runStageWrite_in_turn hsrc hlen hmax hin hstage hoff hfits hread)
  · exact serveCommand_completes (c := .fwStageVerify k) rfl hserves (by rw [runStageVerify, if_pos hstage]; rfl)
  · have hstaged : ¬ s.hub.fw.update.stage < 2 := by omega
    split
    next h0 =>
      have hok : ¬ bundleCode (s.hub.fw.flash.bank (stagedBank s.hub)) ≠ 0 := fun h => h h0
      exact serveCommand_completes (c := .fwStageVerify k) rfl hserves
        (by simp only [runStageVerify, if_neg hstaged, if_neg hok]; rfl)
    next h0 =>
      exact serveCommand_completes (c := .fwStageVerify k) rfl hserves
        (by simp only [runStageVerify, if_neg hstaged, if_pos h0]; rfl)
  · have hst : ¬ s.hub.fw.update.stage ≠ 3 := fun h => h hstage
    have hforce : ¬ (s.hub.fw.update.deferred = true ∨ s.hub.fw.update.trial = true) := by simp [hdeferred, htrial]
    exact serveCommand_completes (c := .fwActivate k) rfl hserves
      (by simp only [runActivate, if_neg hst, if_neg hforce, if_pos hemergency]; rfl)
  · have hst : ¬ s.hub.fw.update.stage ≠ 3 := fun h => h hstage
    have hforce : ¬ (s.hub.fw.update.deferred = true ∨ s.hub.fw.update.trial = true) := by simp [hdeferred, htrial]
    exact serveCommand_waits (c := .fwActivate k) rfl hserves
      (by simp only [runActivate, if_neg hst, if_neg hforce, hclear, Bool.false_eq_true, if_false,
            cmd_of_serves (c := .fwActivate k) rfl hserves]; rfl)
  · exact if_pos ⟨hdeferred, by rw [hclear]; rfl, hruns⟩
  · exact serveCommand_completes (c := .fwCancel k) rfl hserves ((runCancel_cases _ _ _ _).1 hd)
  · exact serveCommand_completes (c := .fwCancel k) rfl hserves (((runCancel_cases _ _ _ _).2 hd).1 hst)
  · exact serveCommand_completes (c := .fwCancel k) rfl hserves (((runCancel_cases _ _ _ _).2 hd).2 (by omega))
  · have hargs : ¬ (fld d.payload 0x10 4 ≠ cfgBytes ∨ fld d.payload 8 8 % 4096 ≠ 0 ∨
        (!inLpddr s.hub (fld d.payload 8 8) cfgBytes) = true) := by
      rw [hin]
      simp [hlen, halign]
    split
    next h0 =>
      have hok : ¬ cfgCode s.hub.ident.serial b ≠ 0 := fun h => h h0
      exact serveCommand_completes (c := .configStage k) rfl hserves
        (by simp only [runConfigStage, if_neg hargs, hread, if_neg hok]; rfl)
    next h0 =>
      exact serveCommand_completes (c := .configStage k) rfl hserves
        (by simp only [runConfigStage, if_neg hargs, hread, if_pos h0]; rfl)

end Sys2Proof.Machine

/-! ### FW2: tables and ports (14 R446, 12 R363, R366, R370, R372, R395) -/

namespace Sys2Proof.Machine

/-- LOAD_ROUTES with its arguments in order replaces entries of the dies that it names. -/
theorem runLoadRoutes_accepted {h : Hub} {w : Work} {k : Nat} {p b : List Byte} (hn : fld p 0x14 4 ≠ 0)
    (hend : fld p 0x10 4 + fld p 0x14 4 ≤ 131072) (hdies : fld p 0x18 1 ≠ 0) (hdies3 : fld p 0x18 1 ≤ 3)
    (hsrc : srcArg h (fld p 8 8) (2 * fld p 0x14 4) 64 = true)
    (hread : fwRead h w (fld p 8 8) (2 * fld p 0x14 4) = .ok b) :
    runLoadRoutes h w k p =
      mbDone h
        (w.setFabric (fun f =>
          { f with
            routes0 := if bitOf (fld p 0x18 1) 0 then
                replaceEntries f.routes0 (fld p 0x10 4) (fld p 0x14 4) (routeEntries b (fld p 0x10 4) (fld p 0x14 4))
              else f.routes0
            routes1 := if bitOf (fld p 0x18 1) 1 then
                replaceEntries f.routes1 (fld p 0x10 4) (fld p 0x14 4) (routeEntries b (fld p 0x10 4) (fld p 0x14 4))
              else f.routes1 })) [] := by
  have hargs : ¬ (fld p 0x14 4 = 0 ∨ 131072 < fld p 0x10 4 + fld p 0x14 4 ∨ fld p 0x18 1 = 0 ∨ 3 < fld p 0x18 1 ∨
      (!srcArg h (fld p 8 8) (2 * fld p 0x14 4) 64) = true) := by
    rw [hsrc]
    simp only [Bool.not_true, Bool.false_eq_true, or_false]
    omega
  simp only [runLoadRoutes, if_neg hargs, hread]

theorem runLoadEthTable_accepted {h : Hub} {w : Work} {k : Nat} {p b : List Byte}
    (hend : fld p 0x10 4 + fld p 0x14 4 ≤ 4096) (hsrc : srcArg h (fld p 8 8) (32 * fld p 0x14 4) 64 = true)
    (hread : fwRead h w (fld p 8 8) (32 * fld p 0x14 4) = .ok b) :
    runLoadEthTable h w k p =
      mbDone h
        (w.setFabric (fun f =>
          { f with
            ethTable := replaceEntries f.ethTable (fld p 0x10 4) (fld p 0x14 4)
              ((List.range (fld p 0x14 4)).map (fun i => (fld p 0x10 4 + i, ethEntryOf (b.drop (32 * i))))) })) [] := by
  have hargs : ¬ (4096 < fld p 0x10 4 + fld p 0x14 4 ∨ (!srcArg h (fld p 8 8) (32 * fld p 0x14 4) 64) = true) := by
    rw [hsrc]
    simp only [Bool.not_true, Bool.false_eq_true, or_false]
    omega
  simp only [runLoadEthTable, if_neg hargs, hread]

/-- LOAD_INJECTION with its arguments in order takes rules in test mode, and is refused outside it. -/
theorem runLoadInjection_cases {h : Hub} {w : Work} {k : Nat} {p b : List Byte}
    (hend : fld p 0x10 1 + fld p 0x11 1 ≤ 32) (hsrc : srcArg h (fld p 8 8) (32 * fld p 0x11 1) 64 = true) :
    (h.ident.cfg.testMode = false → runLoadInjection h w k p = mbRefuse h w 0x050A) ∧
      (h.ident.cfg.testMode = true → fld p 0x11 1 ≠ 0 → fwRead h w (fld p 8 8) (32 * fld p 0x11 1) = .ok b →
        ((List.range (fld p 0x11 1)).map (fun i => (b.drop (32 * i)).take 32)).any ruleBad = false →
        runLoadInjection h w k p =
          mbDone h
            (w.setFabric (fun f =>
              { f with
                rules := putRules f.rules (fld p 0x10 1)
                  (((List.range (fld p 0x11 1)).map (fun i => (b.drop (32 * i)).take 32)).map ruleOf) })) []) := by
  have hargs : ¬ (32 < fld p 0x10 1 + fld p 0x11 1 ∨ (!srcArg h (fld p 8 8) (32 * fld p 0x11 1) 64) = true) := by
    rw [hsrc]
    simp only [Bool.not_true, Bool.false_eq_true, or_false]
    omega
  constructor
  · intro htest
    simp only [runLoadInjection, if_neg hargs, htest, Bool.not_false, if_true]
  · intro htest hn hread hgood
    simp only [runLoadInjection, if_neg hargs, htest, Bool.not_true, Bool.false_eq_true, if_false, hread, hgood, if_neg hn]

/-- PORT_RESET of a port of the module. -/
theorem runPortReset_cases {h : Hub} {w : Work} {k : Nat} {p : List Byte} (hport : fld p 8 1 ≤ 15) :
    (w.fabric.referenceLost = true → runPortReset h w k p = mbDone h w []) ∧
      (w.fabric.referenceLost = false → runPortReset h w k p = mbLater h (w.setPort (fld p 8 1) startRetrain) k) := by
  have hok : ¬ 15 < fld p 8 1 := by omega
  constructor
  · intro hlost
    rw [runPortReset, if_neg hok, if_pos hlost]
  · intro hlost
    rw [runPortReset, if_neg hok, hlost, if_neg Bool.false_ne_true]

/-- Settles O46: each command reaches its own check, which its arguments pass or fail. -/
theorem fabricTablesAndPortsAreSet : Obligations.FabricTablesAndPortsAreSet := by
  intro s k d
  refine ⟨fun hserves hn => ⟨fun hset => ?_, fun hset => ?_⟩, fun b hserves hn hend hdies hdies3 hsrc hread => ?_,
    fun b hserves hend hsrc hread => ?_, fun b hserves hend hsrc => ⟨fun htest => ?_, fun htest hn hread hgood => ?_⟩,
    fun hserves => ⟨fun hrange => ?_, fun hlow hhigh => ?_⟩, fun hserves hport => ?_,
    fun hserves hport => ⟨fun hlost => ?_, fun hlost => ?_⟩⟩
  · have hok : ¬ 0x1FFFE < fld d.payload 8 4 := by omega
    exact serveCommand_completes (c := .setModuleNumber k) rfl hserves
      (by rw [runSetModuleNumber, if_neg hok, if_pos hset]; rfl)
  · have hok : ¬ 0x1FFFE < fld d.payload 8 4 := by omega
    exact serveCommand_completes (c := .setModuleNumber k) rfl hserves
      (by rw [runSetModuleNumber, if_neg hok, hset, if_neg Bool.false_ne_true]; rfl)
  · exact serveCommand_completes (c := .loadRoutes k) rfl hserves
      (runLoadRoutes_accepted hn hend hdies hdies3 hsrc hread)
  · exact serveCommand_completes (c := .loadEthTable k) rfl hserves (runLoadEthTable_accepted hend hsrc hread)
  · exact serveCommand_completes (c := .loadInjection k) rfl hserves ((runLoadInjection_cases (b := b) hend hsrc).1 htest)
  · exact serveCommand_completes (c := .loadInjection k) rfl hserves
      ((runLoadInjection_cases hend hsrc).2 htest hn hread hgood)
  · exact serveCommand_completes (c := .setTransport k) rfl hserves (by rw [runSetTransport, if_pos hrange]; rfl)
  · have hok : ¬ (fld d.payload 8 4 < 5 ∨ 10000 < fld d.payload 8 4) := by omega
    exact serveCommand_completes (c := .setTransport k) rfl hserves (by rw [runSetTransport, if_neg hok]; rfl)
  · have hok : ¬ 15 < fld d.payload 8 1 := by omega
    exact serveCommand_completes (c := .portStatus k) rfl hserves (by rw [runPortStatus, if_neg hok]; rfl)
  · exact serveCommand_completes (c := .portReset k) rfl hserves ((runPortReset_cases hport).1 hlost)
  · exact (serveCommand_waits (c := .portReset k) rfl hserves ((runPortReset_cases hport).2 hlost)).trans
      (congrArg Host.Outcome.next (afterCommand_of_coh s k _ (s.work.setPort (fld d.payload 8 1) startRetrain) rfl))

end Sys2Proof.Machine

/-! ### FW2: groups (14 R446, 12 R384 to R386, R394) -/

namespace Sys2Proof.Machine

/-- SET_CQ with its arguments in order. -/
theorem runSetCq_cases {h : Hub} {w : Work} {k : Nat} {p : List Byte} (hq : fld p 8 1 ≤ 15) (hen : fld p 0x18 1 ≤ 1)
    (hring : ringArgsOk (fld p 0x10 8) (fld p 9 1) = true) :
    (cqRuns (collQ w (fld p 8 1)) = true → runSetCq h w k p = mbRefuse h w 0x0606) ∧
    (cqRuns (collQ w (fld p 8 1)) = false → fld p 0x18 1 = 0 →
      runSetCq h w k p =
        mbDone h
          (w.setCollQ (fld p 8 1) (fun _ =>
            { resetCollQueue with
              base := fld p 0x10 8, log2 := fld p 9 1, nextSeq := BitVec.ofNat 32 (fld p 0x0C 4) })) []) ∧
    (cqRuns (collQ w (fld p 8 1)) = false → fld p 0x18 1 = 1 →
      (ringPlaced h (fld p 0x10 8) (fld p 9 1) = false → runSetCq h w k p = mbRefuse h w 0x0103) ∧
      (ringPlaced h (fld p 0x10 8) (fld p 9 1) = true →
        runSetCq h w k p =
          mbDone h
            ((sealRing h w (fld p 0x10 8) (fld p 9 1) (BitVec.ofNat 32 (fld p 0x0C 4))).setCollQ (fld p 8 1) (fun _ =>
              { resetCollQueue with
                enabled := true, base := fld p 0x10 8, log2 := fld p 9 1
                nextSeq := BitVec.ofNat 32 (fld p 0x0C 4) })) [])) := by
  have hargs : ¬ (15 < fld p 8 1 ∨ 1 < fld p 0x18 1 ∨ (!ringArgsOk (fld p 0x10 8) (fld p 9 1)) = true) := by
    rw [hring]
    simp only [Bool.not_true, Bool.false_eq_true, or_false]
    omega
  refine ⟨fun hruns => ?_, fun hidle hoff => ?_, fun hidle hon => ⟨fun hplaced => ?_, fun hplaced => ?_⟩⟩
  · simp only [runSetCq, if_neg hargs, if_pos hruns]
  · have hno : ¬ (fld p 0x18 1 = 1 ∧ (!ringPlaced h (fld p 0x10 8) (fld p 9 1)) = true) := by omega
    have hne : ¬ fld p 0x18 1 = 1 := by omega
    have hdisabled : (fld p 0x18 1 == 1) = false := beq_false_of_ne hne
    simp only [runSetCq, if_neg hargs, hidle, Bool.false_eq_true, if_false, if_neg hno, if_neg hne, hdisabled]
    rfl
  · have hbad : fld p 0x18 1 = 1 ∧ (!ringPlaced h (fld p 0x10 8) (fld p 9 1)) = true := ⟨hon, by rw [hplaced]; rfl⟩
    simp only [runSetCq, if_neg hargs, hidle, Bool.false_eq_true, if_false, if_pos hbad]
  · have hok : ¬ (fld p 0x18 1 = 1 ∧ (!ringPlaced h (fld p 0x10 8) (fld p 9 1)) = true) := by rw [hplaced]; simp
    have henabled : (fld p 0x18 1 == 1) = true := by rw [hon]; rfl
    simp only [runSetCq, if_neg hargs, hidle, Bool.false_eq_true, if_false, if_neg hok, if_pos hon, henabled]

section
variable {h : Hub} {w : Work} {k : Nat} {p b : List Byte}

/-- GROUP_CHANGE with its arguments in order is refused by an entry that cannot change. -/
theorem runGroupChange_refused (hg : fld p 8 2 ≤ 4095) (hn : fld p 0x18 4 ≠ 0) (hmax : fld p 0x18 4 ≤ 65536)
    (haddr : addrArg h (fld p 0x10 8) (4 * fld p 0x18 4) 64 = true) (hentry : gazEntry h w (fld p 8 2) = .ok b)
    (hbad : gazValid b = false ∨ fld b 8 4 ≠ 0 ∨ bitOf (fld b 0x28 4) 0 = true) :
    runGroupChange h w k p = mbRefuse h w 0x0606 := by
  have hargs : ¬ (4095 < fld p 8 2 ∨ fld p 0x18 4 = 0 ∨ 65536 < fld p 0x18 4 ∨
      (!addrArg h (fld p 0x10 8) (4 * fld p 0x18 4) 64) = true) := by
    rw [haddr]
    simp only [Bool.not_true, Bool.false_eq_true, or_false]
    omega
  have hrefuse : (!gazValid b || fld b 8 4 != 0 || bitOf (fld b 0x28 4) 0) = true := by
    rcases hbad with hv | hm | hp
    · rw [hv]
      rfl
    · rw [bne_iff_ne.mpr hm, Bool.or_true, Bool.true_or]
    · rw [hp, Bool.or_true]
  simp only [runGroupChange, if_neg hargs, hentry, hrefuse, if_true]

/-- What a change sends, and how its messages end. -/
theorem runGroupChange_tells {old new others : List Nat} {v w2 : Work} {c : Code} (hg : fld p 8 2 ≤ 4095)
    (hn : fld p 0x18 4 ≠ 0) (hmax : fld p 0x18 4 ≤ 65536) (haddr : addrArg h (fld p 0x10 8) (4 * fld p 0x18 4) 64 = true)
    (hentry : gazEntry h w (fld p 8 2) = .ok b) (hvalid : gazValid b = true) (hmaster : fld b 8 4 = 0)
    (hpending : bitOf (fld b 0x28 4) 0 = false) (hold : gazMembers h w b = .ok old)
    (hnew : memberArray h w (fld p 0x10 8) (fld p 0x18 4) = .ok new)
    (hothers : others = ((old ++ new).filter (fun m => !isSelf h m)).eraseDups)
    (hv : v = pendingFields h w (fld p 8 2) (fld p 0x1C 4) (BitVec.ofNat 32 (fld p 0x0C 4)) (fld p 0x10 8) (fld p 0x18 4)
      (pendingIndex new (ownNumber h)))
    (htell : tellMembers h v (fld p 8 2) (fld p 0x1C 4) (BitVec.ofNat 32 (fld p 0x0C 4)) (fld p 0x10 8) new others = (w2, c)) :
    runGroupChange h w k p =
      if c ≠ 0 then mbRefuse h w2 c
      else if others = [] then mbDone h w2 []
      else
        mbLater h
          (w2.setFabric (fun f =>
            { f with
              changes :=
                ⟨fld p 8 2, k, others.flatMap (fun m => (groupParts new).map (fun _ => m))⟩ ::
                  f.changes.filter (fun x => x.group != fld p 8 2) })) k := by
  have hargs : ¬ (4095 < fld p 8 2 ∨ fld p 0x18 4 = 0 ∨ 65536 < fld p 0x18 4 ∨
      (!addrArg h (fld p 0x10 8) (4 * fld p 0x18 4) 64) = true) := by
    rw [haddr]
    simp only [Bool.not_true, Bool.false_eq_true, or_false]
    omega
  have haccept : (!gazValid b || fld b 8 4 != 0 || bitOf (fld b 0x28 4) 0) = false := by
    rw [hvalid, hmaster, hpending]
    rfl
  simp only [runGroupChange, if_neg hargs, hentry, haccept, Bool.false_eq_true, if_false, hold, hnew, ← hothers, ← hv, htell]

end

/-- Settles O47: each command reaches its own check, which its arguments and the state of the group decide. -/
theorem groupCommandsTakeEffect : Obligations.GroupCommandsTakeEffect := by
  intro s k d
  refine ⟨fun hserves haddr => ⟨fun hruns => ?_, fun hidle => ?_⟩, fun hserves hq hen hring => ⟨fun hruns => ?_,
    fun hidle hoff => ?_, fun hidle hon => ⟨fun hplaced => ?_, fun hplaced => ?_⟩⟩, fun hserves hq => ?_,
    fun hserves hg => ⟨fun hflight => ?_, fun hfree => ?_⟩, fun b hserves hg hn hmax haddr hentry => ⟨fun hbad => ?_,
      fun old new others w hvalid hmaster hpending hold hnew hothers hw => ⟨fun hnone => ?_, fun w2 c hsome htell =>
        ⟨fun hc => ?_, fun hc => ?_⟩⟩⟩⟩
  · exact serveCommand_completes (c := .setGazBase k) rfl hserves
      (by simp only [runSetGazBase, haddr, Bool.not_true, Bool.false_eq_true, if_false, if_pos hruns]; rfl)
  · exact serveCommand_completes (c := .setGazBase k) rfl hserves
      (by simp only [runSetGazBase, haddr, Bool.not_true, Bool.false_eq_true, if_false, hidle]; rfl)
  · exact serveCommand_completes (c := .setCq k) rfl hserves ((runSetCq_cases hq hen hring).1 hruns)
  · exact serveCommand_completes (c := .setCq k) rfl hserves ((runSetCq_cases hq hen hring).2.1 hidle hoff)
  · exact serveCommand_completes (c := .setCq k) rfl hserves (((runSetCq_cases hq hen hring).2.2 hidle hon).1 hplaced)
  · exact serveCommand_completes (c := .setCq k) rfl hserves (((runSetCq_cases hq hen hring).2.2 hidle hon).2 hplaced)
  · have hok : ¬ 15 < fld d.payload 8 1 := by omega
    exact serveCommand_completes (c := .cqClearStop k) rfl hserves (by rw [runCqClearStop, if_neg hok]; rfl)
  · have hok : ¬ 4095 < fld d.payload 8 2 := by omega
    exact serveCommand_completes (c := .setNextSeq k) rfl hserves
      (by rw [runSetNextSeq, if_neg hok, if_pos hflight]; rfl)
  · have hok : ¬ 4095 < fld d.payload 8 2 := by omega
    exact serveCommand_completes (c := .setNextSeq k) rfl hserves
      (by rw [runSetNextSeq, if_neg hok, hfree, if_neg Bool.false_ne_true]; rfl)
  · exact serveCommand_completes (c := .groupChange k) rfl hserves (runGroupChange_refused hg hn hmax haddr hentry hbad)
  · have htell : tellMembers s.hub w (fld d.payload 8 2) (fld d.payload 0x1C 4) (BitVec.ofNat 32 (fld d.payload 0x0C 4))
        (fld d.payload 0x10 8) new others = (w, 0) := by
      rw [hnone]
      rfl
    exact serveCommand_completes (c := .groupChange k) rfl hserves
      ((runGroupChange_tells hg hn hmax haddr hentry hvalid hmaster hpending hold hnew hothers hw htell).trans
        (by rw [if_neg (fun h => h rfl), if_pos hnone]; rfl))
  · exact serveCommand_completes (c := .groupChange k) rfl hserves
      ((runGroupChange_tells hg hn hmax haddr hentry hvalid hmaster hpending hold hnew hothers hw htell).trans
        (by rw [if_pos hc]; rfl))
  · exact serveCommand_waits (c := .groupChange k) rfl hserves
      ((runGroupChange_tells hg hn hmax haddr hentry hvalid hmaster hpending hold hnew hothers hw htell).trans
        (by rw [if_neg (fun h => h hc), if_neg hsome]; rfl))

end Sys2Proof.Machine

/-! ### The commands of FW3, FW4 and FW5 (14 R446) -/

namespace Sys2Proof.Machine

theorem contains_addOnce (l : List Nat) (a x : Nat) : (addOnce l a).contains x = (l.contains x || x == a) := by
  unfold addOnce
  split
  next ha =>
    by_cases hx : x = a
    · rw [hx, ha]
      rfl
    · rw [beq_false_of_ne hx, Bool.or_false]
  next ha => simp [beq_eq_decide]

/-- An engine that retires is present no more; every other one is as it was. -/
theorem present_retireNow (h : Hub) (w : Work) (e x : Nat) :
    present (retireNow h w e).1 x = (present h x && x != e) := by
  simp only [present, retired, retireNow, contains_addOnce, bne]
  cases decide (x < 72) <;> cases h.ident.cfgRetired.contains x <;> cases h.ident.cmdRetired.contains x <;> rfl

/-- MB_OPEN of a mailbox other than 0, with its arguments in order. -/
theorem runMbOpen_cases {h : Hub} {w : Work} {k : Nat} {p : List Byte} (hj : fld p 8 1 ≠ 0) (hmax : fld p 8 1 ≤ 15)
    (hpriv : fld p 0x0B 1 ≤ 1) (hcmd : ringArgsOk (fld p 0x10 8) (fld p 9 1) = true)
    (hcpl : ringArgsOk (fld p 0x18 8) (fld p 0x0A 1) = true) :
    ((h.mailbox (fld p 8 1)).isOpen = true → runMbOpen h w k p = mbRefuse h w 0x0606) ∧
    (∀ m : Mailbox, (h.mailbox (fld p 8 1)).isOpen = false → ringPlaced h (fld p 0x10 8) (fld p 9 1) = true →
      ringPlaced h (fld p 0x18 8) (fld p 0x0A 1) = true →
      m = { resetMailbox with
            isOpen := true, priv := fld p 0x0B 1 == 1, cmdBase := fld p 0x10 8, cmdLog2 := fld p 9 1
            cplBase := fld p 0x18 8, cplLog2 := fld p 0x0A 1, doneSeq := 0xFFFFFFFF } →
      runMbOpen h w k p = mbDone (h.setMailbox (fld p 8 1) (fun _ => m)) (openMailbox h w (fld p 8 1) m) []) := by
  have hargs : ¬ (fld p 8 1 = 0 ∨ 15 < fld p 8 1 ∨ 1 < fld p 0x0B 1 ∨ (!ringArgsOk (fld p 0x10 8) (fld p 9 1)) = true ∨
      (!ringArgsOk (fld p 0x18 8) (fld p 0x0A 1)) = true) := by
    rw [hcmd, hcpl]
    simp only [Bool.not_true, Bool.false_eq_true, or_false]
    omega
  refine ⟨fun hopen => ?_, fun m hclosed hplaced hplaced2 hm => ?_⟩
  · simp only [runMbOpen, if_neg hargs, if_pos hopen]
  · have hok : ¬ ((!ringPlaced h (fld p 0x10 8) (fld p 9 1)) = true ∨ (!ringPlaced h (fld p 0x18 8) (fld p 0x0A 1)) = true) := by
      rw [hplaced, hplaced2]
      simp
    simp only [runMbOpen, if_neg hargs, hclosed, Bool.false_eq_true, if_false, if_neg hok, hm]

/-- SET_TENSOR_TABLE with its arguments in order waits for no stream and no step. -/
theorem runSetTensorTable_cases {h : Hub} {w : Work} {k : Nat} {p : List Byte} (hlog : fld p 8 1 ≤ 20)
    (halign : fld p 0x10 8 % 4096 = 0)
    (hin : fld p 8 1 ≠ 0 → inLpddr h (fld p 0x10 8) (256 * 2 ^ fld p 8 1) = true) :
    ((streamsRun w = true ∨ w.upd.phase ≠ 0) → runSetTensorTable h w k p = mbRefuse h w 0x0606) ∧
    (streamsRun w = false → w.upd.phase = 0 →
      runSetTensorTable h w k p = mbDone h (setTensorTable w (fld p 8 1) (fld p 0x10 8)) []) := by
  have hargs : ¬ (20 < fld p 8 1 ∨ fld p 0x10 8 % 4096 ≠ 0 ∨
      (fld p 8 1 ≠ 0 ∧ (!inLpddr h (fld p 0x10 8) (256 * 2 ^ fld p 8 1)) = true)) := by
    rintro (hbig | hodd | ⟨hne, hout⟩)
    · omega
    · exact hodd halign
    · simp [hin hne] at hout
  refine ⟨fun hbusy => ?_, fun hstreams hstep => ?_⟩
  · have hrefuse : (streamsRun w || w.upd.phase != 0) = true := by
      rw [Bool.or_eq_true, bne_iff_ne]
      exact hbusy
    simp only [runSetTensorTable, if_neg hargs, if_pos hrefuse]
  · have haccept : (streamsRun w || w.upd.phase != 0) = false := by rw [hstreams, hstep]; rfl
    simp only [runSetTensorTable, if_neg hargs, haccept, Bool.false_eq_true, if_false]

/-- SET_XLATE with its arguments in order waits for no stream, no step and no copier. -/
theorem runSetXlate_cases {h : Hub} {w : Work} {k : Nat} {p : List Byte} (hen : fld p 8 1 ≤ 1)
    (halign : fld p 0x10 8 % 8192 = 0) (hin : fld p 8 1 = 1 → inLpddr h (fld p 0x10 8) 8192 = true) :
    ((streamsRun w = true ∨ w.upd.phase ≠ 0 ∨ w.copier.phase ≠ 0) → runSetXlate h w k p = mbRefuse h w 0x0606) ∧
    (streamsRun w = false → w.upd.phase = 0 → w.copier.phase = 0 →
      runSetXlate h w k p = mbDone h (setXlate w (fld p 8 1 == 1) (fld p 0x10 8)) []) := by
  have hargs : ¬ (1 < fld p 8 1 ∨ fld p 0x10 8 % 8192 ≠ 0 ∨
      (fld p 8 1 = 1 ∧ (!inLpddr h (fld p 0x10 8) 8192) = true)) := by
    rintro (hbig | hodd | ⟨hon, hout⟩)
    · omega
    · exact hodd halign
    · simp [hin hon] at hout
  refine ⟨fun hbusy => ?_, fun hstreams hstep hcopier => ?_⟩
  · have hrefuse : (streamsRun w || w.upd.phase != 0 || w.copier.phase != 0) = true := by
      rw [Bool.or_eq_true, Bool.or_eq_true, bne_iff_ne, bne_iff_ne, or_assoc]
      exact hbusy
    simp only [runSetXlate, if_neg hargs, if_pos hrefuse]
  · have haccept : (streamsRun w || w.upd.phase != 0 || w.copier.phase != 0) = false := by
      rw [hstreams, hstep, hcopier]
      rfl
    simp only [runSetXlate, if_neg hargs, haccept, Bool.false_eq_true, if_false]

/-- SET_LOG_RING with its arguments in order sets a ring that is placed. -/
theorem runSetLogRing_cases {h : Hub} {w : Work} {k : Nat} {p : List Byte} (hc : fld p 8 1 ≤ 11)
    (hring : ringArgsOk (fld p 0x10 8) (fld p 9 1) = true) :
    (ringPlaced h (fld p 0x10 8) (fld p 9 1) = false → runSetLogRing h w k p = mbRefuse h w 0x0103) ∧
    (ringPlaced h (fld p 0x10 8) (fld p 9 1) = true →
      runSetLogRing h w k p =
        mbDone h
          ((sealRing h w (fld p 0x10 8) (fld p 9 1) 0).setLogs (fun l =>
            { l with
              heads := l.heads.set (fld p 8 1) 0
              rings := l.rings.set (fld p 8 1) (some ⟨fld p 0x10 8, fld p 9 1, 0⟩) })) []) := by
  have hargs : ¬ (11 < fld p 8 1 ∨ (!ringArgsOk (fld p 0x10 8) (fld p 9 1)) = true) := by
    rw [hring]
    simp only [Bool.not_true, Bool.false_eq_true, or_false]
    omega
  constructor
  · intro hplaced
    simp only [runSetLogRing, if_neg hargs, hplaced, Bool.not_false, if_true]
  · intro hplaced
    simp only [runSetLogRing, if_neg hargs, hplaced, Bool.not_true, Bool.false_eq_true, if_false]

/-- Settles O48: each command reaches its own check, which its arguments pass or fail. -/
theorem rasAndServiceCommandsTakeEffect : Obligations.RasAndServiceCommandsTakeEffect := by
  refine ⟨fun s k d => ⟨fun hserves hn hdst => ?_, fun hserves ha => ?_, fun hserves ha hdst => ⟨fun hmode => ?_,
    fun hmode => ?_⟩, fun hserves he => ⟨fun hgone => ?_, fun hthere x hx => ⟨?_, ?_, fun e hne => ?_, ?_⟩⟩,
    fun hserves he => ?_, fun hserves he => ?_⟩, fun s k d => ⟨fun hserves hj hmax hpriv hcmd hcpl => ⟨fun hopen => ?_,
      fun m hclosed hplaced hplaced2 hm => ?_⟩, fun hserves hj hmax => ?_, fun hserves hlog halign hin =>
      ⟨fun hbusy => ?_, fun hstreams hstep => ?_⟩, fun hserves hen halign hin => ⟨fun hbusy => ?_,
        fun hstreams hstep hcopier => ?_⟩, fun hserves => ?_, fun hserves hn => ?_, fun hserves hc hring =>
        ⟨fun hplaced => ?_, fun hplaced => ?_⟩⟩⟩
  · have hok : ¬ (23 < fld d.payload 8 1 ∨ (!addrArg s.hub (fld d.payload 0x10 8) 2048 64) = true) := by
      rw [hdst]
      simp only [Bool.not_true, Bool.false_eq_true, or_false]
      omega
    exact serveCommand_completes (c := .quarantineRead k) rfl hserves (by rw [runQuarantineRead, if_neg hok]; rfl)
  · exact serveCommand_completes (c := .quarantineClear k) rfl hserves
      (by rw [runQuarantineClear, ha, Bool.not_true, if_neg Bool.false_ne_true]; rfl)
  · have hok : ¬ ((!addrArg s.hub (fld d.payload 8 8) 64 64) = true ∨ (!addrArg s.hub (fld d.payload 0x10 8) 16 16) = true) := by
      rw [ha, hdst]
      simp
    exact serveCommand_completes (c := .dirRead k) rfl hserves
      (by rw [runDirRead, if_neg hok, hmode, Bool.not_false, if_pos rfl]; rfl)
  · have hok : ¬ ((!addrArg s.hub (fld d.payload 8 8) 64 64) = true ∨ (!addrArg s.hub (fld d.payload 0x10 8) 16 16) = true) := by
      rw [ha, hdst]
      simp
    exact serveCommand_completes (c := .dirRead k) rfl hserves
      (by rw [runDirRead, if_neg hok, hmode, Bool.not_true, if_neg Bool.false_ne_true]; rfl)
  · have hok : ¬ 71 < fld d.payload 8 1 := by omega
    exact serveCommand_completes (c := .retireEngine k) rfl hserves
      (by rw [runRetireEngine, if_neg hok, if_pos hgone]; rfl)
  · have hok : ¬ 71 < fld d.payload 8 1 := by omega
    rw [hx]
    exact serveCommand_completes (c := .retireEngine k) rfl hserves
      (by rw [runRetireEngine, if_neg hok, hthere, if_neg Bool.false_ne_true]; rfl)
  · rw [hx, present_retireNow, bne_self_eq_false, Bool.and_false]
  · rw [hx, present_retireNow, bne_iff_ne.mpr hne, Bool.and_true]
  · rw [hx]
    rfl
  · exact serveCommand_completes (c := .rasCounts k) rfl hserves (by rw [runRasCounts, if_pos he]; rfl)
  · have hne : ¬ fld d.payload 8 1 = 0xFF := by omega
    have hok : ¬ 71 < fld d.payload 8 1 := by omega
    exact serveCommand_completes (c := .rasCounts k) rfl hserves (by rw [runRasCounts, if_neg hne, if_neg hok]; rfl)
  · exact serveCommand_completes (c := .mbOpen k) rfl hserves ((runMbOpen_cases hj hmax hpriv hcmd hcpl).1 hopen)
  · exact serveCommand_completes (c := .mbOpen k) rfl hserves
      ((runMbOpen_cases hj hmax hpriv hcmd hcpl).2 m hclosed hplaced hplaced2 hm)
  · have hok : ¬ (fld d.payload 8 1 = 0 ∨ 15 < fld d.payload 8 1) := by omega
    exact serveCommand_completes (c := .mbClose k) rfl hserves (by rw [runMbClose, if_neg hok]; rfl)
  · exact serveCommand_completes (c := .setTensorTable k) rfl hserves ((runSetTensorTable_cases hlog halign hin).1 hbusy)
  · exact serveCommand_completes (c := .setTensorTable k) rfl hserves
      ((runSetTensorTable_cases hlog halign hin).2 hstreams hstep)
  · exact serveCommand_completes (c := .setXlate k) rfl hserves ((runSetXlate_cases hen halign hin).1 hbusy)
  · exact serveCommand_completes (c := .setXlate k) rfl hserves ((runSetXlate_cases hen halign hin).2 hstreams hstep hcopier)
  · exact serveCommand_completes (c := .telemetry k) (run := runTelemetry) rfl hserves rfl
  · have hok : ¬ 5 < fld d.payload 8 1 := by omega
    exact serveCommand_completes (c := .dumpClear k) rfl hserves (by rw [runDumpClear, if_neg hok]; rfl)
  · exact serveCommand_completes (c := .setLogRing k) rfl hserves ((runSetLogRing_cases hc hring).1 hplaced)
  · exact serveCommand_completes (c := .setLogRing k) rfl hserves ((runSetLogRing_cases hc hring).2 hplaced)

end Sys2Proof.Machine

/-! ### Resets (15 R489): a cluster's dirty line outside LPDDR5X -/

namespace Sys2Proof.Machine

theorem stopOps_idle {h : Hub} {w : Work} {e : Nat} (hops : (w.engine e).ops = []) : stopOps h w e = w := by
  simp only [stopOps, hops, List.filter_nil, List.foldl_nil]

theorem stopEngines_idle {h : Hub} {w : Work} (hops : ∀ e, (w.engine e).ops = []) : stopEngines h w = w :=
  List.foldl_fixed' (fun e => stopOps_idle (hops e)) _

theorem abortCollectives_idle {h : Hub} {w : Work} {code : Code} (hcur : ∀ k, (collQ w k).cur = none) :
    abortCollectives h w code = w :=
  List.foldl_fixed' (fun k => by simp only [hcur k]) _

theorem refuseInbox_idle {h : Hub} {w : Work} (hinbox : w.fabric.inbox = []) : refuseInbox h w = w := by
  have hsame : { w with fabric := { w.fabric with inbox := [] } } = w := by rw [← hinbox]
  simp only [refuseInbox, hinbox, List.filter_nil, List.foldl_nil, hsame]

theorem resetUpdateStep_idle {h : Hub} {w : Work} (hphase : w.upd.phase = 0) : resetUpdateStep h w = w := by
  rw [resetUpdateStep, if_pos hphase]

theorem resetCopierRun_idle {h : Hub} {w : Work} (hphase : w.copier.phase = 0) : resetCopierRun h w = w := by
  rw [resetCopierRun, if_pos hphase]

theorem faultCores_idle {h : Hub} {w : Work}
    (htxns : (w.coh.homes.drop 8).flatMap (fun hm => hm.txns.filter (fun t => t.agent < 8)) = []) : faultCores h w = w := by
  rw [faultCores, htxns, List.foldl_nil]

/-- With nothing in flight an engine-complex reset only loses the complex. -/
theorem complexReset_idle {h : Hub} {w : Work} (hops : ∀ e, (w.engine e).ops = []) (hinbox : w.fabric.inbox = [])
    (hcur : ∀ k, (collQ w k).cur = none) (hupd : w.upd.phase = 0) (hcopier : w.copier.phase = 0) :
    (complexReset h w).2.mem = (loseComplex (setReady h false) w).mem := by
  have hidle : endComplexWork (setReady h false) (resetCopierRun (setReady h false) w) = w := by
    rw [resetCopierRun_idle hcopier, endComplexWork, stopEngines_idle hops, refuseInbox_idle hinbox,
      abortCollectives_idle hcur, resetUpdateStep_idle hupd]
  simp only [complexReset, hidle]
  obtain ⟨l, hl⟩ := emit_spec (setReady h false) (loseComplex (setReady h false) w)
    ⟨10, 0x0701, 53, unitOf 0 0, 0, leBytes 4 (lostLines (setReady h false) w)⟩
  rw [hl]

theorem work_of_engineComplexReset {s t : State} (hruns : complexRuns s.hub = true)
    (hexec : exec .engineComplexReset s = .next t) : t.work = (complexReset s.hub s.work).2 := by
  have hreset : exec .engineComplexReset s =
      .next { s with hub := (complexReset s.hub s.work).1, work := (complexReset s.hub s.work).2 } := if_pos hruns
  rw [hexec] at hreset
  rw [Host.Outcome.next.inj hreset]

section
variable {h : Hub} {w : Work} {l : CacheLine} (hlines : w.coh.lines = [l]) (hvictims : w.coh.victims = [])
  (hmode : h.ident.cfg.coherenceMode = false)
include hlines hvictims

/-- The line of a cluster stays where the edge caches are flushed. -/
theorem flushEdges_single (hagent : l.agent < 8) :
    (flushEdges h w).coh.lines = [l] ∧ (flushEdges h w).coh.victims = [] := by
  have hnot : ¬ 8 ≤ l.agent := by omega
  simp [flushEdges, evictAll, hlines, hvictims, hagent, hnot]

include hmode

/-- The only line of the caches, dirty and to be evicted, goes to its home. -/
theorem mem_evictAll_single {p : Nat → Nat → Bool} (hp : p l.agent l.line = true) (hdirty : dirty l = true) :
    (evictAll h w p).mem = (dataToHome w l.line l.data l.bad).mem := by
  have hout : [l].filter (fun x => p x.agent x.line) = [l] := by simp [hp]
  simp only [evictAll, hlines, hvictims, hout, List.filter_nil, List.foldl_nil, List.foldl_cons, List.map_cons,
    List.map_nil, hdirty, if_true, dirNote, hmode, Bool.false_eq_true, if_false]

/-- A dirty line of a cluster whose home resets is written back at the end of the reset. -/
theorem mem_loseComplex_single (hagent : l.agent < 8) (hhome : 8 ≤ lineHome l.line) (hdirty : dirty l = true)
    (hbad : l.bad = false)
    (htxns : (w.coh.homes.drop 8).flatMap (fun hm => hm.txns.filter (fun t => t.agent < 8)) = []) :
    ∃ m, (loseComplex h w).mem = memWrite m (l.line * 128) ((List.range 128).map (fun i => l.data.getD i 0)) := by
  obtain ⟨hleft, hnone⟩ := flushEdges_single (h := h) hlines hvictims hagent
  have hwritten := mem_evictAll_single
    (w := clearSram h (resetEngines (dropEngineRequests (resetHomes (flushEdges h w))))) hleft hnone hmode
    (p := fun a ln => decide (a < 8) && decide (8 ≤ lineHome ln)) (by simp [hagent, hhome]) hdirty
  rw [loseComplex, faultCores_idle htxns, flushClusters, hwritten, dataToHome, hbad, if_neg Bool.false_ne_true]
  exact ⟨_, rfl⟩

end

theorem mem_of_memGet_ne {m : List Host.Cell} {a : Nat} (h : memGet m a ≠ 0) : ∃ c ∈ m, c.1 = a := by
  induction m with
  | nil => exact absurd rfl h
  | cons c m ih =>
    by_cases hc : c.1 = a
    · exact ⟨c, List.mem_cons_self, hc⟩
    · rw [memGet, if_neg hc] at h
      obtain ⟨d, hd, hda⟩ := ih h
      exact ⟨d, List.mem_cons_of_mem c hd, hda⟩

/-- A dirty line of cluster 0 whose home is one of M8 to M23, and whose address lies at 0x00C0_0000_0C00, above the end of
LPDDR5X of either variant. -/
def strayLine : CacheLine := ⟨0, 0x180000018, .m, [1], false, false⟩

/-- A module whose engine complex runs, with nothing in flight, and the stray line in a cluster cache. -/
def strayState : State :=
  { State.reset with
    hub := { resetHub with ident := { resetIdent with complexReady := true } }
    work := { resetWork with coh := { resetCoherence with lines := [strayLine] } } }

theorem stray_ops (e : Nat) : (strayState.work.engine e).ops = [] := by
  by_cases he : e < 72
  · exact congrArg (·.ops) (engine_reset he)
  · rw [Work.engine, List.getD_eq_default]
    · rfl
    · simpa [strayState, State.reset, resetWork] using he

theorem stray_cur (k : Nat) : (collQ strayState.work k).cur = none := by
  change ((List.replicate 16 resetCollQueue).getD k resetCollQueue).cur = none
  rw [List.getD_eq_getElem?_getD, List.getElem?_replicate]
  split <;> rfl

/-- The stray line's first byte stands in memory after the reset. -/
theorem stray_written : ∃ c ∈ (complexReset strayState.hub strayState.work).2.mem, c.1 = 0xC000000C00 := by
  obtain ⟨m, hm⟩ := mem_loseComplex_single (h := setReady strayState.hub false) (w := strayState.work) (l := strayLine)
    rfl rfl rfl (by decide) (by decide) rfl rfl rfl
  rw [complexReset_idle stray_ops rfl stray_cur rfl rfl, hm]
  apply mem_of_memGet_ne
  have hbyte := memGet_write_in m (strayLine.line * 128) ((List.range 128).map (fun i => strayLine.data.getD i 0)) 0 (by simp)
  rw [Nat.add_zero] at hbyte
  rw [show 0xC000000C00 = strayLine.line * 128 from rfl, hbyte]
  decide

/-- Refutes O50: an engine-complex reset writes the clusters' dirty lines back last (R489 step 6), and a state may hold one
whose address is not below the end of LPDDR5X; its byte then stands in memory above that end. -/
theorem not_resetsAndHostLinkAct : ¬ Obligations.ResetsAndHostLinkAct := by
  rintro ⟨hresets, _⟩
  obtain ⟨_, _, _, _, _, _, hcomplex, _⟩ := hresets strayState
  have hruns : complexRuns strayState.hub = true := rfl
  obtain ⟨t, hexec, _, hmem, _⟩ := hcomplex hruns
  have ht : t.work = (complexReset strayState.hub strayState.work).2 := work_of_engineComplexReset hruns hexec
  obtain ⟨c, hc, haddr⟩ := stray_written
  rw [← ht] at hc
  have hbelow : c.1 < 0xC000000000 := hmem c hc
  rw [haddr] at hbelow
  exact absurd hbelow (by decide)

end Sys2Proof.Machine

/-! ### Over-current and the engine rail (15 R470 to R475) -/

namespace Sys2Proof.Machine

/-- A trip enters its code, its source and its value. -/
theorem trip_tripped {s : State} {h : Hub} (w : Work) (code : Code) (source value : Nat) {t : State}
    (hcount : h.safety.tripCount = s.hub.safety.tripCount) (hlog : h.safety.tripLog = s.hub.safety.tripLog)
    (ht : t.hub.safety = (trip h w code source value).1.safety) : Tripped s t code source value := by
  unfold Tripped
  rw [ht, ← hcount, ← hlog]
  exact ⟨rfl, rfl, w.logs.domainCounts.getD 54 0, rfl⟩

theorem tripped_onState {s : State} {h : Hub} {w : Work} {code : Code} {source value : Nat}
    (hcount : h.safety.tripCount = s.hub.safety.tripCount) (hlog : h.safety.tripLog = s.hub.safety.tripLog) :
    Tripped s { s with hub := (trip h w code source value).1, work := (trip h w code source value).2 } code source value :=
  trip_tripped w code source value hcount hlog rfl

/-- The first action of an over-current response, whatever part of the condition it sets. -/
theorem exec_overcurrent {s : State} {c : Instr} {f : Safety → Safety}
    (hexec : exec c s = onState s (beginOvercurrent s.hub s.work f)) (hcap : ∀ x, (f x).capMv = x.capMv)
    (hover : ∀ x, overCurrent (f x) = true) (hlimits : ∀ x, (f x).limits = x.limits)
    (hcount : ∀ x, (f x).tripCount = x.tripCount) (hlog : ∀ x, (f x).tripLog = x.tripLog) :
    ∃ t : State, exec c s = .next t ∧
      t.hub.safety.capMv = max 600 (min s.hub.safety.requestMv s.hub.safety.capMv - 10) ∧
      emergency t.hub.safety = true ∧ t.hub.ident = s.hub.ident ∧ t.hub.safety.limits = s.hub.safety.limits ∧
      Tripped s t 0x0702 0xFF s.hub.safety.power := by
  refine ⟨_, hexec, (hcap _).trans ?_, ?_, rfl, hlimits _, tripped_onState (hcount _) (hlog _)⟩
  · have hmin : min s.hub.safety.capMv (setpointMv s.hub.safety) = min s.hub.safety.requestMv s.hub.safety.capMv := by
      rw [setpointMv]
      omega
    rw [lowerCap, hmin]
  · have hcondition : overCurrent (beginOvercurrent s.hub s.work f).1.safety = true := hover _
    rw [emergency, hcondition]
    rfl

theorem exec_inputSample {s : State} (hpow : s.hub.ident.powered = true) (power volts : Nat) :
    exec (.inputSample power volts) s =
      .next { s with
        hub := s.hub.setSafety (fun x => sampleInput x power volts (fun n => (Config.freeRailMv s.work.freeIx n).toNat))
        work := s.work.tick } := by
  simp only [exec, execInputSample, if_pos (show scRuns s.hub = true from hpow)]

/-- Settles O51: each command is one test of the safety partition, and an update of it. -/
theorem overcurrentLowersTheRail : Obligations.OvercurrentLowersTheRail := by
  intro s hpow
  refine ⟨fun c hc => ?_, fun power volts => ?_, fun hcond => ⟨fun hcap => ?_, fun hcap hparked => ?_⟩,
    fun hcond hparked => ?_, fun hpower hcap => ?_, fun mv hruns => ⟨fun hlow hhigh hstep hmay => ?_, fun hno => ?_⟩⟩
  · rcases hc with ⟨rfl, hover, hnew⟩ | ⟨rfl, hover, hnew⟩
    · exact exec_overcurrent (f := fun x => { x with ocPeak := true }) (if_pos ⟨hpow, hover, by rw [hnew]; rfl⟩)
        (fun _ => rfl) (fun _ => rfl) (fun _ => rfl) (fun _ => rfl) (fun _ => rfl)
    · exact exec_overcurrent (f := fun x => { x with ocSustained := true }) (if_pos ⟨hpow, hover, by rw [hnew]; rfl⟩)
        (fun _ => rfl) (fun x => by simp [overCurrent]) (fun _ => rfl) (fun _ => rfl) (fun _ => rfl)
  · refine ⟨min (Config.freeRailMv s.work.freeIx 0).toNat 1023,
      s.hub.safety.rails.mapIdx (fun n (r : Rail) => { r with measured := (Config.freeRailMv s.work.freeIx n).toNat }),
      Nat.min_le_right _ _, ?_, exec_inputSample hpow power volts⟩
    apply List.ext_getElem (by simp)
    intro i h1 h2
    simp
  · exact ⟨_, if_pos ⟨hpow, hcond, hcap⟩, rfl⟩
  · exact if_pos ⟨hpow, hcond, hcap, by rw [hparked]; rfl⟩
  · exact ⟨_, if_pos ⟨hpow, hparked, by rw [hcond]; rfl⟩, rfl⟩
  · exact ⟨_, if_pos ⟨hpow, hpower, hcap⟩, rfl⟩
  · have hgo : fwRuns s.hub 1 = true ∧ mayRequest s.hub mv = true := by
      refine ⟨hruns, ?_⟩
      rw [mayRequest, Bool.and_eq_true, Bool.or_eq_true, decide_eq_true_eq, decide_eq_true_eq, decide_eq_true_eq]
      exact ⟨⟨hlow, hhigh, hstep⟩, hmay⟩
    exact if_pos hgo
  · have hstay : ¬ (fwRuns s.hub 1 = true ∧ mayRequest s.hub mv = true) := by
      rintro ⟨_, hmay⟩
      rw [mayRequest, Bool.and_eq_true, Bool.or_eq_true, decide_eq_true_eq, decide_eq_true_eq, decide_eq_true_eq] at hmay
      omega
    exact if_neg hstay

end Sys2Proof.Machine

/-! ### Trips (15 R474, R477, R478, 19 R540, R551) -/

namespace Sys2Proof.Machine

/-- An orderly stop leaves the module Off, with its trip. -/
theorem orderlyStop_stops {s : State} {h : Hub} {w : Work} {code : Code} {source value : Nat}
    (hcount : h.safety.tripCount = s.hub.safety.tripCount) (hlog : h.safety.tripLog = s.hub.safety.tripLog) :
    Stopped { s with hub := (orderlyStop h w code source value).1, work := (orderlyStop h w code source value).2 } ∧
      Tripped s { s with hub := (orderlyStop h w code source value).1, work := (orderlyStop h w code source value).2 }
        code source value := by
  refine ⟨⟨rfl, rfl, ?_, rfl, fun _ => rfl⟩,
    trip_tripped (h := h.setSafety (fun s => { s with stopping := true }))
      (resetCopierRun (h.setSafety (fun s => { s with stopping := true })) w) code source value hcount hlog rfl⟩
  change emergency (trip (h.setSafety (fun s => { s with stopping := true }))
    (resetCopierRun (h.setSafety (fun s => { s with stopping := true })) w) code source value).1.safety = true
  simp [emergency, trip, Hub.setSafety]

/-- The boot after a reset keeps the state of the reference. -/
theorem refFail_bootAfter (h : Hub) (w : Work) : (bootAfter h w).1.safety.refFail = h.safety.refFail := by
  unfold bootAfter
  split
  · rfl
  · rw [(runBoot_hub _ _ _).1]
    obtain hsame | ⟨_, c, hload⟩ := (bootChain_safety { h with sec := { h.sec with coldWaits := false } } h.sec.coldWaits).2
    · rw [hsame]
    · rw [hload]
      rfl

theorem exec_tempSample {s : State} {temps : List Nat} (hpow : s.hub.ident.powered = true) (hlen : temps.length = 9) :
    (∀ d c : Nat, hotDie temps s.hub.safety.stopC = some (d, c) →
      exec (.tempSample temps) s =
        onState s (orderlyStop (s.hub.setSafety (fun x => { x with temps := temps })) s.work 0x0704 d c)) ∧
    (hotDie temps s.hub.safety.stopC = none →
      (∀ d c : Nat, hotDie temps s.hub.safety.parkC = some (d, c) → s.hub.safety.thermalPark = false →
        exec (.tempSample temps) s =
          onState s (trip ((s.hub.setSafety (fun x => { x with temps := temps })).setSafety (fun x =>
            { x with thermalPark := true })) s.work 0x0703 d c)) ∧
      (hotDie temps s.hub.safety.parkC = none →
        exec (.tempSample temps) s = .next { s with hub := s.hub.setSafety (fun x => { x with temps := temps }) })) := by
  have hall : (temps ++ s.hub.safety.temps.drop temps.length).take 9 = temps := by
    rw [← hlen, List.take_left]
  have hstop : (s.hub.setSafety (fun x => { x with temps := temps })).safety.stopC = s.hub.safety.stopC := rfl
  have hpark : (s.hub.setSafety (fun x => { x with temps := temps })).safety.parkC = s.hub.safety.parkC := rfl
  have hthermal : (s.hub.setSafety (fun x => { x with temps := temps })).safety.thermalPark = s.hub.safety.thermalPark := rfl
  have hruns : scRuns s.hub = true := hpow
  refine ⟨fun d c hhot => ?_, fun hcool => ⟨fun d c hhot hnew => ?_, fun hnone => ?_⟩⟩
  · simp only [exec, execTempSample, hruns, Bool.not_true, Bool.false_eq_true, if_false, hall, hstop, hhot]
  · simp only [exec, execTempSample, hruns, Bool.not_true, Bool.false_eq_true, if_false, hall, hstop, hpark, hcool, hhot,
      hthermal, hnew]
  · simp only [exec, execTempSample, hruns, Bool.not_true, Bool.false_eq_true, if_false, hall, hstop, hpark, hcool, hnone]

/-- The return of the reference starts a warm reset, or the boot that waited. -/
theorem exec_referenceRestored {s : State} {h : Hub} (hpow : s.hub.ident.powered = true)
    (hlost : s.hub.safety.refFail = true) (hgoes : s.hub.safety.stopping = false)
    (hh : h = { s.hub with safety := { s.hub.safety with refFail := false } }) :
    exec .referenceRestored s =
      if s.hub.ident.bootDone = true then onState s (warmReset h s.work) else onState s (bootAfter h s.work) := by
  have hmay : mayReset h = true := by
    rw [mayReset, hh]
    simp [hpow, hgoes]
  have hset : s.hub.setSafety (fun x => { x with refFail := false }) = h := hh.symm
  have hboot : h.ident.bootDone = s.hub.ident.bootDone := by rw [hh]
  simp only [exec, execReferenceRestored, hlost, hset, hmay, hboot, Bool.not_true, Bool.false_eq_true, if_false]

/-- Settles O52: every stop is `orderlyStop`, and every trip `trip`. -/
theorem tripsStopOrParkTheModule : Obligations.TripsStopOrParkTheModule := by
  intro s hpow
  refine ⟨fun c volts hc => ?_, fun rail mv hrail hout => ?_, fun temps hlen => ⟨fun d c hhot => ?_,
    fun d c hcool hhot hnew => ?_, fun hcool hnone => ?_⟩, fun hpark hcold => ?_, fun href => ?_, fun hlost hgoes => ?_⟩
  · have hexec : exec c s = onState s (orderlyStop s.hub s.work 0x0704 inputSource volts) := by
      rcases hc with ⟨rfl, hlow⟩ | ⟨rfl, hhigh⟩ | rfl
      · exact if_pos ⟨hpow, hlow⟩
      · exact if_pos ⟨hpow, hhigh⟩
      · exact if_pos hpow
    exact ⟨_, hexec, orderlyStop_stops rfl rfl⟩
  · exact ⟨_, if_pos ⟨hpow, hrail, hout⟩, orderlyStop_stops rfl rfl⟩
  · obtain ⟨hstopped, htripped⟩ := orderlyStop_stops (s := s) (h := s.hub.setSafety (fun x => { x with temps := temps }))
      (w := s.work) (code := 0x0704) (source := d) (value := c) rfl rfl
    exact ⟨_, (exec_tempSample hpow hlen).1 d c hhot, hstopped, htripped, rfl⟩
  · exact ⟨_, ((exec_tempSample hpow hlen).2 hcool).1 d c hhot hnew, rfl, rfl, tripped_onState rfl rfl, rfl⟩
  · exact ((exec_tempSample hpow hlen).2 hcool).2 hnone
  · exact ⟨_, if_pos ⟨hpow, hpark, hcold⟩, rfl⟩
  · have hexec : exec .referenceLost s =
        onState s (trip (s.hub.setSafety (fun x => { x with refFail := true })) s.work 0x0706 inputSource 0) := by
      simp only [exec, execReferenceLost, href, Bool.false_eq_true, if_false, if_pos (show scRuns s.hub = true from hpow)]
    exact ⟨_, hexec, rfl, rfl, tripped_onState rfl rfl⟩
  · have hexec := exec_referenceRestored hpow hlost hgoes rfl
    refine ⟨_, rfl, fun hboot => ?_, fun hboot => ?_, ?_⟩
    · have hmay : mayReset { s.hub with safety := { s.hub.safety with refFail := false } } = true := by
        rw [mayReset]
        simp [hpow, hgoes]
      rw [hexec, if_pos hboot]
      exact (if_pos hmay).symm
    · rw [hexec, hboot, if_neg Bool.false_ne_true]
      rfl
    · rw [hexec]
      split
      · exact ⟨_, rfl, refFail_bootAfter _ _⟩
      · exact ⟨_, rfl, refFail_bootAfter _ _⟩

end Sys2Proof.Machine

/-! ### Records reach their rings (17 R509 to R523) -/

namespace Sys2Proof.Machine

/-! #### The causal clock and the stamp of a record -/

theorem noteCausal_causal (l : Logs) (domain : Nat) (k : BitVec 32) : (noteCausal l domain k).causal = l.causal := by
  unfold noteCausal
  split <;> rfl

theorem place_causal (l : Logs) (r : LogRec) : (place l r).causal = l.causal := by
  unfold place
  split
  · rfl
  · split <;> rfl

theorem stamp_causal (h : Hub) (w : Work) (flags : Nat) (r : LogSource) :
    (stamp h w flags r).1.logs.causal = w.logs.causal + 1 :=
  noteCausal_causal _ _ _

/-- A stamp leaves the shared entries of the queue as they are, so a free one takes the record. -/
theorem place_stamp_of_shared {h : Hub} {w : Work} (flags : Nat) (r : LogSource) (hfree : sharedUsed w.logs < 704) :
    (place (stamp h w flags r).1.logs (stamp h w flags r).2).queue =
      w.logs.queue ++ [⟨(stamp h w flags r).2, true⟩] := by
  have hshared : sharedUsed (stamp h w flags r).1.logs < 704 := by rwa [sharedUsed, stamp_queue]
  rw [place, if_pos hshared, stamp_queue]

/-- A record that is not merged takes the next causal number, and a shared entry where one is free. -/
theorem emit_stamped {h : Hub} {w : Work} {r : LogSource}
    (hnone : ¬ (1 ≤ r.cls ∧ r.cls ≤ 10 ∧ w.logs.queue.any (fun q => coalesces q.record r w.upd.accepted) = true)) :
    (emit h w r).logs.causal = w.logs.causal + 1 ∧ (emit h w r).mem = w.mem ∧
      (sharedUsed w.logs < 704 →
        ∃ x : LogRec, (emit h w r).logs.queue = w.logs.queue ++ [⟨x, true⟩] ∧ x.cls = r.cls ∧ x.code = r.code ∧
          x.unit = r.unit ∧ x.step = w.upd.accepted ∧ x.causal = w.logs.causal + 1 ∧ x.rep = 0) := by
  rw [emit_of_not_waiting hnone]
  exact ⟨(place_causal _ _).trans (stamp_causal h w 0 r), rfl,
    fun hfree => ⟨(stamp h w 0 r).2, place_stamp_of_shared 0 r hfree, rfl, rfl, rfl, rfl, rfl, rfl⟩⟩

/-! #### The alarm that leaves -/

theorem exec_alarmSend_of_window {s : State} {passed : Bool} {a : AlarmEntry} {rest : List AlarmEntry}
    (hpow : s.hub.ident.powered = true) (hqueue : s.work.logs.alarmQueue = a :: rest)
    (hwindow : passed = true ∨ s.work.logs.alarmWindow = 0 ∨ s.work.logs.alarmWindow + a.dests.length ≤ 24) :
    exec (.alarmSend passed) s =
      .next { s with
        work := sendAlarmTo s.hub
          (s.work.setLogs (fun l => { l with alarmQueue := rest, alarmWindow := if passed then 0 else l.alarmWindow }))
          a.record a.dests } := by
  have hworks : funnelWorks s.hub = true := hpow
  cases passed with
  | true =>
    simp only [exec, execAlarmSend, onWork, hworks, Work.setLogs, hqueue, Bool.not_true, Bool.false_eq_true, if_false,
      if_true, or_true]
  | false =>
    have hgo : s.work.logs.alarmWindow + a.dests.length ≤ 24 ∨ s.work.logs.alarmWindow = 0 :=
      (hwindow.resolve_left Bool.false_ne_true).symm
    simp only [exec, execAlarmSend, onWork, hworks, Work.setLogs, hqueue, if_pos hgo, Bool.not_true, Bool.false_eq_true,
      if_false]

/-! #### What FW5 writes -/

theorem exec_logRingWrite {s : State} (cls : Nat) (hfw : fwRuns s.hub 5 = true) :
    exec (.logRingWrite cls) s = .next { s with work := writeOldest s.hub s.work cls } := by
  simp only [exec, execLogRingWrite, onWork, if_pos hfw]

/-- The funnel has written a class-0 record already, so that it is only forwarded. -/
theorem writeOldest_alarm {h : Hub} {w : Work} {r : LogRec} {rest : List QueueEntry}
    (htake : takeRecord 0 w.logs.queue = some (r, rest)) :
    writeOldest h w 0 = forwardRecord h (w.setLogs (fun l => { l with queue := rest })) r := by
  simp only [writeOldest, htake, if_true]

theorem writeOldest_ring {h : Hub} {w : Work} {cls : Nat} {r : LogRec} {rest : List QueueEntry}
    (htake : takeRecord cls w.logs.queue = some (r, rest)) (hcls : cls ≠ 0) :
    writeOldest h w cls = writeNext h (writeSummary h w cls) cls := by
  simp only [writeOldest, htake, if_neg hcls]

theorem writeSummary_of_none {h : Hub} {w : Work} {cls : Nat} (hnone : (w.logs.unsummed.getD cls (0, 0)).1 = 0) :
    writeSummary h w cls = w := by
  have hdue : summaryDue w.logs cls = false := by rw [summaryDue, hnone]; rfl
  rw [writeSummary, if_neg (by rw [hdue]; exact Bool.false_ne_true)]

theorem writeNext_of_free {h : Hub} {w : Work} {cls : Nat} {r : LogRec} {rest : List QueueEntry}
    (htake : takeRecord cls w.logs.queue = some (r, rest)) (hnone : (w.logs.unsummed.getD cls (0, 0)).1 = 0)
    (hfree : ringFree w.logs cls = true) :
    writeNext h w cls = forwardRecord h (putRing h (w.setLogs (fun l => { l with queue := rest })) cls r) r := by
  simp only [writeNext, htake, hnone, hfree, ne_eq, not_true_eq_false, Bool.not_true, Bool.false_eq_true, or_self, if_false]

/-- Settles O57: a record that merges with none is stamped and placed (`emit_stamped`), an alarm leaves in a window that holds
it (`exec_alarmSend_of_window`), and FW5 writes a summary that is due before the oldest record of a class. -/
theorem recordsReachTheirRings : Obligations.RecordsReachTheirRings := by
  intro s hpow
  refine ⟨fun r hlow hhigh hnone => ?_, fun passed a rest hqueue hwindow => exec_alarmSend_of_window hpow hqueue hwindow,
    fun cls r rest hfw htake => ?_⟩
  · have hmerges : ¬ (1 ≤ r.cls ∧ r.cls ≤ 10 ∧
        s.work.logs.queue.any (fun q => coalesces q.record r s.work.upd.accepted) = true) := by
      rintro ⟨-, hten, hany⟩
      obtain htrace | hno := hnone
      · omega
      · exact Bool.false_ne_true (hno.symm.trans hany)
    obtain ⟨hcausal, hmem, hplaced⟩ := emit_stamped (h := s.hub) hmerges
    exact ⟨_, exec_logRecord hpow hlow hhigh, hcausal, rfl, hmem, hplaced⟩
  · rw [exec_logRingWrite cls hfw]
    refine ⟨fun hcls => ?_, fun hcls hunsummed hfree => ?_, fun hcls _ => ?_⟩
    · subst hcls
      rw [writeOldest_alarm htake]
    · rw [writeOldest_ring htake hcls, writeSummary_of_none hunsummed, writeNext_of_free htake hunsummed hfree]
    · rw [writeOldest_ring htake hcls]

end Sys2Proof.Machine

/-! ### Attestation (16 R503 to R505) -/

namespace Sys2Proof.Machine

/-- A request in its order is answered by what serves it. -/
theorem spdmServe_runs {s : State} {stage : Nat} (run : Hub → Out) (hfw : fwRuns s.hub 0 = true)
    (hstage : stage ≤ s.hub.sec.spdm) : spdmServe s stage run = run s.hub := by
  simp only [spdmServe, hfw, Bool.not_true, Bool.false_eq_true, if_false, if_neg (Nat.not_lt.mpr hstage)]

/-- An SPDM error changes nothing but the response. -/
theorem spdmError_answers (s : State) (h : Hub) (code : Nat) :
    ∃ t : State, spdmError s h code = .next t ∧ t.hub = h ∧ t.work.replies.spdmCode = 0x7F :=
  ⟨_, rfl, rfl, rfl⟩

/-- A request before its stage is an error. -/
theorem spdmServe_early {s : State} {stage : Nat} (run : Hub → Out) (hfw : fwRuns s.hub 0 = true)
    (hearly : s.hub.sec.spdm < stage) :
    ∃ t : State, spdmServe s stage run = .next t ∧ t.hub = s.hub ∧ t.work.replies.spdmCode = 0x7F := by
  simp only [spdmServe, hfw, Bool.not_true, Bool.false_eq_true, if_false, if_pos hearly]
  exact spdmError_answers _ _ _

/-! #### The requests and their stages -/

/-- A request that FW0 serves at a stage of its order. -/
def ServedFrom (c : Instr) (s : State) (stage : Nat) (run : Hub → Out) : Prop := exec c s = spdmServe s stage run

theorem ServedFrom.runs {c : Instr} {s : State} {stage : Nat} {run : Hub → Out} (hserved : ServedFrom c s stage run)
    (hfw : fwRuns s.hub 0 = true) (hstage : stage ≤ s.hub.sec.spdm) : exec c s = run s.hub :=
  hserved.trans (spdmServe_runs run hfw hstage)

theorem ServedFrom.early {c : Instr} {s : State} {stage : Nat} {run : Hub → Out} (hserved : ServedFrom c s stage run)
    (hfw : fwRuns s.hub 0 = true) (hearly : s.hub.sec.spdm < stage) :
    ∃ t : State, exec c s = .next t ∧ t.hub = s.hub ∧ t.work.replies.spdmCode = 0x7F := by
  rw [ServedFrom] at hserved
  rw [hserved]
  exact spdmServe_early run hfw hearly

theorem served_getVersion (s : State) :
    ServedFrom .getVersion s 0
      fun h => spdmReply s (h.setSec (fun x => { x with spdm := 1 })) 0x04 (leBytes 2 0x1200) := rfl

theorem served_getCapabilities (s : State) :
    ServedFrom .getCapabilities s 1
      fun h => spdmReply s (h.setSec (fun x => { x with spdm := 2 })) 0x61 (leBytes 4 0x16) := rfl

theorem served_negotiateAlgorithms (a b : Bool) (s : State) :
    ServedFrom (.negotiateAlgorithms a b) s 2 fun h =>
      if a && b then spdmReply s (h.setSec (fun x => { x with spdm := 3 })) 0x63 [1, 1] else spdmError s h errInvalid := rfl

theorem served_getDigests (s : State) :
    ServedFrom .getDigests s 3 fun h => spdmReply s h 0x01 (leBytes 1 1 ++ Config.sha384 (chainOf h)) := rfl

/-- The portion of the chain that a request names. -/
def chainPart (h : Hub) (offset len : Nat) : List Byte := ((chainOf h).drop offset).take (min len 65535)

theorem served_getCertificate (offset len : Nat) (s : State) :
    ServedFrom (.getCertificate 0 offset len) s 3 fun h =>
      if 0 ≠ 0 ∨ (chainOf h).length ≤ offset then spdmError s h errInvalid
      else
        spdmReply s h 0x02
          (leBytes 2 (chainPart h offset len).length ++
            leBytes 2 ((chainOf h).length - offset - (chainPart h offset len).length) ++ chainPart h offset len) := rfl

theorem served_challenge (slot : Nat) (transcript : List Byte) (passed : Bool) (s : State) :
    ServedFrom (.challenge slot transcript passed) s 3 fun h =>
      if slot ≠ 0 then spdmError s h errInvalid
      else signedReply s h passed 0x03 (Config.sha384 (chainOf h)) transcript := rfl

/-- The measurement of an index that exists is signed. -/
def measured (s : State) (transcript : List Byte) (passed : Bool) (h : Hub) (body : Option (List Byte)) : Out :=
  body.elim (spdmError s h errInvalid) fun b => signedReply s h passed 0x60 b transcript

theorem served_getMeasurements (index : Nat) (transcript : List Byte) (passed : Bool) (s : State) :
    ServedFrom (.getMeasurements index transcript passed) s 3 fun h =>
      measured s transcript passed h (measurementBody h index) := by
  have hrun : ∀ h : Hub,
      (match measurementBody h index with
        | none => spdmError s h errInvalid
        | some b => signedReply s h passed 0x60 b transcript) =
      measured s transcript passed h (measurementBody h index) := by
    intro h
    cases measurementBody h index <;> rfl
  simp only [ServedFrom, ← hrun]
  rfl

/-! #### Signed responses -/

/-- The machine of a signed response: with `passed` a new period of 10 s has begun. -/
def signingHub (h : Hub) (passed : Bool) : Hub :=
  if passed then { h with sec := { h.sec with responses := 0 } } else h

/-- The period of 10 s has no part in what a signature is made of. -/
theorem signingHub_keeps (h : Hub) (passed : Bool) (transcript : List Byte) :
    (signingHub h passed).sec.lmsReady = h.sec.lmsReady ∧ (signingHub h passed).fw = h.fw ∧
      bothSignatures (signingHub h passed) transcript = bothSignatures h transcript := by
  cases passed <;> exact ⟨rfl, rfl, rfl⟩

/-- At most 200 signed responses in 10 s, each with an index of the device LMS key, and none without one. -/
theorem signedReply_cases (s : State) (h : Hub) (passed : Bool) (code : Nat) (body transcript : List Byte) :
    (200 ≤ (signingHub h passed).sec.responses →
      ∃ t : State, signedReply s h passed code body transcript = .next t ∧ t.hub = signingHub h passed ∧
        t.work.replies.spdmCode = 0x7F) ∧
    ((signingHub h passed).sec.responses < 200 → h.sec.lmsReady = true →
      ∃ t : State, signedReply s h passed code body transcript = .next t ∧ t.hub = useIndex (signingHub h passed) ∧
        t.work.replies.spdmCode = code ∧ t.work.replies.spdmBody = body ++ bothSignatures h transcript) ∧
    ((signingHub h passed).sec.responses < 200 → h.sec.lmsReady = false →
      ∃ t : State, signedReply s h passed code body transcript = .next t ∧ t.hub = signingHub h passed ∧
        t.work.replies.spdmCode = 0x7F ∧
        t.work.replies.spdmBody = leBytes 2 (if h.fw.flash.counterOk then 0x0807 else 0x0808)) := by
  obtain ⟨hready, hfw, hsign⟩ := signingHub_keeps h passed transcript
  have hreply : signedReply s h passed code body transcript =
      (if 200 ≤ (signingHub h passed).sec.responses then spdmError s (signingHub h passed) errBusy
      else if !(signingHub h passed).sec.lmsReady then
        spdmReply s (signingHub h passed) 0x7F (leBytes 2 (lmsRefusal (signingHub h passed)).toNat)
      else spdmReply s (useIndex (signingHub h passed)) code (body ++ bothSignatures (signingHub h passed) transcript)) := rfl
  rw [hreply, hready, hsign, lmsRefusal, hfw]
  refine ⟨fun hbusy => ?_, fun hfree hlms => ?_, fun hfree hlms => ?_⟩
  · rw [if_pos hbusy]
    exact spdmError_answers _ _ _
  · rw [if_neg (Nat.not_le.mpr hfree), hlms]
    exact ⟨_, rfl, rfl, rfl, rfl⟩
  · rw [if_neg (Nat.not_le.mpr hfree), hlms]
    refine ⟨_, rfl, rfl, rfl, ?_⟩
    cases h.fw.flash.counterOk <;> rfl

/-- A challenge of slot 0 and a measurement that exists are signed. -/
theorem exec_signed {s : State} {c : Instr} {code index : Nat} {body transcript : List Byte} {passed : Bool}
    (hfw : fwRuns s.hub 0 = true) (hstage : 3 ≤ s.hub.sec.spdm)
    (hc : (c = .challenge 0 transcript passed ∧ code = 0x03 ∧ body = Config.sha384 (chainOf s.hub)) ∨
      (c = .getMeasurements index transcript passed ∧ code = 0x60 ∧ measurementBody s.hub index = some body)) :
    exec c s = signedReply s s.hub passed code body transcript := by
  obtain ⟨rfl, rfl, rfl⟩ | ⟨rfl, rfl, hbody⟩ := hc
  · exact ((served_challenge 0 transcript passed s).runs hfw hstage).trans (if_neg (not_not_intro rfl))
  · rw [(served_getMeasurements index transcript passed s).runs hfw hstage, hbody]
    rfl

/-- Where the block of indices is not used up, one more is used and the flash is unchanged. -/
theorem useIndex_of_block {h : Hub} (hblock : h.sec.nextIndex + 1 < 4096 * (h.sec.lmsBlock + 1)) :
    (useIndex h).sec.nextIndex = h.sec.nextIndex + 1 ∧ (useIndex h).fw = h.fw := by
  have hrun : useIndex h = h.setSec (fun x => { x with nextIndex := x.nextIndex + 1, responses := x.responses + 1 }) :=
    if_neg (Nat.not_le.mpr hblock)
  rw [hrun]
  exact ⟨rfl, rfl⟩

/-! #### Digests and certificates -/

/-- A portion of the chain of slot 0, behind its two length fields. -/
theorem exec_getCertificate {s : State} (offset len : Nat) (hfw : fwRuns s.hub 0 = true)
    (hstage : 3 ≤ s.hub.sec.spdm) :
    ∃ t : State, exec (.getCertificate 0 offset len) s = .next t ∧ t.hub = s.hub ∧
      (t.work.replies.spdmCode, t.work.replies.spdmBody.drop 4) =
        (if offset < (chainOf s.hub).length then (0x02, ((chainOf s.hub).drop offset).take (min len 65535))
         else (0x7F, [])) := by
  rw [(served_getCertificate offset len s).runs hfw hstage]
  by_cases hin : offset < (chainOf s.hub).length
  · rw [if_neg (by omega), if_pos hin]
    exact ⟨_, rfl, rfl, rfl⟩
  · rw [if_pos (by omega), if_neg hin]
    exact ⟨_, rfl, rfl, rfl⟩

/-- Every request after the first before its stage (16 R503). -/
theorem exec_early {s : State} {c : Instr} {a b : Bool} {n m : Nat} {bs : List Byte} (hfw : fwRuns s.hub 0 = true)
    (hc : (s.hub.sec.spdm = 0 ∧ c = .getCapabilities) ∨ (s.hub.sec.spdm < 2 ∧ c = .negotiateAlgorithms a b) ∨
      (s.hub.sec.spdm < 3 ∧
        (c = .getDigests ∨ c = .getCertificate 0 n m ∨ c = .challenge n bs a ∨ c = .getMeasurements n bs a))) :
    ∃ t : State, exec c s = .next t ∧ t.hub = s.hub ∧ t.work.replies.spdmCode = 0x7F := by
  obtain ⟨hstage, rfl⟩ | ⟨hstage, rfl⟩ | ⟨hstage, rfl | rfl | rfl | rfl⟩ := hc
  · exact (served_getCapabilities s).early hfw (Nat.lt_succ_of_le hstage.le)
  · exact (served_negotiateAlgorithms a b s).early hfw hstage
  · exact (served_getDigests s).early hfw hstage
  · exact (served_getCertificate n m s).early hfw hstage
  · exact (served_challenge n bs a s).early hfw hstage
  · exact (served_getMeasurements n bs a s).early hfw hstage

theorem exec_negotiateAlgorithms {s : State} (hfw : fwRuns s.hub 0 = true) (hstage : 2 ≤ s.hub.sec.spdm) :
    (∃ t : State, exec (.negotiateAlgorithms true true) s = .next t ∧ t.hub.sec.spdm = 3 ∧
      t.work.replies.spdmCode = 0x63) ∧
    (∀ a b : Bool, (a && b) = false →
      ∃ t : State, exec (.negotiateAlgorithms a b) s = .next t ∧ t.hub = s.hub ∧ t.work.replies.spdmCode = 0x7F) := by
  refine ⟨⟨_, (served_negotiateAlgorithms true true s).runs hfw hstage, rfl, rfl⟩, fun a b hno => ?_⟩
  rw [(served_negotiateAlgorithms a b s).runs hfw hstage, hno]
  exact spdmError_answers _ _ _

/-- Another slot, and a measurement that does not exist, are errors. -/
theorem exec_unknown {s : State} (slot index : Nat) (transcript : List Byte) (passed : Bool)
    (hfw : fwRuns s.hub 0 = true) (hstage : 3 ≤ s.hub.sec.spdm) :
    (slot ≠ 0 →
      ∃ t : State, exec (.challenge slot transcript passed) s = .next t ∧ t.hub = s.hub ∧
        t.work.replies.spdmCode = 0x7F) ∧
    (measurementBody s.hub index = none →
      ∃ t : State, exec (.getMeasurements index transcript passed) s = .next t ∧ t.hub = s.hub ∧
        t.work.replies.spdmCode = 0x7F) := by
  refine ⟨fun hslot => ?_, fun hnone => ?_⟩
  · rw [(served_challenge slot transcript passed s).runs hfw hstage, if_pos hslot]
    exact spdmError_answers _ _ _
  · rw [(served_getMeasurements index transcript passed s).runs hfw hstage, hnone]
    exact spdmError_answers _ _ _

/-- Settles O55: each request is served at its stage (`ServedFrom.runs`) or is an error before it (`exec_early`), and the signed
ones go through `signedReply_cases`. -/
theorem attestationAnswersRequests : Obligations.AttestationAnswersRequests := by
  intro s hfw
  refine ⟨⟨_, (served_getVersion s).runs hfw (Nat.zero_le _), rfl, rfl, rfl⟩, fun c a b n m bs hc => exec_early hfw hc,
    fun hstage => ⟨_, (served_getCapabilities s).runs hfw hstage, rfl, rfl⟩, fun hstage => exec_negotiateAlgorithms hfw hstage,
    fun hstage => ?_, useIndex_of_block⟩
  refine ⟨⟨_, (served_getDigests s).runs hfw hstage, rfl, rfl⟩, fun offset len => exec_getCertificate offset len hfw hstage,
    fun slot index transcript passed => exec_unknown slot index transcript passed hfw hstage, ?_⟩
  rintro c code body transcript index passed h hc rfl
  rw [exec_signed hfw hstage hc]
  exact signedReply_cases s s.hub passed code body transcript

end Sys2Proof.Machine

/-! ### The sideband and the debug port (19 R541 to R544, 16 R501) -/

namespace Sys2Proof.Machine

/-! #### What a boot leaves of the identity and of the recovery contacts -/

theorem reserveLms_keeps (h : Hub) :
    (reserveLms h).1.ident = h.ident ∧ (reserveLms h).1.sec.spiOpen = h.sec.spiOpen := by
  unfold reserveLms
  dsimp only
  split
  · exact ⟨rfl, rfl⟩
  · split <;> exact ⟨rfl, rfl⟩

theorem bootBank_done (h : Hub) (cold : Bool) (uds : List Byte) (bank : Nat) (fallback : Bool) (code : Code) :
    (bootBank h cold uds bank fallback code).ident.bootDone = true ∧
      (bootBank h cold uds bank fallback code).sec.spiOpen = h.sec.spiOpen := by
  unfold bootBank
  dsimp only
  rw [(reserveLms_keeps _).1, (reserveLms_keeps _).2]
  exact ⟨rfl, rfl⟩

/-- Every boot completes, stopped or not (16 R498). -/
theorem bootChain_done (h : Hub) (cold : Bool) :
    (bootChain h cold).ident.bootDone = true ∧ (bootChain h cold).sec.spiOpen = h.sec.spiOpen := by
  unfold bootChain
  split
  · exact ⟨rfl, rfl⟩
  · split
    · exact ⟨rfl, rfl⟩
    · split
      · exact ⟨rfl, rfl⟩
      · exact bootBank_done _ _ _ _ _ _

theorem runBoot_ident (h : Hub) (w : Work) (cold : Bool) : (runBoot h w cold).1.ident = (bootChain h cold).ident := by
  unfold runBoot
  dsimp only
  split <;> rfl

/-- While the contacts connect to the flash no boot runs. -/
theorem bootAfter_of_spiOpen {h : Hub} (w : Work) (hopen : h.sec.spiOpen = true) : bootAfter h w = (h, w) :=
  if_pos (by rw [hopen, Bool.or_true])

theorem spiOpen_bootAfter (h : Hub) (w : Work) : (bootAfter h w).1.sec.spiOpen = h.sec.spiOpen := by
  unfold bootAfter
  split
  · rfl
  · rw [(runBoot_hub _ _ _).2, (bootChain_done _ _).2]

theorem bootDone_bootAfter {h : Hub} (w : Work) (href : h.safety.refFail = false) (hclosed : h.sec.spiOpen = false) :
    (bootAfter h w).1.ident.bootDone = true := by
  rw [bootAfter, if_neg (by rw [href, hclosed]; exact Bool.false_ne_true), runBoot_ident, (bootChain_done _ _).1]

/-! #### FAULT_N (R541) -/

/-- Without an emergency FAULT_N is low exactly while a processor is not alive after the boot. -/
theorem faultN_of_calm {h : Hub} (hcalm : emergency h.safety = false) :
    faultN h = true ↔
      ¬ (h.ident.bootDone = true ∧ ∃ n, n < 6 ∧ h.ident.fwAlive.getD n false = false) := by
  simp only [faultN, hcalm, Bool.false_or, Bool.not_eq_true', ← Bool.not_eq_true, Bool.and_eq_true, List.any_eq_true,
    List.mem_range]

theorem faultN_of_emergency {h : Hub} (hemergency : emergency h.safety = true) : faultN h = false := by
  rw [faultN, hemergency, Bool.true_or, Bool.not_true]

theorem faultN_of_dead {h : Hub} {n : Nat} (hn : n < 6) (hdone : h.ident.bootDone = true)
    (hdead : h.ident.fwAlive.getD n false = false) : faultN h = false := by
  cases hcalm : emergency h.safety with
  | true => exact faultN_of_emergency hcalm
  | false => exact Bool.eq_false_iff.mpr fun hhigh => (faultN_of_calm hcalm).mp hhigh ⟨hdone, n, hn, hdead⟩

/-! #### The resets of the sideband -/

/-- RESET_N low for 1 s opens the contacts to the flash, and the boot of the reset waits (log 54). -/
theorem exec_spiRecovery {s : State} (hreset : mayReset s.hub = true) :
    ∃ t : State, exec .spiRecovery s = .next t ∧ t.hub.sec.spiOpen = true ∧ t.hub.ident.bootDone = false := by
  refine ⟨_, if_pos hreset, ?_⟩
  rw [warmReset, bootAfter_of_spiOpen _ rfl]
  exact ⟨rfl, rfl⟩

/-- RESET_N rises: the contacts close, and the boot runs where the reference is present. -/
theorem exec_spiRecoveryEnd {s : State} (hreset : mayReset s.hub = true) (hopen : s.hub.sec.spiOpen = true) :
    ∃ t : State, exec .spiRecoveryEnd s = .next t ∧ t.hub.sec.spiOpen = false ∧
      (s.hub.safety.refFail = false → t.hub.ident.bootDone = true) :=
  ⟨_, if_pos ⟨hopen, hreset⟩, spiOpen_bootAfter _ _, fun href => bootDone_bootAfter _ href rfl⟩

/-! #### The I²C target and the wake timer -/

theorem exec_i2cUnknownCommand {s : State} {b : Byte} (hans : i2cAnswers s.hub = true) (hread : b ≠ 1) (hwake : b ≠ 2) :
    exec (.i2cUnknownCommand b) s =
      .next { s with work := { s.work with replies := { s.work.replies with i2cStatus := 0x0604, i2cData := 0 } } } := by
  have hunknown : (i2cAnswers s.hub && b != 1 && b != 2) = true := by
    rw [hans, bne_iff_ne.mpr hread, bne_iff_ne.mpr hwake]
    rfl
  simp only [exec, execI2cUnknownCommand, onWork, if_pos hunknown, i2cStatusReply]

theorem exec_wakeTimer {s : State} (hpow : s.hub.ident.powered = true) (hstandby : s.hub.ident.powerState = 2) :
    ∃ t : State, exec .wakeTimer s = .next t ∧ t.hub.ident.powerState = 0 ∧ t.hub.safety = s.hub.safety := by
  refine ⟨_, rfl, leaveStandby_powerState _ hpow hstandby, ?_⟩
  rw [leaveStandby, if_pos ⟨hpow, hstandby⟩]
  rfl

/-! #### The debug port (16 R501) -/

theorem exec_debugInstruction {s : State} (ir : Nat) (hpow : s.hub.ident.powered = true) :
    exec (.debugInstruction ir) s =
      .next { s with
        hub := { s.hub with
          sec := { s.hub.sec with debugIr := effectiveIr s.hub ir, bypass := effectiveIr s.hub ir == bypassIr } } } :=
  if_pos hpow

theorem effectiveIr_of_taken {h : Hub} {ir : Nat} (htaken : ir ≤ 3 ∨ h.sec.debugOpen = true) : effectiveIr h ir = ir := by
  refine if_neg ?_
  obtain hmandatory | hopen := htaken
  · have hnot : isVendorIr ir = false := decide_eq_false (Nat.not_lt.mpr hmandatory)
    simp [hnot]
  · simp [hopen]

theorem effectiveIr_of_vendor {h : Hub} {ir : Nat} (hvendor : 3 < ir) (hclosed : h.sec.debugOpen = false) :
    effectiveIr h ir = 3 :=
  if_pos (by simp [isVendorIr, bypassIr, hvendor, hclosed])

/-- Settles O54: RESET_N is the module warm reset, whose boot waits while the recovery contacts are open
(`bootAfter_of_spiOpen`) and completes once they close (`bootDone_bootAfter`); a vendor debug instruction of a closed port takes
effect as BYPASS (`effectiveIr_of_vendor`). -/
theorem sidebandAndDebugPortAct : Obligations.SidebandAndDebugPortAct := by
  intro s
  refine ⟨faultN_of_emergency, fun n hn hdone hdead => faultN_of_dead hn hdone hdead, fun hcalm hboot => ?_,
    fun hcalm halive => ?_, fun hreset => ?_, fun hans => ?_, fun hpow => ?_⟩
  · refine (faultN_of_calm hcalm).mpr fun ⟨hdone, _⟩ => ?_
    exact Bool.false_ne_true (hboot.symm.trans hdone)
  · refine (faultN_of_calm hcalm).mpr fun ⟨_, n, hn, hdead⟩ => ?_
    exact Bool.false_ne_true (hdead.symm.trans (halive n hn))
  · exact ⟨rfl, ⟨_, if_pos hreset⟩, exec_spiRecovery hreset, exec_spiRecoveryEnd hreset⟩
  · refine ⟨fun b hread hwake => exec_i2cUnknownCommand hans hread hwake, _, exec_wake hans, rfl, fun hstandby => ?_⟩
    obtain ⟨hpow, -⟩ := (Bool.and_eq_true _ _).mp hans
    exact leaveStandby_powerState _ hpow hstandby
  · refine ⟨exec_wakeTimer hpow, fun ir => ⟨fun htaken => ?_, fun hvendor hclosed => ?_⟩⟩
    · rw [exec_debugInstruction ir hpow, effectiveIr_of_taken htaken]
      rfl
    · rw [exec_debugInstruction ir hpow, effectiveIr_of_vendor hvendor hclosed]
      rfl

end Sys2Proof.Machine
